-- ==== Sys2Proof/Word.lean ====
section
/-! DEFINITION. The machine's word and byte types and their plainest arithmetic (R2, R3). -/

namespace Sys2Proof

/-- An instruction word, an address or a 64-bit register (R28, R29). -/
abbrev Word := BitVec 64

/-- One byte of memory. -/
abbrev Byte := BitVec 8

/-- One 32-bit memory word or FP32 value. -/
abbrev W32 := BitVec 32

end Sys2Proof
end

