-- ==== Sys2Proof/Syntax.lean ====
section
/-! DEFINITION. The instruction set's syntax: operands, guards, participant sets, and one constructor per row of
spec/opcode_table.json. The first part of `Instr` are instruction words (02 Table 2.9); then come the events of the
table, steps of the machine's units and of the host, which no instruction word encodes. The constructors that no definition builds
and those without arguments stand last, because Lean compiles only the first 244 constructors with arguments as values. -/

namespace Sys2Proof

/-- Operand width (02 Table 2.5), in the order of its codes. -/
inductive Width
  | w4 | w8 | w12 | w16 | w24 | w32 | w48 | w64
deriving DecidableEq, Repr, Inhabited

/-- The width in bits (02 Table 2.5). -/
def Width.bits : Width → Nat
  | .w4 => 4 | .w8 => 8 | .w12 => 12 | .w16 => 16 | .w24 => 24 | .w32 => 32 | .w48 => 48 | .w64 => 64

/-- How many slices a value of this width covers (R66). -/
def Width.slices (w : Width) : Nat := w.bits / 4

/-- What an operand's selector names (02 Table 2.6). -/
inductive Sel
  | slice (n : Fin 960)
  | latch (n : Fin 8)
  | index (n : Fin 8)
  | affine (n : Fin 16)
  | zero | lane | grp | team | ones
  | reserved (n : Fin 27)
deriving DecidableEq, Repr, Inhabited

/-- An operand field (R44): width, X bit, selector. -/
structure Operand where
  w : Width
  x : Bool
  sel : Sel
deriving DecidableEq, Repr, Inhabited

/-- The guard field of a word that takes a guard (R42). -/
inductive Guard
  | always
  | on (neg : Bool) (bit : BitVec 2) (slice : BitVec 6)
deriving DecidableEq, Repr, Inhabited

/-- The participant set of a class F word (R43, R196). -/
inductive PSet
  | mask (n : Fin 12) | tset | all
deriving DecidableEq, Repr, Inhabited

/-- How a compare combines with the predicate bit (04 Table 4.4). -/
inductive PMode
  | set | and | or
deriving DecidableEq, Repr, Inhabited

/-- A predicate bit of a physical slice 0-63 (R110). -/
structure PredBit where
  bit : BitVec 2
  slice : BitVec 6
deriving DecidableEq, Repr, Inhabited

/-- ICMP conditions (04 Table 4.5). -/
inductive ICond
  | eq | ne | lt | le | gt | ge | ltu | leu | gtu | geu | tst | ntst
deriving DecidableEq, Repr, Inhabited

/-- FCMP conditions (06 Table 6.5). -/
inductive FCond
  | eq | ne | lt | le | gt | ge | ord | uno
deriving DecidableEq, Repr, Inhabited

/-- The mode field of FRND, CVTFI and CVTIF (R152). -/
inductive RMode
  | rne | rtz | rdn | rup | dyn
deriving DecidableEq, Repr, Inhabited

/-- The amount field of a shift (R107). -/
inductive Amount
  | imm (n : BitVec 7)
  | op (s : Sel)
deriving DecidableEq, Repr, Inhabited

/-- Scan and reduction operators (08 Table 8.3). -/
inductive ScanOp
  | add | min | max | and | or | xor | fadd | fmin | fmax
deriving DecidableEq, Repr, Inhabited

/-- ATOM operations (13 Table 13.3). -/
inductive AtomOp
  | add | and | or | xor | min | max | minu | maxu | xchg | incw | decw | ld | st
deriving DecidableEq, Repr, Inhabited

/-- ATOMF operations (R326). -/
inductive AtomFOp
  | fadd | fmin | fmax
deriving DecidableEq, Repr, Inhabited

/-- WAITV conditions (13 Table 13.4). -/
inductive WCond
  | eq | ne | ltu | geu | lt | ge
deriving DecidableEq, Repr, Inhabited

/-- PLD output formats (11 Table 11.1). -/
inductive POut
  | f32 | bf16 | f16
deriving DecidableEq, Repr, Inhabited

/-- DRAIN modes (12 Table 12.4). -/
inductive DMode
  | store | add | max
deriving DecidableEq, Repr, Inhabited

/-- Address spaces named by DRAIN and WREG (12 Table 12.4, R339). -/
inductive DSpace
  | glob | core | chip
deriving DecidableEq, Repr, Inhabited

/-- ACCRD and ACCWR columns (12 Table 12.4). -/
inductive Cols
  | all | lo | hi
deriving DecidableEq, Repr, Inhabited

/-- SEQINFO queries (17 Table 17.13). -/
inductive SeqQuery
  | geo | len | stream
deriving DecidableEq, Repr, Inhabited

/-- AGET queries (R120). -/
inductive AffQuery
  | base | stride | form
deriving DecidableEq, Repr, Inhabited

/-- One constructor per row of the opcode table. -/
inductive Instr
  -- class A (03)
  | mov (g : Guard) (d a : Operand)
  | movi (g : Guard) (d : Operand) (imm : BitVec 28)
  | movhi (g : Guard) (d : Operand) (imm : BitVec 28)
  | smove (g : Guard) (d a : Operand) (n : BitVec 14)
  | sset (g : Guard) (d : Operand) (v : BitVec 4) (n1 : BitVec 10)
  | loop (step : BitVec 14) (a : Operand) (off : BitVec 14)
  | endloopBrk (m1 : BitVec 14) (off : BitVec 14)
  | frameadj (delta : BitVec 14)
  | ixset (g : Guard) (d x : Operand) (count : BitVec 14)
  | ixstepAdd (g : Guard) (x a : Operand) (imm : BitVec 14)
  | ixstepSet (g : Guard) (x a : Operand) (imm : BitVec 14)
  | spill (g : Guard) (d : Operand) (n : BitVec 14)
  | fill (g : Guard) (d : Operand) (n : BitVec 14)
  | stashq (g : Guard) (d : Operand) (q : BitVec 2)
  -- class B (04)
  | iadd (g : Guard) (d a b : Operand)
  | iadds (g : Guard) (d a b : Operand)
  | isub (g : Guard) (d a b : Operand)
  | isubs (g : Guard) (d a b : Operand)
  | imul (g : Guard) (d a b : Operand)
  | imulh (g : Guard) (d a b : Operand)
  | imad (g : Guard) (d a b : Operand)
  | imin (g : Guard) (d a b : Operand)
  | imax (g : Guard) (d a b : Operand)
  | iabs (g : Guard) (d a : Operand)
  | ineg (g : Guard) (d a : Operand)
  | and (g : Guard) (d a b : Operand)
  | or (g : Guard) (d a b : Operand)
  | xor (g : Guard) (d a b : Operand)
  | andn (g : Guard) (d a b : Operand)
  | not (g : Guard) (d a : Operand)
  | shl (g : Guard) (d a : Operand) (n : Amount)
  | shr (g : Guard) (d a : Operand) (n : Amount)
  | sar (g : Guard) (d a : Operand) (n : Amount)
  | rot (g : Guard) (d a : Operand) (n : Amount)
  | popc (g : Guard) (d a : Operand)
  | clz (g : Guard) (d a : Operand)
  | brev (g : Guard) (d a : Operand)
  | bfx (g : Guard) (d a : Operand) (s : Bool) (len1 pos : BitVec 6)
  | bfi (g : Guard) (d a : Operand) (len1 pos : BitVec 6)
  | icmp (g : Guard) (c : ICond) (m : PMode) (p : PredBit) (a b : Operand)
  | sel (g : Guard) (d a b : Operand)
  -- class C (04)
  | amov (g : Guard) (d a b : Operand)
  | aadd (g : Guard) (d a b : Operand)
  | amul (g : Guard) (d a b : Operand)
  | aget (g : Guard) (d a : Operand) (q : AffQuery)
  | afrom (g : Guard) (d a : Operand)
  | alea (g : Guard) (d a : Operand) (n : BitVec 4) (s : BitVec 3)
  -- class D (06)
  | fadd (g : Guard) (d a b : Operand)
  | fsub (g : Guard) (d a b : Operand)
  | fmul (g : Guard) (d a b : Operand)
  | ffma (g : Guard) (d a b : Operand)
  | fmin (g : Guard) (d a b : Operand)
  | fmax (g : Guard) (d a b : Operand)
  | fneg (g : Guard) (d a : Operand)
  | fabs (g : Guard) (d a : Operand)
  | fcmp (g : Guard) (c : FCond) (m : PMode) (p : PredBit) (a b : Operand)
  | fclass (g : Guard) (d a : Operand)
  | frcp (g : Guard) (d a : Operand)
  | frsq (g : Guard) (d a : Operand)
  | fsqrt (g : Guard) (d a : Operand)
  | fexp2 (g : Guard) (d a : Operand)
  | flog2 (g : Guard) (d a : Operand)
  | ftanh (g : Guard) (d a : Operand)
  | fscl (g : Guard) (d a b : Operand)
  | frnd (g : Guard) (d a : Operand) (m : RMode)
  | cvtfTo (g : Guard) (d a : Operand) (slot : BitVec 3)
  | cvtfFrom (g : Guard) (d a : Operand) (slot : BitVec 3)
  | cvtfi (g : Guard) (d a : Operand) (s : Bool) (m : RMode)
  | cvtif (g : Guard) (d a : Operand) (m : RMode)
  | qblk (d a : Operand) (slot : BitVec 3) (sc : Sel)
  | dqblk (d a : Operand) (slot : BitVec 3) (sc : Sel)
  -- class E (07)
  | bra (g : Guard) (off : BitVec 28)
  | braLv (g : Guard) (n : Fin 12) (off : BitVec 28)
  | brx (g : Guard) (a : Operand)
  | call (g : Guard) (d : Operand) (off : BitVec 28)
  | callx (g : Guard) (d a : Operand)
  | ret (g : Guard) (a : Operand)
  | join (g : Guard) (n : Fin 12)
  | leave (g : Guard) (n : Fin 12)
  | jwait (g : Guard) (n : Fin 12)
  | mget (g : Guard) (d : Operand) (arr : Bool) (n : Fin 12)
  | mput (g : Guard) (a : Operand) (n : Fin 12)
  | exit (g : Guard)
  | yield (g : Guard) (c : BitVec 13)
  | nop (g : Guard)
  -- class F (08)
  | shfl (p : PSet) (d a b : Operand)
  | shflup (p : PSet) (d a : Operand) (n : BitVec 6)
  | shfldn (p : PSet) (d a : Operand) (n : BitVec 6)
  | shflx (p : PSet) (d a : Operand) (n : BitVec 6)
  | bcast (p : PSet) (d a : Operand) (low : Bool) (n : BitVec 6)
  | scan (p : PSet) (d a : Operand) (op : ScanOp) (excl : Bool)
  | reduce (p : PSet) (d a : Operand) (op : ScanOp)
  | ballot (p : PSet) (d : Operand) (q : PredBit)
  | prank (p : PSet) (d : Operand) (t : Bool) (q : PredBit)
  | sample (p : PSet) (d a b : Operand)
  -- class G (09)
  | ldg (g : Guard) (d a : Operand) (hint : BitVec 2) (off : BitVec 12)
  | stg (g : Guard) (d a : Operand) (hint : BitVec 2) (off : BitVec 12)
  | lds (g : Guard) (d a : Operand) (off : BitVec 12)
  | sts (g : Guard) (d a : Operand) (off : BitVec 12)
  | ldc (g : Guard) (d a : Operand) (off : BitVec 12)
  | stc (g : Guard) (d a : Operand) (off : BitVec 12)
  | ldx (g : Guard) (d a : Operand) (off : BitVec 12)
  | stx (g : Guard) (d a : Operand) (off : BitVec 12)
  | ldt (g : Guard) (d l : Operand) (n1 : BitVec 6) (t : BitVec 8)
  | stt (g : Guard) (d l : Operand) (n1 : BitVec 6) (t : BitVec 8)
  | pref (g : Guard) (w : Width) (a : Operand) (hint : BitVec 2) (off : BitVec 12)
  | l1inv (g : Guard) (len a : Operand) (off : BitVec 12)
  | l1invAll (g : Guard)
  -- class H (10)
  | fence (sc : BitVec 3)
  | bart (n : BitVec 4)
  | bartN (n : BitVec 4) (a : Operand)
  | barc (n : BitVec 2)
  -- class I (11)
  | pld (d r : Operand) (slot : BitVec 3) (n : BitVec 4) (dflt : Bool) (out : POut)
  | prfn (d r : Operand) (slot : BitVec 3) (n : BitVec 4) (dflt : Bool)
  | pst (a r : Operand) (slot : BitVec 3) (n : BitVec 4) (dflt : Bool)
  | pcopy (desc bar : Operand) (n f : BitVec 4)
  | pcopyx (desc bar : Operand) (n f : BitVec 4)
  | pbinit (bar : Operand)
  | pbwait (q : PredBit) (bar : Operand) (n : BitVec 4)
  | pbtest (d bar : Operand) (hi : Bool)
  | pgate (d pair : Operand) (est : Bool) (thr : Sel)
  | paudit (d e : Operand) (thr : Sel)
  | pdrop (desc : Operand) (h : BitVec 4)
  | ptagGet (d t : Operand) (chip : Bool)
  | ptagSet (t : Operand) (chip : Bool) (v : BitVec 4)
  -- class J (12)
  | mma (tile : BitVec 5) (rb : BitVec 2) (e : BitVec 4) (slot : BitVec 3) (a : Operand) (chunk : BitVec 4) (sc : BitVec 10)
  | mmap (tile : BitVec 5) (rb : BitVec 2) (e : BitVec 4) (r : Operand) (chunk : BitVec 4) (idx : Sel)
  | wbload (e c1 : BitVec 4) (slot : BitVec 3) (s : Bool) (src b : Operand)
  | wbdrop (e : BitVec 4)
  | acq (tile : BitVec 5)
  | rel (tile : BitVec 5)
  | accrd (tile : BitVec 5) (rb : BitVec 2) (cols : Cols) (d : Operand)
  | accwr (tile : BitVec 5) (rb : BitVec 2) (cols : Cols) (a : Operand)
  | accz (tile : BitVec 5)
  | drain (tile : BitVec 5) (mode : DMode) (space : DSpace) (w z : Bool) (a stride : Operand)
  -- class K (13)
  | atom (g : Guard) (d a : Operand) (op : AtomOp) (n : Bool) (off : BitVec 8)
  | cas (g : Guard) (d a b : Operand)
  | atomf (g : Guard) (d a : Operand) (op : AtomFOp) (n : Bool) (off : BitVec 8)
  | waitv (g : Guard) (d a : Operand) (c : WCond) (off : BitVec 8)
  | dqpush (g : Guard) (w0 w1 w2 : Operand)
  | dqpop (g : Guard) (d : Operand) (q : PredBit)
  | dqsteal (g : Guard) (d : Operand) (q : PredBit)
  | fork (g : Guard) (ctr entry arg : Operand)
  | tjoin (g : Guard) (ctr : Operand)
  | tend (g : Guard) (ctr : Operand)
  -- class L (14)
  | wreg (g : Guard) (d base : Operand) (space : DSpace) (w r : Bool) (sz : BitVec 5)
  | wregRe (g : Guard) (d : Operand)
  | wdereg (g : Guard) (d h : Operand)
  | put (g : Guard) (src dst ctl : Operand)
  | putm (g : Guard) (src list ctl : Operand)
  | get (g : Guard) (dst src ctl : Operand)
  | wcntW (g : Guard) (d h : Operand)
  | wcntDone (g : Guard) (d : Operand) (c : BitVec 4)
  | wcntRef (g : Guard) (d : Operand) (c : BitVec 4)
  | wwaitW (g : Guard) (d h : Operand)
  | wwaitSnd (g : Guard) (d : Operand) (c : BitVec 4)
  | rsend (g : Guard) (m dst : Operand) (size : BitVec 2) (st : Sel)
  | rwait (g : Guard) (d hdr : Operand)
  | radv (g : Guard) (hdr n : Operand)
  -- class M (15)
  | kvmap (g : Guard) (d key : Operand)
  | kvalloc (g : Guard) (d a : Operand) (rsv : Bool)
  | kvfree (g : Guard) (d a : Operand)
  | kvfork (g : Guard) (d a n : Operand)
  | kvapp (g : Guard) (d key src : Operand)
  | kvcommit (g : Guard) (d a n : Operand)
  | kvtrim (g : Guard) (d a n : Operand)
  | attn (g : Guard) (d key desc : Operand)
  | attnwait (g : Guard) (q : PredBit) (desc : Operand)
  -- class N (16)
  | grinit (g : Guard) (d a img : Operand)
  | grmask (g : Guard) (d seq off : Operand)
  | gradv (g : Guard) (d a : Operand) (q : PredBit)
  | grckptSave (g : Guard) (d seq : Operand) (c : BitVec 5)
  | grckptRel (g : Guard) (d seq : Operand) (c : BitVec 5)
  | grckptRelall (g : Guard) (d seq : Operand)
  | grroll (g : Guard) (d seq : Operand) (c : BitVec 5)
  | grfork (g : Guard) (d a : Operand)
  | grstat (g : Guard) (d seq : Operand) (ck : Bool)
  | squash (g : Guard) (d a n : Operand)
  | sqsetTag (g : Guard) (d a : Operand)
  | sqsetOff (g : Guard) (d : Operand)
  | sqsetEntry (g : Guard) (d a : Operand)
  | sqsetUnreg (g : Guard) (d : Operand)
  | rng (g : Guard) (d a b : Operand)
  -- class O (17)
  | launch (g : Guard) (d a : Operand)
  | ldepAdd (g : Guard) (d a : Operand)
  | ldepGo (g : Guard) (d : Operand)
  | lquery (g : Guard) (d h : Operand)
  | seqadm (g : Guard) (d a : Operand)
  | seqret (g : Guard) (d seq : Operand)
  | seqinfo (g : Guard) (d a : Operand) (q : SeqQuery)
  -- class P (18)
  | trap (g : Guard) (code : BitVec 14)
  | tret (g : Guard)
  | tretSkip (g : Guard)
  | sysrd (g : Guard) (d : Operand) (r : BitVec 10)
  | syswr (g : Guard) (a : Operand) (r : BitVec 10)
  | bkpt (g : Guard) (code : BitVec 14)
  | hcall (g : Guard) (d a : Operand) (svc : BitVec 8)
  | xinv (g : Guard) (len a : Operand) (off : BitVec 12)
  | xinvAll (g : Guard)
  | fmodeSet (g : Guard) (v : BitVec 11)
  | fmodeClr (g : Guard) (v : BitVec 11)
  | fmodeWr (g : Guard) (v : BitVec 11)
  -- events of the cores: a thread, a group's word, a pending write, an access, an instruction line
  | yieldDelayEnd (t : Nat)
  | crossLaneComplete (grp : Nat) (addr : Word)
  | sliceWriteComplete (t id : Nat)
  | loadDataReturn (id : Nat)
  | storePerformed (id : Nat)
  | strongAccessPerformed (id : Nat)
  | waitvReread (t : Nat)
  | icacheFill (core asid line : Nat)
  | faultBufferRetry (id : Nat)
  | barrierEpisodeComplete (cluster : Bool) (owner n : Nat)
  | teamPhaseArrival (team : Nat)
  | phaseBoundaryComplete (grid : Nat)
  | squashEventTaken (t : Nat)
  -- events of the engines
  | copyEngineStart (id : Nat)
  | copyRegionComplete (id : Nat)
  | copyPoisonEnd (id : Nat)
  | pdropComplete (id : Nat)
  | matrixPass (unit : Nat)
  | wbloadComplete (id : Nat)
  | drainComplete (id : Nat)
  | windowFree (idx : Nat)
  | arrivalAccept (id : Nat)
  | arrivalLand (id : Nat)
  | transferComplete (id : Nat)
  | transferRefused (id : Nat)
  | attnComplete (id : Nat)
  -- events of the sequence table, the walkers and the strike queue
  | sequenceRequestComplete (id : Nat)
  | walkerRequestStart (id : Nat)
  | strikeDeadline (e : Nat)
  | kvPageRestore (page : Nat)
  | kvsqcmdConfirm (e : BitVec 6)
  | kvsqcmdVeto (e : BitVec 6)
  -- events of the scheduler
  | hostQueueConsume (q : BitVec 4)
  | launchReady (grid : Nat)
  | placeageExpiry (grid : Nat)
  | placeevictExpiry (grid : Nat)
  | launchComplete (grid : Nat)
  | gridFatalTrap (grid : Nat)
  | swapDecision (team : Nat)
  | swapOut (cluster : Nat)
  | swapIn (cluster : Nat)
  | swapwaitExpiry (id : Nat)
  -- what comes from outside the module, and what firmware gives
  | linkBlockReceive (port : Nat) (header : Word) (payload tag : List Byte)
  | hcallAnswer (id : Nat)
  | kvsqcmdFront (e : BitVec 6)
  | kvsqcmdSetH (e : BitVec 6) (h : BitVec 4)
  | hqtailWrite (q : BitVec 4) (v : Word)
  | schedcmdAbort (handle : W32)
  | schedcmdSuspend (handle : W32)
  | schedcmdResume (handle : W32)
  | attcmd (v : Word)
  | xlcmdRoot (v : Word)
  | xlcmdInval (v : Word)
  | xlcmdResolve (v : Word)
  | xlcmdFail (v : Word)
  | keycmdInstallSend (v : Word)
  | keycmdInstallReceive (v : Word)
  | keycmdRetire (v : Word)
  | srdataAccess (write : Bool) (v : Word)
  | ctxfree (v : Word)
  | registerWrite (off : Nat) (v : Word)
  | bar2Access (write : Bool) (off : Nat) (bytes : List Byte)
  | softError (space owner unit : Nat)
  | ualinkPortStateChange (port : BitVec 4) (up : Bool)
  | dieThrottle (d : BitVec 2)
  | dieThrottleEnd (d : BitVec 2)
  | clockChange (d : BitVec 2) (clk : BitVec 8)
  -- words and events without arguments
  | endloop
  | phase
  | phasea
  | phasew
  | trapDecision
  | strikePropose
  | strikeActionRun
  | teamPlace
  | priorityRecompute
  | moduleReset
  | bootstatRetry
  | attestReportDone
  | xlcmdCommandDone
  | thermalShutdown
deriving DecidableEq, Repr, Inhabited

end Sys2Proof
end

