-- ==== Sys2Proof/Decode.lean ====
section
/-! DEFINITION. Instruction words to instructions and back (02 Tables 2.1, 2.3–2.9 and the field tables of each class).
`decode` makes the checks of Table 2.2 step 2: opcode, guard field, must-be-zero bits, unused fields and non-operand field
ranges. An operand that is illegal as an operand (0x02) still decodes; `Machine/Uses.lean` judges it. -/

namespace Sys2Proof

/-! ## Codes of the parts -/

/-- The code of a width (Table 2.5). -/
def Width.code : Width → BitVec 3
  | .w4 => 0 | .w8 => 1 | .w12 => 2 | .w16 => 3 | .w24 => 4 | .w32 => 5 | .w48 => 6 | .w64 => 7

/-- The width of a code (Table 2.5). -/
def Width.ofCode (c : BitVec 3) : Width :=
  if c = 0 then .w4 else if c = 1 then .w8 else if c = 2 then .w12 else if c = 3 then .w16
  else if c = 4 then .w24 else if c = 5 then .w32 else if c = 6 then .w48 else .w64

/-- The code of a selector (Table 2.6). -/
def Sel.code : Sel → BitVec 10
  | .slice n => BitVec.ofNat 10 n.val
  | .latch n => BitVec.ofNat 10 (0x3C0 + n.val)
  | .index n => BitVec.ofNat 10 (0x3C8 + n.val)
  | .affine n => BitVec.ofNat 10 (0x3D0 + n.val)
  | .zero => 0x3E0
  | .lane => 0x3E1
  | .grp => 0x3E2
  | .team => 0x3E3
  | .ones => 0x3E4
  | .reserved n => BitVec.ofNat 10 (0x3E5 + n.val)

/-- The selector of a code (Table 2.6). -/
def Sel.ofCode (c : BitVec 10) : Sel :=
  if h : c.toNat < 960 then .slice ⟨c.toNat, h⟩
  else if h : c.toNat < 968 then .latch ⟨c.toNat - 960, by omega⟩
  else if h : c.toNat < 976 then .index ⟨c.toNat - 968, by omega⟩
  else if h : c.toNat < 992 then .affine ⟨c.toNat - 976, by omega⟩
  else if c.toNat = 992 then .zero
  else if c.toNat = 993 then .lane
  else if c.toNat = 994 then .grp
  else if c.toNat = 995 then .team
  else if h : c.toNat = 996 then .ones
  else .reserved ⟨(c.toNat - 997) % 27, by omega⟩

/-- An operand field (Table 2.5). -/
def Operand.code (o : Operand) : BitVec 14 := o.w.code ++ BitVec.ofBool o.x ++ o.sel.code

/-- The operand an operand field names (Table 2.5). -/
def Operand.ofCode (c : BitVec 14) : Operand :=
  { w := Width.ofCode (c.extractLsb' 11 3), x := c.getLsbD 10, sel := Sel.ofCode (c.extractLsb' 0 10) }

/-- The fields of an instruction word below its stitch and baste bits (Tables 2.1, 2.7). -/
structure Fields where
  op : BitVec 10
  g : BitVec 10
  d : BitVec 14
  a : BitVec 14
  b : BitVec 14
deriving DecidableEq, Repr, Inhabited

/-- The fields of a word (Tables 2.1, 2.7). -/
def Fields.ofWord (w : Word) : Fields :=
  { op := w.extractLsb' 52 10, g := w.extractLsb' 42 10, d := w.extractLsb' 28 14, a := w.extractLsb' 14 14,
    b := w.extractLsb' 0 14 }

/-- A word with the given stitch and baste bits and fields (Table 2.1). -/
def Fields.toWord (f : Fields) (stitch baste : Bool) : Word :=
  BitVec.ofBool stitch ++ BitVec.ofBool baste ++ f.op ++ f.g ++ f.d ++ f.a ++ f.b

/-- The stitch bit (Table 2.1). -/
def Word.stitch (w : Word) : Bool := w.getLsbD 63

/-- The baste bit (Table 2.1). -/
def Word.baste (w : Word) : Bool := w.getLsbD 62

/-- The 28-bit immediate of formats L and J (Table 2.7). -/
def Fields.imm28 (f : Fields) : BitVec 28 := f.a ++ f.b

/-- The guard field (Table 2.3). -/
def Guard.code : Guard → BitVec 10
  | .always => 0
  | .on n b s => BitVec.ofBool true ++ BitVec.ofBool n ++ b ++ s

/-- The guard of a guard field; a disabled guard with a non-zero rest is no guard (R43). -/
def Guard.ofCode (c : BitVec 10) : Option Guard :=
  if c.getLsbD 9 then some (.on (c.getLsbD 8) (c.extractLsb' 6 2) (c.extractLsb' 0 6))
  else if c = 0 then some .always else none

/-- The mask index field of format J words (R51, Table 7.1). -/
def maskCode (n : Fin 12) : BitVec 4 := BitVec.ofNat 4 n.val

/-- The mask of an index field; 12–15 name none (R51). -/
def maskOf (c : BitVec 4) : Option (Fin 12) := if h : c.toNat < 12 then some ⟨c.toNat, h⟩ else none

/-- The participant-set field (Table 2.4). -/
def PSet.code : PSet → BitVec 10
  | .mask n => maskCode n ++ (0 : BitVec 6)
  | .tset => (14 : BitVec 4) ++ (0 : BitVec 6)
  | .all => (15 : BitVec 4) ++ (0 : BitVec 6)

/-- The participant set of a field; 12, 13 and a non-zero rest are illegal (R43). -/
def PSet.ofCode (c : BitVec 10) : Option PSet :=
  if c.extractLsb' 0 6 ≠ 0 then none
  else if c.extractLsb' 6 4 = 14 then some .tset
  else if c.extractLsb' 6 4 = 15 then some .all
  else (maskOf (c.extractLsb' 6 4)).map .mask

/-- Mode codes of a predicate field (Table 4.4). -/
def PMode.code : PMode → BitVec 2
  | .set => 0 | .and => 1 | .or => 2

/-- The mode of a code; 3 is reserved (R110). -/
def PMode.ofCode (c : BitVec 2) : Option PMode :=
  if c = 0 then some .set else if c = 1 then some .and else if c = 2 then some .or else none

/-- ICMP condition codes (Table 4.5). -/
def ICond.code : ICond → BitVec 4
  | .eq => 0 | .ne => 1 | .lt => 2 | .le => 3 | .gt => 4 | .ge => 5 | .ltu => 6 | .leu => 7 | .gtu => 8 | .geu => 9
  | .tst => 10 | .ntst => 11

/-- The ICMP condition of a code; 12–15 are illegal (R110). -/
def ICond.ofCode (c : BitVec 4) : Option ICond :=
  if c = 0 then some .eq else if c = 1 then some .ne else if c = 2 then some .lt else if c = 3 then some .le
  else if c = 4 then some .gt else if c = 5 then some .ge else if c = 6 then some .ltu else if c = 7 then some .leu
  else if c = 8 then some .gtu else if c = 9 then some .geu else if c = 10 then some .tst else if c = 11 then some .ntst
  else none

/-- FCMP condition codes (Table 6.5). -/
def FCond.code : FCond → BitVec 4
  | .eq => 0 | .ne => 1 | .lt => 2 | .le => 3 | .gt => 4 | .ge => 5 | .ord => 6 | .uno => 7

/-- The FCMP condition of a code; 8–15 are illegal (R158). -/
def FCond.ofCode (c : BitVec 4) : Option FCond :=
  if c = 0 then some .eq else if c = 1 then some .ne else if c = 2 then some .lt else if c = 3 then some .le
  else if c = 4 then some .gt else if c = 5 then some .ge else if c = 6 then some .ord else if c = 7 then some .uno
  else none

/-- Mode field codes (R152). -/
def RMode.code : RMode → BitVec 3
  | .rne => 0 | .rtz => 1 | .rdn => 2 | .rup => 3 | .dyn => 4

/-- The mode of a mode field; 5–7 are illegal (R152). -/
def RMode.ofCode (c : BitVec 3) : Option RMode :=
  if c = 0 then some .rne else if c = 1 then some .rtz else if c = 2 then some .rdn else if c = 3 then some .rup
  else if c = 4 then some .dyn else none

/-- The amount field of a shift (R107). -/
def Amount.code : Amount → BitVec 14
  | .imm n => (0 : BitVec 7) ++ n
  | .op s => (8 : BitVec 4) ++ s.code

/-- The amount of an amount field (R107). -/
def Amount.ofCode (c : BitVec 14) : Option Amount :=
  if c.extractLsb' 7 7 = 0 then some (.imm (c.extractLsb' 0 7))
  else if c.extractLsb' 10 4 = 8 then some (.op (Sel.ofCode (c.extractLsb' 0 10)))
  else none

/-- Scan operator codes (Table 8.3). -/
def ScanOp.code : ScanOp → BitVec 4
  | .add => 0 | .min => 1 | .max => 2 | .and => 3 | .or => 4 | .xor => 5 | .fadd => 6 | .fmin => 7 | .fmax => 8

/-- The scan operator of a code; 9–15 are illegal (R203). -/
def ScanOp.ofCode (c : BitVec 4) : Option ScanOp :=
  if c = 0 then some .add else if c = 1 then some .min else if c = 2 then some .max else if c = 3 then some .and
  else if c = 4 then some .or else if c = 5 then some .xor else if c = 6 then some .fadd else if c = 7 then some .fmin
  else if c = 8 then some .fmax else none

/-- ATOM operation codes (Table 13.3). -/
def AtomOp.code : AtomOp → BitVec 4
  | .add => 0 | .and => 1 | .or => 2 | .xor => 3 | .min => 4 | .max => 5 | .minu => 6 | .maxu => 7 | .xchg => 8
  | .incw => 9 | .decw => 10 | .ld => 11 | .st => 12

/-- The ATOM operation of a code; 13–15 are illegal (R322). -/
def AtomOp.ofCode (c : BitVec 4) : Option AtomOp :=
  if c = 0 then some .add else if c = 1 then some .and else if c = 2 then some .or else if c = 3 then some .xor
  else if c = 4 then some .min else if c = 5 then some .max else if c = 6 then some .minu else if c = 7 then some .maxu
  else if c = 8 then some .xchg else if c = 9 then some .incw else if c = 10 then some .decw else if c = 11 then some .ld
  else if c = 12 then some .st else none

/-- ATOMF operation codes (R326). -/
def AtomFOp.code : AtomFOp → BitVec 4
  | .fadd => 0 | .fmin => 1 | .fmax => 2

/-- The ATOMF operation of a code; 3–15 are illegal (R322). -/
def AtomFOp.ofCode (c : BitVec 4) : Option AtomFOp :=
  if c = 0 then some .fadd else if c = 1 then some .fmin else if c = 2 then some .fmax else none

/-- WAITV condition codes (Table 13.4). -/
def WCond.code : WCond → BitVec 4
  | .eq => 0 | .ne => 1 | .ltu => 2 | .geu => 3 | .lt => 4 | .ge => 5

/-- The WAITV condition of a code; 6–15 are illegal (R327). -/
def WCond.ofCode (c : BitVec 4) : Option WCond :=
  if c = 0 then some .eq else if c = 1 then some .ne else if c = 2 then some .ltu else if c = 3 then some .geu
  else if c = 4 then some .lt else if c = 5 then some .ge else none

/-- PLD output codes (Table 11.1). -/
def POut.code : POut → BitVec 2
  | .f32 => 0 | .bf16 => 1 | .f16 => 2

/-- The PLD output of a code; 3 is illegal (Table 11.1). -/
def POut.ofCode (c : BitVec 2) : Option POut :=
  if c = 0 then some .f32 else if c = 1 then some .bf16 else if c = 2 then some .f16 else none

/-- DRAIN mode codes (Table 12.4). -/
def DMode.code : DMode → BitVec 2
  | .store => 0 | .add => 1 | .max => 2

/-- The DRAIN mode of a code; 3 is illegal (R306). -/
def DMode.ofCode (c : BitVec 2) : Option DMode :=
  if c = 0 then some .store else if c = 1 then some .add else if c = 2 then some .max else none

/-- Space codes of DRAIN and WREG (Tables 12.4, 14.7). -/
def DSpace.code : DSpace → BitVec 2
  | .glob => 0 | .core => 1 | .chip => 2

/-- The space of a code; 3 is illegal (R306, R350). -/
def DSpace.ofCode (c : BitVec 2) : Option DSpace :=
  if c = 0 then some .glob else if c = 1 then some .core else if c = 2 then some .chip else none

/-- Column codes of ACCRD and ACCWR (Table 12.4). -/
def Cols.code : Cols → BitVec 2
  | .all => 0 | .lo => 1 | .hi => 2

/-- The columns of a code; 3 is illegal (R306). -/
def Cols.ofCode (c : BitVec 2) : Option Cols :=
  if c = 0 then some .all else if c = 1 then some .lo else if c = 2 then some .hi else none

/-- SEQINFO query codes (Table 17.13). -/
def SeqQuery.code : SeqQuery → BitVec 2
  | .geo => 0 | .len => 1 | .stream => 2

/-- The SEQINFO query of a code; 3 is illegal. -/
def SeqQuery.ofCode (c : BitVec 2) : Option SeqQuery :=
  if c = 0 then some .geo else if c = 1 then some .len else if c = 2 then some .stream else none

/-- AGET query codes (R120). -/
def AffQuery.code : AffQuery → BitVec 14
  | .base => 0 | .stride => 1 | .form => 2

/-- The AGET query of an immediate; any value above 2 is illegal (R120). -/
def AffQuery.ofCode (c : BitVec 14) : Option AffQuery :=
  if c = 0 then some .base else if c = 1 then some .stride else if c = 2 then some .form else none

/-- A predicate bit's low six and next two bits (Table 4.4). -/
def PredBit.code (p : PredBit) : BitVec 8 := p.bit ++ p.slice

/-- The predicate bit of a field (Table 4.4). -/
def PredBit.ofCode (c : BitVec 8) : PredBit := { bit := c.extractLsb' 6 2, slice := c.extractLsb' 0 6 }

/-! ## The encoder -/

/-- One field list. -/
def Fields.mk' (op : BitVec 10) (g : BitVec 10) (d a b : BitVec 14) : Fields := { op, g, d, a, b }

/-- A word with an imm28 in place of A and B (formats L and J). -/
def Fields.long (op : BitVec 10) (g : BitVec 10) (d : BitVec 14) (imm : BitVec 28) : Fields :=
  { op, g, d, a := imm.extractLsb' 14 14, b := imm.extractLsb' 0 14 }

/-- The D field of a compare (Table 4.4). -/
def cmpField (c : BitVec 4) (m : PMode) (p : PredBit) : BitVec 14 := c ++ p.bit ++ m.code ++ p.slice

/-- The fields of an instruction word (field tables of each class); an event has none. -/
def encodeFields : Instr → Option Fields
  | .mov g d a => some (Fields.mk' 0x001 g.code d.code a.code 0)
  | .movi g d imm => some (Fields.long 0x002 g.code d.code imm)
  | .movhi g d imm => some (Fields.long 0x003 g.code d.code imm)
  | .smove g d a n => some (Fields.mk' 0x004 g.code d.code a.code (n))
  | .sset g d v n1 => some (Fields.mk' 0x005 g.code d.code 0 (v ++ n1))
  | .loop step a off => some (Fields.mk' 0x006 0 (step) a.code (off))
  | .endloop => some (Fields.mk' 0x007 0 0 0 0)
  | .endloopBrk m1 off => some (Fields.mk' 0x007 0 (m1) 0 (off))
  | .frameadj delta => some (Fields.mk' 0x008 0 0 0 (delta))
  | .ixset g d x count => some (Fields.mk' 0x009 g.code d.code x.code (count))
  | .ixstepSet g x a imm => some (Fields.mk' 0x00A g.code x.code a.code (imm))
  | .ixstepAdd g x a imm => some (Fields.mk' 0x00A g.code x.code a.code (imm))
  | .spill g d n => some (Fields.mk' 0x00B g.code d.code 0 (n))
  | .fill g d n => some (Fields.mk' 0x00C g.code d.code 0 (n))
  | .stashq g d q => some (Fields.mk' 0x00D g.code d.code 0 ((0 : BitVec 12) ++ q))
  | .iadd g d a b => some (Fields.mk' 0x040 g.code d.code a.code b.code)
  | .iadds g d a b => some (Fields.mk' 0x041 g.code d.code a.code b.code)
  | .isub g d a b => some (Fields.mk' 0x042 g.code d.code a.code b.code)
  | .isubs g d a b => some (Fields.mk' 0x043 g.code d.code a.code b.code)
  | .imul g d a b => some (Fields.mk' 0x044 g.code d.code a.code b.code)
  | .imulh g d a b => some (Fields.mk' 0x045 g.code d.code a.code b.code)
  | .imad g d a b => some (Fields.mk' 0x046 g.code d.code a.code b.code)
  | .imin g d a b => some (Fields.mk' 0x047 g.code d.code a.code b.code)
  | .imax g d a b => some (Fields.mk' 0x048 g.code d.code a.code b.code)
  | .iabs g d a => some (Fields.mk' 0x049 g.code d.code a.code 0)
  | .ineg g d a => some (Fields.mk' 0x04A g.code d.code a.code 0)
  | .and g d a b => some (Fields.mk' 0x04B g.code d.code a.code b.code)
  | .or g d a b => some (Fields.mk' 0x04C g.code d.code a.code b.code)
  | .xor g d a b => some (Fields.mk' 0x04D g.code d.code a.code b.code)
  | .andn g d a b => some (Fields.mk' 0x04E g.code d.code a.code b.code)
  | .not g d a => some (Fields.mk' 0x04F g.code d.code a.code 0)
  | .shl g d a n => some (Fields.mk' 0x050 g.code d.code a.code (n.code))
  | .shr g d a n => some (Fields.mk' 0x051 g.code d.code a.code (n.code))
  | .sar g d a n => some (Fields.mk' 0x052 g.code d.code a.code (n.code))
  | .rot g d a n => some (Fields.mk' 0x053 g.code d.code a.code (n.code))
  | .popc g d a => some (Fields.mk' 0x054 g.code d.code a.code 0)
  | .clz g d a => some (Fields.mk' 0x055 g.code d.code a.code 0)
  | .brev g d a => some (Fields.mk' 0x056 g.code d.code a.code 0)
  | .bfx g d a s len1 pos => some (Fields.mk' 0x057 g.code d.code a.code ((0 : BitVec 1) ++ BitVec.ofBool s ++ len1 ++ pos))
  | .bfi g d a len1 pos => some (Fields.mk' 0x058 g.code d.code a.code ((0 : BitVec 2) ++ len1 ++ pos))
  | .icmp g c m p a b => some (Fields.mk' 0x059 g.code (cmpField c.code m p) a.code b.code)
  | .sel g d a b => some (Fields.mk' 0x05A g.code d.code a.code b.code)
  | .amov g d a b => some (Fields.mk' 0x080 g.code d.code a.code b.code)
  | .aadd g d a b => some (Fields.mk' 0x081 g.code d.code a.code b.code)
  | .amul g d a b => some (Fields.mk' 0x082 g.code d.code a.code b.code)
  | .aget g d a q => some (Fields.mk' 0x083 g.code d.code a.code (q.code))
  | .afrom g d a => some (Fields.mk' 0x084 g.code d.code a.code 0)
  | .alea g d a n s => some (Fields.mk' 0x085 g.code d.code a.code (n ++ (0 : BitVec 7) ++ s))
  | .fadd g d a b => some (Fields.mk' 0x0A0 g.code d.code a.code b.code)
  | .fsub g d a b => some (Fields.mk' 0x0A1 g.code d.code a.code b.code)
  | .fmul g d a b => some (Fields.mk' 0x0A2 g.code d.code a.code b.code)
  | .ffma g d a b => some (Fields.mk' 0x0A3 g.code d.code a.code b.code)
  | .fmin g d a b => some (Fields.mk' 0x0A4 g.code d.code a.code b.code)
  | .fmax g d a b => some (Fields.mk' 0x0A5 g.code d.code a.code b.code)
  | .fneg g d a => some (Fields.mk' 0x0A6 g.code d.code a.code 0)
  | .fabs g d a => some (Fields.mk' 0x0A7 g.code d.code a.code 0)
  | .fcmp g c m p a b => some (Fields.mk' 0x0A8 g.code (cmpField c.code m p) a.code b.code)
  | .fclass g d a => some (Fields.mk' 0x0A9 g.code d.code a.code 0)
  | .frcp g d a => some (Fields.mk' 0x0AA g.code d.code a.code 0)
  | .frsq g d a => some (Fields.mk' 0x0AB g.code d.code a.code 0)
  | .fsqrt g d a => some (Fields.mk' 0x0AC g.code d.code a.code 0)
  | .fexp2 g d a => some (Fields.mk' 0x0AD g.code d.code a.code 0)
  | .flog2 g d a => some (Fields.mk' 0x0AE g.code d.code a.code 0)
  | .ftanh g d a => some (Fields.mk' 0x0AF g.code d.code a.code 0)
  | .fscl g d a b => some (Fields.mk' 0x0B0 g.code d.code a.code b.code)
  | .frnd g d a m => some (Fields.mk' 0x0B1 g.code d.code a.code ((0 : BitVec 11) ++ m.code))
  | .cvtfFrom g d a slot => some (Fields.mk' 0x0B2 g.code d.code a.code ((1 : BitVec 1) ++ (0 : BitVec 10) ++ slot))
  | .cvtfTo g d a slot => some (Fields.mk' 0x0B2 g.code d.code a.code ((0 : BitVec 1) ++ (0 : BitVec 10) ++ slot))
  | .cvtfi g d a s m => some (Fields.mk' 0x0B3 g.code d.code a.code ((0 : BitVec 10) ++ BitVec.ofBool s ++ m.code))
  | .cvtif g d a m => some (Fields.mk' 0x0B4 g.code d.code a.code ((0 : BitVec 11) ++ m.code))
  | .qblk d a slot sc => some (Fields.mk' 0x0B5 0 d.code a.code (slot ++ (0 : BitVec 1) ++ sc.code))
  | .dqblk d a slot sc => some (Fields.mk' 0x0B6 0 d.code a.code (slot ++ (0 : BitVec 1) ++ sc.code))
  | .bra g off => some (Fields.long 0x0E0 g.code ((15 : BitVec 4) ++ (0 : BitVec 10)) off)
  | .braLv g n off => some (Fields.long 0x0E0 g.code (maskCode n ++ (0 : BitVec 10)) off)
  | .brx g a => some (Fields.mk' 0x0E1 g.code 0 a.code 0)
  | .call g d off => some (Fields.long 0x0E2 g.code d.code off)
  | .callx g d a => some (Fields.mk' 0x0E3 g.code d.code a.code 0)
  | .ret g a => some (Fields.mk' 0x0E4 g.code 0 a.code 0)
  | .join g n => some (Fields.mk' 0x0E5 g.code (maskCode n ++ (0 : BitVec 10)) 0 0)
  | .leave g n => some (Fields.mk' 0x0E6 g.code (maskCode n ++ (0 : BitVec 10)) 0 0)
  | .jwait g n => some (Fields.mk' 0x0E7 g.code (maskCode n ++ (0 : BitVec 10)) 0 0)
  | .mget g d arr n => some (Fields.mk' 0x0E8 g.code d.code 0 ((0 : BitVec 9) ++ BitVec.ofBool arr ++ maskCode n))
  | .mput g a n => some (Fields.mk' 0x0E9 g.code 0 a.code ((0 : BitVec 10) ++ maskCode n))
  | .exit g => some (Fields.mk' 0x0EA g.code 0 0 0)
  | .yield g c => some (Fields.mk' 0x0EB g.code 0 0 ((0 : BitVec 1) ++ c))
  | .nop g => some (Fields.mk' 0x0EC g.code 0 0 0)
  | .shfl p d a b => some (Fields.mk' 0x100 p.code d.code a.code b.code)
  | .shflup p d a n => some (Fields.mk' 0x101 p.code d.code a.code ((0 : BitVec 8) ++ n))
  | .shfldn p d a n => some (Fields.mk' 0x102 p.code d.code a.code ((0 : BitVec 8) ++ n))
  | .shflx p d a n => some (Fields.mk' 0x103 p.code d.code a.code ((0 : BitVec 8) ++ n))
  | .bcast p d a low n => some (Fields.mk' 0x104 p.code d.code a.code ((0 : BitVec 7) ++ BitVec.ofBool low ++ n))
  | .scan p d a op excl => some (Fields.mk' 0x105 p.code d.code a.code (op.code ++ BitVec.ofBool excl ++ (0 : BitVec 9)))
  | .reduce p d a op => some (Fields.mk' 0x106 p.code d.code a.code (op.code ++ (0 : BitVec 10)))
  | .ballot p d q => some (Fields.mk' 0x107 p.code d.code 0 ((0 : BitVec 6) ++ q.code))
  | .prank p d t q => some (Fields.mk' 0x108 p.code d.code 0 (BitVec.ofBool t ++ (0 : BitVec 5) ++ q.code))
  | .sample p d a b => some (Fields.mk' 0x109 p.code d.code a.code b.code)
  | .ldg g d a hint off => some (Fields.mk' 0x120 g.code d.code a.code (hint ++ off))
  | .stg g d a hint off => some (Fields.mk' 0x121 g.code d.code a.code (hint ++ off))
  | .lds g d a off => some (Fields.mk' 0x122 g.code d.code a.code ((0 : BitVec 2) ++ off))
  | .sts g d a off => some (Fields.mk' 0x123 g.code d.code a.code ((0 : BitVec 2) ++ off))
  | .ldc g d a off => some (Fields.mk' 0x124 g.code d.code a.code ((0 : BitVec 2) ++ off))
  | .stc g d a off => some (Fields.mk' 0x125 g.code d.code a.code ((0 : BitVec 2) ++ off))
  | .ldx g d a off => some (Fields.mk' 0x126 g.code d.code a.code ((0 : BitVec 2) ++ off))
  | .stx g d a off => some (Fields.mk' 0x127 g.code d.code a.code ((0 : BitVec 2) ++ off))
  | .ldt g d l n1 t => some (Fields.mk' 0x128 g.code d.code l.code (n1 ++ t))
  | .stt g d l n1 t => some (Fields.mk' 0x129 g.code d.code l.code (n1 ++ t))
  | .pref g w a hint off => some (Fields.mk' 0x12A g.code (w.code ++ (0 : BitVec 11)) a.code (hint ++ off))
  | .l1invAll g => some (Fields.mk' 0x12B g.code 0 0 ((1 : BitVec 2) ++ (0 : BitVec 12)))
  | .l1inv g len a off => some (Fields.mk' 0x12B g.code len.code a.code ((0 : BitVec 2) ++ off))
  | .fence sc => some (Fields.mk' 0x140 0 0 0 ((0 : BitVec 11) ++ sc))
  | .phase => some (Fields.mk' 0x141 0 0 0 0)
  | .phasea => some (Fields.mk' 0x142 0 0 0 0)
  | .phasew => some (Fields.mk' 0x143 0 0 0 0)
  | .bartN n a => some (Fields.mk' 0x144 0 0 a.code ((1 : BitVec 1) ++ (0 : BitVec 9) ++ n))
  | .bart n => some (Fields.mk' 0x144 0 0 0 ((0 : BitVec 10) ++ n))
  | .barc n => some (Fields.mk' 0x145 0 0 0 ((0 : BitVec 12) ++ n))
  | .pld d r slot n dflt out => some (Fields.mk' 0x160 0 d.code r.code (slot ++ n ++ BitVec.ofBool dflt ++ out.code ++ (0 : BitVec 4)))
  | .prfn d r slot n dflt => some (Fields.mk' 0x161 0 d.code r.code (slot ++ n ++ BitVec.ofBool dflt ++ (0 : BitVec 6)))
  | .pst a r slot n dflt => some (Fields.mk' 0x162 0 a.code r.code (slot ++ n ++ BitVec.ofBool dflt ++ (0 : BitVec 6)))
  | .pcopy desc bar n f => some (Fields.mk' 0x163 0 desc.code bar.code (n ++ f ++ (0 : BitVec 6)))
  | .pcopyx desc bar n f => some (Fields.mk' 0x164 0 desc.code bar.code (n ++ f ++ (0 : BitVec 6)))
  | .pbinit bar => some (Fields.mk' 0x165 0 0 bar.code 0)
  | .pbwait q bar n => some (Fields.mk' 0x166 0 ((0 : BitVec 6) ++ q.code) bar.code ((0 : BitVec 10) ++ n))
  | .pbtest d bar hi => some (Fields.mk' 0x167 0 d.code bar.code ((0 : BitVec 13) ++ BitVec.ofBool hi))
  | .pgate d pair est thr => some (Fields.mk' 0x168 0 d.code pair.code (BitVec.ofBool est ++ (0 : BitVec 3) ++ thr.code))
  | .paudit d e thr => some (Fields.mk' 0x169 0 d.code e.code ((0 : BitVec 4) ++ thr.code))
  | .pdrop desc h => some (Fields.mk' 0x16A 0 desc.code 0 (h ++ (0 : BitVec 10)))
  | .ptagSet t chip v => some (Fields.mk' 0x16B 0 0 t.code (BitVec.ofBool chip ++ (1 : BitVec 1) ++ (0 : BitVec 8) ++ v))
  | .ptagGet d t chip => some (Fields.mk' 0x16B 0 d.code t.code (BitVec.ofBool chip ++ (0 : BitVec 13)))
  | .mma tile rb e slot a chunk sc => some (Fields.mk' 0x180 0 (tile ++ rb ++ e ++ slot) a.code (chunk ++ sc))
  | .mmap tile rb e r chunk idx => some (Fields.mk' 0x181 0 (tile ++ rb ++ e ++ (0 : BitVec 3)) r.code (chunk ++ idx.code))
  | .wbload e c1 slot s src b => some (Fields.mk' 0x182 0 (e ++ c1 ++ slot ++ BitVec.ofBool s ++ (0 : BitVec 2)) src.code b.code)
  | .wbdrop e => some (Fields.mk' 0x183 0 (e ++ (0 : BitVec 10)) 0 0)
  | .acq tile => some (Fields.mk' 0x184 0 (tile ++ (0 : BitVec 9)) 0 0)
  | .rel tile => some (Fields.mk' 0x185 0 (tile ++ (0 : BitVec 9)) 0 0)
  | .accz tile => some (Fields.mk' 0x188 0 (tile ++ (0 : BitVec 9)) 0 0)
  | .accrd tile rb cols d => some (Fields.mk' 0x186 0 (tile ++ rb ++ cols.code ++ (0 : BitVec 5)) d.code 0)
  | .accwr tile rb cols a => some (Fields.mk' 0x187 0 (tile ++ rb ++ cols.code ++ (0 : BitVec 5)) a.code 0)
  | .drain tile mode space w z a stride => some (Fields.mk' 0x189 0 (tile ++ mode.code ++ space.code ++ BitVec.ofBool w ++ BitVec.ofBool z ++ (0 : BitVec 3)) a.code stride.code)
  | .atom g d a op n off => some (Fields.mk' 0x1A0 g.code d.code a.code (op.code ++ BitVec.ofBool n ++ (0 : BitVec 1) ++ off))
  | .cas g d a b => some (Fields.mk' 0x1A1 g.code d.code a.code b.code)
  | .atomf g d a op n off => some (Fields.mk' 0x1A2 g.code d.code a.code (op.code ++ BitVec.ofBool n ++ (0 : BitVec 1) ++ off))
  | .waitv g d a c off => some (Fields.mk' 0x1A3 g.code d.code a.code (c.code ++ (0 : BitVec 2) ++ off))
  | .dqpush g w0 w1 w2 => some (Fields.mk' 0x1A4 g.code w0.code w1.code w2.code)
  | .dqpop g d q => some (Fields.mk' 0x1A5 g.code d.code 0 ((0 : BitVec 6) ++ q.code))
  | .dqsteal g d q => some (Fields.mk' 0x1A6 g.code d.code 0 ((0 : BitVec 6) ++ q.code))
  | .fork g ctr entry arg => some (Fields.mk' 0x1A7 g.code ctr.code entry.code arg.code)
  | .tjoin g ctr => some (Fields.mk' 0x1A8 g.code 0 ctr.code 0)
  | .tend g ctr => some (Fields.mk' 0x1A9 g.code 0 ctr.code 0)
  | .wregRe g d => some (Fields.mk' 0x1C0 g.code d.code 0 ((16 : BitVec 14)))
  | .wreg g d base space w r sz => some (Fields.mk' 0x1C0 g.code d.code base.code (space.code ++ BitVec.ofBool w ++ BitVec.ofBool r ++ sz ++ (0 : BitVec 5)))
  | .wdereg g d h => some (Fields.mk' 0x1C1 g.code d.code h.code 0)
  | .put g src dst ctl => some (Fields.mk' 0x1C2 g.code src.code dst.code ctl.code)
  | .putm g src list ctl => some (Fields.mk' 0x1C3 g.code src.code list.code ctl.code)
  | .get g dst src ctl => some (Fields.mk' 0x1C4 g.code dst.code src.code ctl.code)
  | .wcntW g d h => some (Fields.mk' 0x1C5 g.code d.code h.code 0)
  | .wcntRef g d c => some (Fields.mk' 0x1C5 g.code d.code 0 ((3 : BitVec 2) ++ (0 : BitVec 8) ++ c))
  | .wcntDone g d c => some (Fields.mk' 0x1C5 g.code d.code 0 ((2 : BitVec 2) ++ (0 : BitVec 8) ++ c))
  | .wwaitW g d h => some (Fields.mk' 0x1C6 g.code d.code h.code 0)
  | .wwaitSnd g d c => some (Fields.mk' 0x1C6 g.code d.code 0 ((1 : BitVec 1) ++ (0 : BitVec 9) ++ c))
  | .rsend g m dst size st => some (Fields.mk' 0x1C7 g.code m.code dst.code (size ++ (0 : BitVec 2) ++ st.code))
  | .rwait g d hdr => some (Fields.mk' 0x1C8 g.code d.code hdr.code 0)
  | .radv g hdr n => some (Fields.mk' 0x1C9 g.code 0 hdr.code n.code)
  | .kvmap g d key => some (Fields.mk' 0x1E0 g.code d.code key.code 0)
  | .kvalloc g d a rsv => some (Fields.mk' 0x1E1 g.code d.code a.code (BitVec.ofBool rsv ++ (0 : BitVec 13)))
  | .kvfree g d a => some (Fields.mk' 0x1E2 g.code d.code a.code 0)
  | .kvfork g d a n => some (Fields.mk' 0x1E3 g.code d.code a.code n.code)
  | .kvapp g d key src => some (Fields.mk' 0x1E4 g.code d.code key.code src.code)
  | .kvcommit g d a n => some (Fields.mk' 0x1E5 g.code d.code a.code n.code)
  | .kvtrim g d a n => some (Fields.mk' 0x1E6 g.code d.code a.code n.code)
  | .attn g d key desc => some (Fields.mk' 0x1E7 g.code d.code key.code desc.code)
  | .attnwait g q desc => some (Fields.mk' 0x1E8 g.code ((0 : BitVec 6) ++ q.code) desc.code 0)
  | .grinit g d a img => some (Fields.mk' 0x200 g.code d.code a.code img.code)
  | .grmask g d seq off => some (Fields.mk' 0x201 g.code d.code seq.code off.code)
  | .gradv g d a q => some (Fields.mk' 0x202 g.code d.code a.code ((0 : BitVec 6) ++ q.code))
  | .grckptSave g d seq c => some (Fields.mk' 0x203 g.code d.code seq.code ((0 : BitVec 7) ++ (0 : BitVec 2) ++ c))
  | .grckptRel g d seq c => some (Fields.mk' 0x203 g.code d.code seq.code ((0 : BitVec 7) ++ (1 : BitVec 2) ++ c))
  | .grckptRelall g d seq => some (Fields.mk' 0x203 g.code d.code seq.code ((64 : BitVec 14)))
  | .grroll g d seq c => some (Fields.mk' 0x204 g.code d.code seq.code ((0 : BitVec 9) ++ c))
  | .grfork g d a => some (Fields.mk' 0x205 g.code d.code a.code 0)
  | .grstat g d seq ck => some (Fields.mk' 0x206 g.code d.code seq.code ((0 : BitVec 13) ++ BitVec.ofBool ck))
  | .squash g d a n => some (Fields.mk' 0x207 g.code d.code a.code n.code)
  | .sqsetTag g d a => some (Fields.mk' 0x208 g.code d.code a.code ((0 : BitVec 2) ++ (0 : BitVec 12)))
  | .sqsetEntry g d a => some (Fields.mk' 0x208 g.code d.code a.code ((1 : BitVec 2) ++ (0 : BitVec 12)))
  | .sqsetOff g d => some (Fields.mk' 0x208 g.code d.code 0 ((2 : BitVec 2) ++ (0 : BitVec 12)))
  | .sqsetUnreg g d => some (Fields.mk' 0x208 g.code d.code 0 ((3 : BitVec 2) ++ (0 : BitVec 12)))
  | .rng g d a b => some (Fields.mk' 0x209 g.code d.code a.code b.code)
  | .launch g d a => some (Fields.mk' 0x220 g.code d.code a.code 0)
  | .ldepGo g d => some (Fields.mk' 0x221 g.code d.code 0 ((8192 : BitVec 14)))
  | .ldepAdd g d a => some (Fields.mk' 0x221 g.code d.code a.code 0)
  | .lquery g d h => some (Fields.mk' 0x222 g.code d.code h.code 0)
  | .seqadm g d a => some (Fields.mk' 0x223 g.code d.code a.code 0)
  | .seqret g d seq => some (Fields.mk' 0x224 g.code d.code seq.code 0)
  | .seqinfo g d a q => some (Fields.mk' 0x225 g.code d.code a.code ((0 : BitVec 12) ++ q.code))
  | .trap g code => some (Fields.mk' 0x240 g.code 0 0 (code))
  | .tret g => some (Fields.mk' 0x241 g.code 0 0 0)
  | .tretSkip g => some (Fields.mk' 0x241 g.code 0 0 ((1 : BitVec 14)))
  | .sysrd g d r => some (Fields.mk' 0x242 g.code d.code 0 ((0 : BitVec 4) ++ r))
  | .syswr g a r => some (Fields.mk' 0x243 g.code 0 a.code ((0 : BitVec 4) ++ r))
  | .bkpt g code => some (Fields.mk' 0x244 g.code 0 0 (code))
  | .hcall g d a svc => some (Fields.mk' 0x245 g.code d.code a.code ((0 : BitVec 6) ++ svc))
  | .xinvAll g => some (Fields.mk' 0x246 g.code 0 0 ((1 : BitVec 2) ++ (0 : BitVec 12)))
  | .xinv g len a off => some (Fields.mk' 0x246 g.code len.code a.code ((0 : BitVec 2) ++ off))
  | .fmodeSet g v => some (Fields.mk' 0x247 g.code 0 0 ((0 : BitVec 2) ++ (0 : BitVec 1) ++ v))
  | .fmodeClr g v => some (Fields.mk' 0x247 g.code 0 0 ((1 : BitVec 2) ++ (0 : BitVec 1) ++ v))
  | .fmodeWr g v => some (Fields.mk' 0x247 g.code 0 0 ((2 : BitVec 2) ++ (0 : BitVec 1) ++ v))
  | _ => none

/-! ## The decoder -/

/-- A check of a word's fields. -/
def must (p : Prop) [Decidable p] : Option Unit := if p then some () else none

/-- The class A word of the fields, its sub-field ranges not yet checked. -/
def parseA (f : Fields) : Option Instr :=
  match f.op.toNat with
  | 0x001 =>
    do
      let g ← Guard.ofCode f.g
      must (f.b = 0)
      some (.mov g (Operand.ofCode f.d) (Operand.ofCode f.a))
  | 0x002 =>
    do
      let g ← Guard.ofCode f.g
      some (.movi g (Operand.ofCode f.d) f.imm28)
  | 0x003 =>
    do
      let g ← Guard.ofCode f.g
      some (.movhi g (Operand.ofCode f.d) f.imm28)
  | 0x004 =>
    do
      let g ← Guard.ofCode f.g
      some (.smove g (Operand.ofCode f.d) (Operand.ofCode f.a) f.b)
  | 0x005 =>
    do
      let g ← Guard.ofCode f.g
      must (f.a = 0)
      some (.sset g (Operand.ofCode f.d) (f.b.extractLsb' 10 4) (f.b.extractLsb' 0 10))
  | 0x006 =>
    do
      must (f.g = 0)
      some (.loop f.d (Operand.ofCode f.a) f.b)
  | 0x007 =>
    if f.b = 0 then do
      must (f.g = 0)
      must (f.d = 0)
      must (f.a = 0)
      must (f.b = 0)
      some .endloop
    else do
      must (f.g = 0)
      must (f.a = 0)
      some (.endloopBrk f.d f.b)
  | 0x008 =>
    do
      must (f.g = 0)
      must (f.d = 0)
      must (f.a = 0)
      some (.frameadj f.b)
  | 0x009 =>
    do
      let g ← Guard.ofCode f.g
      some (.ixset g (Operand.ofCode f.d) (Operand.ofCode f.a) f.b)
  | 0x00A =>
    if (Operand.ofCode f.d).w = .w8 then do
      let g ← Guard.ofCode f.g
      some (.ixstepSet g (Operand.ofCode f.d) (Operand.ofCode f.a) f.b)
    else do
      let g ← Guard.ofCode f.g
      some (.ixstepAdd g (Operand.ofCode f.d) (Operand.ofCode f.a) f.b)
  | 0x00B =>
    do
      let g ← Guard.ofCode f.g
      must (f.a = 0)
      some (.spill g (Operand.ofCode f.d) f.b)
  | 0x00C =>
    do
      let g ← Guard.ofCode f.g
      must (f.a = 0)
      some (.fill g (Operand.ofCode f.d) f.b)
  | 0x00D =>
    do
      let g ← Guard.ofCode f.g
      must (f.a = 0)
      must (f.b.extractLsb' 2 12 = 0)
      some (.stashq g (Operand.ofCode f.d) (f.b.extractLsb' 0 2))
  | _ => none

/-- The class B word of the fields, its sub-field ranges not yet checked. -/
def parseB (f : Fields) : Option Instr :=
  match f.op.toNat with
  | 0x040 =>
    do
      let g ← Guard.ofCode f.g
      some (.iadd g (Operand.ofCode f.d) (Operand.ofCode f.a) (Operand.ofCode f.b))
  | 0x041 =>
    do
      let g ← Guard.ofCode f.g
      some (.iadds g (Operand.ofCode f.d) (Operand.ofCode f.a) (Operand.ofCode f.b))
  | 0x042 =>
    do
      let g ← Guard.ofCode f.g
      some (.isub g (Operand.ofCode f.d) (Operand.ofCode f.a) (Operand.ofCode f.b))
  | 0x043 =>
    do
      let g ← Guard.ofCode f.g
      some (.isubs g (Operand.ofCode f.d) (Operand.ofCode f.a) (Operand.ofCode f.b))
  | 0x044 =>
    do
      let g ← Guard.ofCode f.g
      some (.imul g (Operand.ofCode f.d) (Operand.ofCode f.a) (Operand.ofCode f.b))
  | 0x045 =>
    do
      let g ← Guard.ofCode f.g
      some (.imulh g (Operand.ofCode f.d) (Operand.ofCode f.a) (Operand.ofCode f.b))
  | 0x046 =>
    do
      let g ← Guard.ofCode f.g
      some (.imad g (Operand.ofCode f.d) (Operand.ofCode f.a) (Operand.ofCode f.b))
  | 0x047 =>
    do
      let g ← Guard.ofCode f.g
      some (.imin g (Operand.ofCode f.d) (Operand.ofCode f.a) (Operand.ofCode f.b))
  | 0x048 =>
    do
      let g ← Guard.ofCode f.g
      some (.imax g (Operand.ofCode f.d) (Operand.ofCode f.a) (Operand.ofCode f.b))
  | 0x049 =>
    do
      let g ← Guard.ofCode f.g
      must (f.b = 0)
      some (.iabs g (Operand.ofCode f.d) (Operand.ofCode f.a))
  | 0x04A =>
    do
      let g ← Guard.ofCode f.g
      must (f.b = 0)
      some (.ineg g (Operand.ofCode f.d) (Operand.ofCode f.a))
  | 0x04B =>
    do
      let g ← Guard.ofCode f.g
      some (.and g (Operand.ofCode f.d) (Operand.ofCode f.a) (Operand.ofCode f.b))
  | 0x04C =>
    do
      let g ← Guard.ofCode f.g
      some (.or g (Operand.ofCode f.d) (Operand.ofCode f.a) (Operand.ofCode f.b))
  | 0x04D =>
    do
      let g ← Guard.ofCode f.g
      some (.xor g (Operand.ofCode f.d) (Operand.ofCode f.a) (Operand.ofCode f.b))
  | 0x04E =>
    do
      let g ← Guard.ofCode f.g
      some (.andn g (Operand.ofCode f.d) (Operand.ofCode f.a) (Operand.ofCode f.b))
  | 0x04F =>
    do
      let g ← Guard.ofCode f.g
      must (f.b = 0)
      some (.not g (Operand.ofCode f.d) (Operand.ofCode f.a))
  | 0x050 =>
    do
      let g ← Guard.ofCode f.g
      let n ← Amount.ofCode f.b
      some (.shl g (Operand.ofCode f.d) (Operand.ofCode f.a) n)
  | 0x051 =>
    do
      let g ← Guard.ofCode f.g
      let n ← Amount.ofCode f.b
      some (.shr g (Operand.ofCode f.d) (Operand.ofCode f.a) n)
  | 0x052 =>
    do
      let g ← Guard.ofCode f.g
      let n ← Amount.ofCode f.b
      some (.sar g (Operand.ofCode f.d) (Operand.ofCode f.a) n)
  | 0x053 =>
    do
      let g ← Guard.ofCode f.g
      let n ← Amount.ofCode f.b
      some (.rot g (Operand.ofCode f.d) (Operand.ofCode f.a) n)
  | 0x054 =>
    do
      let g ← Guard.ofCode f.g
      must (f.b = 0)
      some (.popc g (Operand.ofCode f.d) (Operand.ofCode f.a))
  | 0x055 =>
    do
      let g ← Guard.ofCode f.g
      must (f.b = 0)
      some (.clz g (Operand.ofCode f.d) (Operand.ofCode f.a))
  | 0x056 =>
    do
      let g ← Guard.ofCode f.g
      must (f.b = 0)
      some (.brev g (Operand.ofCode f.d) (Operand.ofCode f.a))
  | 0x057 =>
    do
      let g ← Guard.ofCode f.g
      must (f.b.getLsbD 13 = false)
      some (.bfx g (Operand.ofCode f.d) (Operand.ofCode f.a) (f.b.getLsbD 12) (f.b.extractLsb' 6 6) (f.b.extractLsb' 0 6))
  | 0x058 =>
    do
      let g ← Guard.ofCode f.g
      must (f.b.extractLsb' 12 2 = 0)
      some (.bfi g (Operand.ofCode f.d) (Operand.ofCode f.a) (f.b.extractLsb' 6 6) (f.b.extractLsb' 0 6))
  | 0x059 =>
    do
      let g ← Guard.ofCode f.g
      let c ← ICond.ofCode (f.d.extractLsb' 10 4)
      let m ← PMode.ofCode (f.d.extractLsb' 6 2)
      some (.icmp g c m { bit := f.d.extractLsb' 8 2, slice := f.d.extractLsb' 0 6 } (Operand.ofCode f.a) (Operand.ofCode f.b))
  | 0x05A =>
    do
      let g ← Guard.ofCode f.g
      some (.sel g (Operand.ofCode f.d) (Operand.ofCode f.a) (Operand.ofCode f.b))
  | _ => none

/-- The class C word of the fields, its sub-field ranges not yet checked. -/
def parseC (f : Fields) : Option Instr :=
  match f.op.toNat with
  | 0x080 =>
    do
      let g ← Guard.ofCode f.g
      some (.amov g (Operand.ofCode f.d) (Operand.ofCode f.a) (Operand.ofCode f.b))
  | 0x081 =>
    do
      let g ← Guard.ofCode f.g
      some (.aadd g (Operand.ofCode f.d) (Operand.ofCode f.a) (Operand.ofCode f.b))
  | 0x082 =>
    do
      let g ← Guard.ofCode f.g
      some (.amul g (Operand.ofCode f.d) (Operand.ofCode f.a) (Operand.ofCode f.b))
  | 0x083 =>
    do
      let g ← Guard.ofCode f.g
      let q ← AffQuery.ofCode f.b
      some (.aget g (Operand.ofCode f.d) (Operand.ofCode f.a) q)
  | 0x084 =>
    do
      let g ← Guard.ofCode f.g
      must (f.b = 0)
      some (.afrom g (Operand.ofCode f.d) (Operand.ofCode f.a))
  | 0x085 =>
    do
      let g ← Guard.ofCode f.g
      must (f.b.extractLsb' 3 7 = 0)
      some (.alea g (Operand.ofCode f.d) (Operand.ofCode f.a) (f.b.extractLsb' 10 4) (f.b.extractLsb' 0 3))
  | _ => none

/-- The class D word of the fields, its sub-field ranges not yet checked. -/
def parseD (f : Fields) : Option Instr :=
  match f.op.toNat with
  | 0x0A0 =>
    do
      let g ← Guard.ofCode f.g
      some (.fadd g (Operand.ofCode f.d) (Operand.ofCode f.a) (Operand.ofCode f.b))
  | 0x0A1 =>
    do
      let g ← Guard.ofCode f.g
      some (.fsub g (Operand.ofCode f.d) (Operand.ofCode f.a) (Operand.ofCode f.b))
  | 0x0A2 =>
    do
      let g ← Guard.ofCode f.g
      some (.fmul g (Operand.ofCode f.d) (Operand.ofCode f.a) (Operand.ofCode f.b))
  | 0x0A3 =>
    do
      let g ← Guard.ofCode f.g
      some (.ffma g (Operand.ofCode f.d) (Operand.ofCode f.a) (Operand.ofCode f.b))
  | 0x0A4 =>
    do
      let g ← Guard.ofCode f.g
      some (.fmin g (Operand.ofCode f.d) (Operand.ofCode f.a) (Operand.ofCode f.b))
  | 0x0A5 =>
    do
      let g ← Guard.ofCode f.g
      some (.fmax g (Operand.ofCode f.d) (Operand.ofCode f.a) (Operand.ofCode f.b))
  | 0x0A6 =>
    do
      let g ← Guard.ofCode f.g
      must (f.b = 0)
      some (.fneg g (Operand.ofCode f.d) (Operand.ofCode f.a))
  | 0x0A7 =>
    do
      let g ← Guard.ofCode f.g
      must (f.b = 0)
      some (.fabs g (Operand.ofCode f.d) (Operand.ofCode f.a))
  | 0x0A8 =>
    do
      let g ← Guard.ofCode f.g
      let c ← FCond.ofCode (f.d.extractLsb' 10 4)
      let m ← PMode.ofCode (f.d.extractLsb' 6 2)
      some (.fcmp g c m { bit := f.d.extractLsb' 8 2, slice := f.d.extractLsb' 0 6 } (Operand.ofCode f.a) (Operand.ofCode f.b))
  | 0x0A9 =>
    do
      let g ← Guard.ofCode f.g
      must (f.b = 0)
      some (.fclass g (Operand.ofCode f.d) (Operand.ofCode f.a))
  | 0x0AA =>
    do
      let g ← Guard.ofCode f.g
      must (f.b = 0)
      some (.frcp g (Operand.ofCode f.d) (Operand.ofCode f.a))
  | 0x0AB =>
    do
      let g ← Guard.ofCode f.g
      must (f.b = 0)
      some (.frsq g (Operand.ofCode f.d) (Operand.ofCode f.a))
  | 0x0AC =>
    do
      let g ← Guard.ofCode f.g
      must (f.b = 0)
      some (.fsqrt g (Operand.ofCode f.d) (Operand.ofCode f.a))
  | 0x0AD =>
    do
      let g ← Guard.ofCode f.g
      must (f.b = 0)
      some (.fexp2 g (Operand.ofCode f.d) (Operand.ofCode f.a))
  | 0x0AE =>
    do
      let g ← Guard.ofCode f.g
      must (f.b = 0)
      some (.flog2 g (Operand.ofCode f.d) (Operand.ofCode f.a))
  | 0x0AF =>
    do
      let g ← Guard.ofCode f.g
      must (f.b = 0)
      some (.ftanh g (Operand.ofCode f.d) (Operand.ofCode f.a))
  | 0x0B0 =>
    do
      let g ← Guard.ofCode f.g
      some (.fscl g (Operand.ofCode f.d) (Operand.ofCode f.a) (Operand.ofCode f.b))
  | 0x0B1 =>
    do
      let g ← Guard.ofCode f.g
      must (f.b.extractLsb' 3 11 = 0)
      let m ← RMode.ofCode (f.b.extractLsb' 0 3)
      some (.frnd g (Operand.ofCode f.d) (Operand.ofCode f.a) m)
  | 0x0B2 =>
    if f.b.getLsbD 13 = true then do
      let g ← Guard.ofCode f.g
      must (f.b.extractLsb' 3 10 = 0)
      some (.cvtfFrom g (Operand.ofCode f.d) (Operand.ofCode f.a) (f.b.extractLsb' 0 3))
    else do
      let g ← Guard.ofCode f.g
      must (f.b.extractLsb' 3 10 = 0)
      some (.cvtfTo g (Operand.ofCode f.d) (Operand.ofCode f.a) (f.b.extractLsb' 0 3))
  | 0x0B3 =>
    do
      let g ← Guard.ofCode f.g
      must (f.b.extractLsb' 4 10 = 0)
      let m ← RMode.ofCode (f.b.extractLsb' 0 3)
      some (.cvtfi g (Operand.ofCode f.d) (Operand.ofCode f.a) (f.b.getLsbD 3) m)
  | 0x0B4 =>
    do
      let g ← Guard.ofCode f.g
      must (f.b.extractLsb' 3 11 = 0)
      let m ← RMode.ofCode (f.b.extractLsb' 0 3)
      some (.cvtif g (Operand.ofCode f.d) (Operand.ofCode f.a) m)
  | 0x0B5 =>
    do
      must (f.g = 0)
      must (f.b.getLsbD 10 = false)
      some (.qblk (Operand.ofCode f.d) (Operand.ofCode f.a) (f.b.extractLsb' 11 3) (Sel.ofCode (f.b.extractLsb' 0 10)))
  | 0x0B6 =>
    do
      must (f.g = 0)
      must (f.b.getLsbD 10 = false)
      some (.dqblk (Operand.ofCode f.d) (Operand.ofCode f.a) (f.b.extractLsb' 11 3) (Sel.ofCode (f.b.extractLsb' 0 10)))
  | _ => none

/-- The class E word of the fields, its sub-field ranges not yet checked. -/
def parseE (f : Fields) : Option Instr :=
  match f.op.toNat with
  | 0x0E0 =>
    if f.d = (15 : BitVec 4) ++ (0 : BitVec 10) then do
      let g ← Guard.ofCode f.g
      some (.bra g f.imm28)
    else do
      let g ← Guard.ofCode f.g
      must (f.d.extractLsb' 0 10 = 0)
      let n ← maskOf (f.d.extractLsb' 10 4)
      some (.braLv g n f.imm28)
  | 0x0E1 =>
    do
      let g ← Guard.ofCode f.g
      must (f.d = 0)
      must (f.b = 0)
      some (.brx g (Operand.ofCode f.a))
  | 0x0E2 =>
    do
      let g ← Guard.ofCode f.g
      some (.call g (Operand.ofCode f.d) f.imm28)
  | 0x0E3 =>
    do
      let g ← Guard.ofCode f.g
      must (f.b = 0)
      some (.callx g (Operand.ofCode f.d) (Operand.ofCode f.a))
  | 0x0E4 =>
    do
      let g ← Guard.ofCode f.g
      must (f.d = 0)
      must (f.b = 0)
      some (.ret g (Operand.ofCode f.a))
  | 0x0E5 =>
    do
      let g ← Guard.ofCode f.g
      must (f.a = 0)
      must (f.b = 0)
      must (f.d.extractLsb' 0 10 = 0)
      let n ← maskOf (f.d.extractLsb' 10 4)
      some (.join g n)
  | 0x0E6 =>
    do
      let g ← Guard.ofCode f.g
      must (f.a = 0)
      must (f.b = 0)
      must (f.d.extractLsb' 0 10 = 0)
      let n ← maskOf (f.d.extractLsb' 10 4)
      some (.leave g n)
  | 0x0E7 =>
    do
      let g ← Guard.ofCode f.g
      must (f.a = 0)
      must (f.b = 0)
      must (f.d.extractLsb' 0 10 = 0)
      let n ← maskOf (f.d.extractLsb' 10 4)
      some (.jwait g n)
  | 0x0E8 =>
    do
      let g ← Guard.ofCode f.g
      must (f.a = 0)
      must (f.b.extractLsb' 5 9 = 0)
      let n ← maskOf (f.b.extractLsb' 0 4)
      some (.mget g (Operand.ofCode f.d) (f.b.getLsbD 4) n)
  | 0x0E9 =>
    do
      let g ← Guard.ofCode f.g
      must (f.d = 0)
      must (f.b.extractLsb' 4 10 = 0)
      let n ← maskOf (f.b.extractLsb' 0 4)
      some (.mput g (Operand.ofCode f.a) n)
  | 0x0EA =>
    do
      let g ← Guard.ofCode f.g
      must (f.d = 0)
      must (f.a = 0)
      must (f.b = 0)
      some (.exit g)
  | 0x0EB =>
    do
      let g ← Guard.ofCode f.g
      must (f.d = 0)
      must (f.a = 0)
      must (f.b.getLsbD 13 = false)
      some (.yield g (f.b.extractLsb' 0 13))
  | 0x0EC =>
    do
      let g ← Guard.ofCode f.g
      must (f.d = 0)
      must (f.a = 0)
      must (f.b = 0)
      some (.nop g)
  | _ => none

/-- The class F word of the fields, its sub-field ranges not yet checked. -/
def parseF (f : Fields) : Option Instr :=
  match f.op.toNat with
  | 0x100 =>
    do
      let p ← PSet.ofCode f.g
      some (.shfl p (Operand.ofCode f.d) (Operand.ofCode f.a) (Operand.ofCode f.b))
  | 0x101 =>
    do
      let p ← PSet.ofCode f.g
      must (f.b.extractLsb' 6 8 = 0)
      some (.shflup p (Operand.ofCode f.d) (Operand.ofCode f.a) (f.b.extractLsb' 0 6))
  | 0x102 =>
    do
      let p ← PSet.ofCode f.g
      must (f.b.extractLsb' 6 8 = 0)
      some (.shfldn p (Operand.ofCode f.d) (Operand.ofCode f.a) (f.b.extractLsb' 0 6))
  | 0x103 =>
    do
      let p ← PSet.ofCode f.g
      must (f.b.extractLsb' 6 8 = 0)
      some (.shflx p (Operand.ofCode f.d) (Operand.ofCode f.a) (f.b.extractLsb' 0 6))
  | 0x104 =>
    do
      let p ← PSet.ofCode f.g
      must (f.b.extractLsb' 7 7 = 0)
      some (.bcast p (Operand.ofCode f.d) (Operand.ofCode f.a) (f.b.getLsbD 6) (f.b.extractLsb' 0 6))
  | 0x105 =>
    do
      let p ← PSet.ofCode f.g
      must (f.b.extractLsb' 0 9 = 0)
      let op ← ScanOp.ofCode (f.b.extractLsb' 10 4)
      some (.scan p (Operand.ofCode f.d) (Operand.ofCode f.a) op (f.b.getLsbD 9))
  | 0x106 =>
    do
      let p ← PSet.ofCode f.g
      must (f.b.extractLsb' 0 10 = 0)
      let op ← ScanOp.ofCode (f.b.extractLsb' 10 4)
      some (.reduce p (Operand.ofCode f.d) (Operand.ofCode f.a) op)
  | 0x107 =>
    do
      let p ← PSet.ofCode f.g
      must (f.a = 0)
      must (f.b.extractLsb' 8 6 = 0)
      some (.ballot p (Operand.ofCode f.d) (PredBit.ofCode (f.b.extractLsb' 0 8)))
  | 0x108 =>
    do
      let p ← PSet.ofCode f.g
      must (f.a = 0)
      must (f.b.extractLsb' 8 5 = 0)
      some (.prank p (Operand.ofCode f.d) (f.b.getLsbD 13) (PredBit.ofCode (f.b.extractLsb' 0 8)))
  | 0x109 =>
    do
      let p ← PSet.ofCode f.g
      some (.sample p (Operand.ofCode f.d) (Operand.ofCode f.a) (Operand.ofCode f.b))
  | _ => none

/-- The class G word of the fields, its sub-field ranges not yet checked. -/
def parseG (f : Fields) : Option Instr :=
  match f.op.toNat with
  | 0x120 =>
    do
      let g ← Guard.ofCode f.g
      some (.ldg g (Operand.ofCode f.d) (Operand.ofCode f.a) (f.b.extractLsb' 12 2) (f.b.extractLsb' 0 12))
  | 0x121 =>
    do
      let g ← Guard.ofCode f.g
      some (.stg g (Operand.ofCode f.d) (Operand.ofCode f.a) (f.b.extractLsb' 12 2) (f.b.extractLsb' 0 12))
  | 0x122 =>
    do
      let g ← Guard.ofCode f.g
      must (f.b.extractLsb' 12 2 = 0)
      some (.lds g (Operand.ofCode f.d) (Operand.ofCode f.a) (f.b.extractLsb' 0 12))
  | 0x123 =>
    do
      let g ← Guard.ofCode f.g
      must (f.b.extractLsb' 12 2 = 0)
      some (.sts g (Operand.ofCode f.d) (Operand.ofCode f.a) (f.b.extractLsb' 0 12))
  | 0x124 =>
    do
      let g ← Guard.ofCode f.g
      must (f.b.extractLsb' 12 2 = 0)
      some (.ldc g (Operand.ofCode f.d) (Operand.ofCode f.a) (f.b.extractLsb' 0 12))
  | 0x125 =>
    do
      let g ← Guard.ofCode f.g
      must (f.b.extractLsb' 12 2 = 0)
      some (.stc g (Operand.ofCode f.d) (Operand.ofCode f.a) (f.b.extractLsb' 0 12))
  | 0x126 =>
    do
      let g ← Guard.ofCode f.g
      must (f.b.extractLsb' 12 2 = 0)
      some (.ldx g (Operand.ofCode f.d) (Operand.ofCode f.a) (f.b.extractLsb' 0 12))
  | 0x127 =>
    do
      let g ← Guard.ofCode f.g
      must (f.b.extractLsb' 12 2 = 0)
      some (.stx g (Operand.ofCode f.d) (Operand.ofCode f.a) (f.b.extractLsb' 0 12))
  | 0x128 =>
    do
      let g ← Guard.ofCode f.g
      some (.ldt g (Operand.ofCode f.d) (Operand.ofCode f.a) (f.b.extractLsb' 8 6) (f.b.extractLsb' 0 8))
  | 0x129 =>
    do
      let g ← Guard.ofCode f.g
      some (.stt g (Operand.ofCode f.d) (Operand.ofCode f.a) (f.b.extractLsb' 8 6) (f.b.extractLsb' 0 8))
  | 0x12A =>
    do
      let g ← Guard.ofCode f.g
      must (f.d.extractLsb' 0 11 = 0)
      some (.pref g (Width.ofCode (f.d.extractLsb' 11 3)) (Operand.ofCode f.a) (f.b.extractLsb' 12 2) (f.b.extractLsb' 0 12))
  | 0x12B =>
    if f.b.extractLsb' 12 2 = 1 then do
      let g ← Guard.ofCode f.g
      must (f.d = 0)
      must (f.a = 0)
      must (f.b.extractLsb' 0 12 = 0)
      some (.l1invAll g)
    else do
      let g ← Guard.ofCode f.g
      must (f.b.extractLsb' 12 2 = 0)
      some (.l1inv g (Operand.ofCode f.d) (Operand.ofCode f.a) (f.b.extractLsb' 0 12))
  | _ => none

/-- The class H word of the fields, its sub-field ranges not yet checked. -/
def parseH (f : Fields) : Option Instr :=
  match f.op.toNat with
  | 0x140 =>
    do
      must (f.g = 0)
      must (f.d = 0)
      must (f.a = 0)
      must (f.b.extractLsb' 3 11 = 0)
      some (.fence (f.b.extractLsb' 0 3))
  | 0x141 =>
    do
      must (f.g = 0)
      must (f.d = 0)
      must (f.a = 0)
      must (f.b = 0)
      some .phase
  | 0x142 =>
    do
      must (f.g = 0)
      must (f.d = 0)
      must (f.a = 0)
      must (f.b = 0)
      some .phasea
  | 0x143 =>
    do
      must (f.g = 0)
      must (f.d = 0)
      must (f.a = 0)
      must (f.b = 0)
      some .phasew
  | 0x144 =>
    if f.b.getLsbD 13 = true then do
      must (f.g = 0)
      must (f.d = 0)
      must (f.b.extractLsb' 4 9 = 0)
      some (.bartN (f.b.extractLsb' 0 4) (Operand.ofCode f.a))
    else do
      must (f.g = 0)
      must (f.d = 0)
      must (f.a = 0)
      must (f.b.extractLsb' 4 10 = 0)
      some (.bart (f.b.extractLsb' 0 4))
  | 0x145 =>
    do
      must (f.g = 0)
      must (f.d = 0)
      must (f.a = 0)
      must (f.b.extractLsb' 2 12 = 0)
      some (.barc (f.b.extractLsb' 0 2))
  | _ => none

/-- The class I word of the fields, its sub-field ranges not yet checked. -/
def parseI (f : Fields) : Option Instr :=
  match f.op.toNat with
  | 0x160 =>
    do
      must (f.g = 0)
      must (f.b.extractLsb' 0 4 = 0)
      let out ← POut.ofCode (f.b.extractLsb' 4 2)
      some (.pld (Operand.ofCode f.d) (Operand.ofCode f.a) (f.b.extractLsb' 11 3) (f.b.extractLsb' 7 4) (f.b.getLsbD 6) out)
  | 0x161 =>
    do
      must (f.g = 0)
      must (f.b.extractLsb' 0 6 = 0)
      some (.prfn (Operand.ofCode f.d) (Operand.ofCode f.a) (f.b.extractLsb' 11 3) (f.b.extractLsb' 7 4) (f.b.getLsbD 6))
  | 0x162 =>
    do
      must (f.g = 0)
      must (f.b.extractLsb' 0 6 = 0)
      some (.pst (Operand.ofCode f.d) (Operand.ofCode f.a) (f.b.extractLsb' 11 3) (f.b.extractLsb' 7 4) (f.b.getLsbD 6))
  | 0x163 =>
    do
      must (f.g = 0)
      must (f.b.extractLsb' 0 6 = 0)
      some (.pcopy (Operand.ofCode f.d) (Operand.ofCode f.a) (f.b.extractLsb' 10 4) (f.b.extractLsb' 6 4))
  | 0x164 =>
    do
      must (f.g = 0)
      must (f.b.extractLsb' 0 6 = 0)
      some (.pcopyx (Operand.ofCode f.d) (Operand.ofCode f.a) (f.b.extractLsb' 10 4) (f.b.extractLsb' 6 4))
  | 0x165 =>
    do
      must (f.g = 0)
      must (f.d = 0)
      must (f.b = 0)
      some (.pbinit (Operand.ofCode f.a))
  | 0x166 =>
    do
      must (f.g = 0)
      must (f.d.extractLsb' 8 6 = 0)
      must (f.b.extractLsb' 4 10 = 0)
      some (.pbwait (PredBit.ofCode (f.d.extractLsb' 0 8)) (Operand.ofCode f.a) (f.b.extractLsb' 0 4))
  | 0x167 =>
    do
      must (f.g = 0)
      must (f.b.extractLsb' 1 13 = 0)
      some (.pbtest (Operand.ofCode f.d) (Operand.ofCode f.a) (f.b.getLsbD 0))
  | 0x168 =>
    do
      must (f.g = 0)
      must (f.b.extractLsb' 10 3 = 0)
      some (.pgate (Operand.ofCode f.d) (Operand.ofCode f.a) (f.b.getLsbD 13) (Sel.ofCode (f.b.extractLsb' 0 10)))
  | 0x169 =>
    do
      must (f.g = 0)
      must (f.b.extractLsb' 10 4 = 0)
      some (.paudit (Operand.ofCode f.d) (Operand.ofCode f.a) (Sel.ofCode (f.b.extractLsb' 0 10)))
  | 0x16A =>
    do
      must (f.g = 0)
      must (f.a = 0)
      must (f.b.extractLsb' 0 10 = 0)
      some (.pdrop (Operand.ofCode f.d) (f.b.extractLsb' 10 4))
  | 0x16B =>
    if f.b.getLsbD 12 = true then do
      must (f.g = 0)
      must (f.d = 0)
      must (f.b.extractLsb' 4 8 = 0)
      some (.ptagSet (Operand.ofCode f.a) (f.b.getLsbD 13) (f.b.extractLsb' 0 4))
    else do
      must (f.g = 0)
      must (f.b.extractLsb' 0 12 = 0)
      some (.ptagGet (Operand.ofCode f.d) (Operand.ofCode f.a) (f.b.getLsbD 13))
  | _ => none

/-- The class J word of the fields, its sub-field ranges not yet checked. -/
def parseJ (f : Fields) : Option Instr :=
  match f.op.toNat with
  | 0x180 =>
    do
      must (f.g = 0)
      some (.mma (f.d.extractLsb' 9 5) (f.d.extractLsb' 7 2) (f.d.extractLsb' 3 4) (f.d.extractLsb' 0 3) (Operand.ofCode f.a) (f.b.extractLsb' 10 4) (f.b.extractLsb' 0 10))
  | 0x181 =>
    do
      must (f.g = 0)
      must (f.d.extractLsb' 0 3 = 0)
      some (.mmap (f.d.extractLsb' 9 5) (f.d.extractLsb' 7 2) (f.d.extractLsb' 3 4) (Operand.ofCode f.a) (f.b.extractLsb' 10 4) (Sel.ofCode (f.b.extractLsb' 0 10)))
  | 0x182 =>
    do
      must (f.g = 0)
      must (f.d.extractLsb' 0 2 = 0)
      some (.wbload (f.d.extractLsb' 10 4) (f.d.extractLsb' 6 4) (f.d.extractLsb' 3 3) (f.d.getLsbD 2) (Operand.ofCode f.a) (Operand.ofCode f.b))
  | 0x183 =>
    do
      must (f.g = 0)
      must (f.a = 0)
      must (f.b = 0)
      must (f.d.extractLsb' 0 10 = 0)
      some (.wbdrop (f.d.extractLsb' 10 4))
  | 0x184 =>
    do
      must (f.g = 0)
      must (f.a = 0)
      must (f.b = 0)
      must (f.d.extractLsb' 0 9 = 0)
      some (.acq (f.d.extractLsb' 9 5))
  | 0x185 =>
    do
      must (f.g = 0)
      must (f.a = 0)
      must (f.b = 0)
      must (f.d.extractLsb' 0 9 = 0)
      some (.rel (f.d.extractLsb' 9 5))
  | 0x186 =>
    do
      must (f.g = 0)
      must (f.b = 0)
      must (f.d.extractLsb' 0 5 = 0)
      let cols ← Cols.ofCode (f.d.extractLsb' 5 2)
      some (.accrd (f.d.extractLsb' 9 5) (f.d.extractLsb' 7 2) cols (Operand.ofCode f.a))
  | 0x187 =>
    do
      must (f.g = 0)
      must (f.b = 0)
      must (f.d.extractLsb' 0 5 = 0)
      let cols ← Cols.ofCode (f.d.extractLsb' 5 2)
      some (.accwr (f.d.extractLsb' 9 5) (f.d.extractLsb' 7 2) cols (Operand.ofCode f.a))
  | 0x188 =>
    do
      must (f.g = 0)
      must (f.a = 0)
      must (f.b = 0)
      must (f.d.extractLsb' 0 9 = 0)
      some (.accz (f.d.extractLsb' 9 5))
  | 0x189 =>
    do
      must (f.g = 0)
      must (f.d.extractLsb' 0 3 = 0)
      let mode ← DMode.ofCode (f.d.extractLsb' 7 2)
      let space ← DSpace.ofCode (f.d.extractLsb' 5 2)
      some (.drain (f.d.extractLsb' 9 5) mode space (f.d.getLsbD 4) (f.d.getLsbD 3) (Operand.ofCode f.a) (Operand.ofCode f.b))
  | _ => none

/-- The class K word of the fields, its sub-field ranges not yet checked. -/
def parseK (f : Fields) : Option Instr :=
  match f.op.toNat with
  | 0x1A0 =>
    do
      let g ← Guard.ofCode f.g
      must (f.b.getLsbD 8 = false)
      let op ← AtomOp.ofCode (f.b.extractLsb' 10 4)
      some (.atom g (Operand.ofCode f.d) (Operand.ofCode f.a) op (f.b.getLsbD 9) (f.b.extractLsb' 0 8))
  | 0x1A1 =>
    do
      let g ← Guard.ofCode f.g
      some (.cas g (Operand.ofCode f.d) (Operand.ofCode f.a) (Operand.ofCode f.b))
  | 0x1A2 =>
    do
      let g ← Guard.ofCode f.g
      must (f.b.getLsbD 8 = false)
      let op ← AtomFOp.ofCode (f.b.extractLsb' 10 4)
      some (.atomf g (Operand.ofCode f.d) (Operand.ofCode f.a) op (f.b.getLsbD 9) (f.b.extractLsb' 0 8))
  | 0x1A3 =>
    do
      let g ← Guard.ofCode f.g
      must (f.b.extractLsb' 8 2 = 0)
      let c ← WCond.ofCode (f.b.extractLsb' 10 4)
      some (.waitv g (Operand.ofCode f.d) (Operand.ofCode f.a) c (f.b.extractLsb' 0 8))
  | 0x1A4 =>
    do
      let g ← Guard.ofCode f.g
      some (.dqpush g (Operand.ofCode f.d) (Operand.ofCode f.a) (Operand.ofCode f.b))
  | 0x1A5 =>
    do
      let g ← Guard.ofCode f.g
      must (f.a = 0)
      must (f.b.extractLsb' 8 6 = 0)
      some (.dqpop g (Operand.ofCode f.d) (PredBit.ofCode (f.b.extractLsb' 0 8)))
  | 0x1A6 =>
    do
      let g ← Guard.ofCode f.g
      must (f.a = 0)
      must (f.b.extractLsb' 8 6 = 0)
      some (.dqsteal g (Operand.ofCode f.d) (PredBit.ofCode (f.b.extractLsb' 0 8)))
  | 0x1A7 =>
    do
      let g ← Guard.ofCode f.g
      some (.fork g (Operand.ofCode f.d) (Operand.ofCode f.a) (Operand.ofCode f.b))
  | 0x1A8 =>
    do
      let g ← Guard.ofCode f.g
      must (f.d = 0)
      must (f.b = 0)
      some (.tjoin g (Operand.ofCode f.a))
  | 0x1A9 =>
    do
      let g ← Guard.ofCode f.g
      must (f.d = 0)
      must (f.b = 0)
      some (.tend g (Operand.ofCode f.a))
  | _ => none

/-- The class L word of the fields, its sub-field ranges not yet checked. -/
def parseL (f : Fields) : Option Instr :=
  match f.op.toNat with
  | 0x1C0 =>
    if f.b.getLsbD 4 = true then do
      let g ← Guard.ofCode f.g
      must (f.a = 0)
      must (f.b = 16)
      some (.wregRe g (Operand.ofCode f.d))
    else do
      let g ← Guard.ofCode f.g
      must (f.b.extractLsb' 0 5 = 0)
      let space ← DSpace.ofCode (f.b.extractLsb' 12 2)
      some (.wreg g (Operand.ofCode f.d) (Operand.ofCode f.a) space (f.b.getLsbD 11) (f.b.getLsbD 10) (f.b.extractLsb' 5 5))
  | 0x1C1 =>
    do
      let g ← Guard.ofCode f.g
      must (f.b = 0)
      some (.wdereg g (Operand.ofCode f.d) (Operand.ofCode f.a))
  | 0x1C2 =>
    do
      let g ← Guard.ofCode f.g
      some (.put g (Operand.ofCode f.d) (Operand.ofCode f.a) (Operand.ofCode f.b))
  | 0x1C3 =>
    do
      let g ← Guard.ofCode f.g
      some (.putm g (Operand.ofCode f.d) (Operand.ofCode f.a) (Operand.ofCode f.b))
  | 0x1C4 =>
    do
      let g ← Guard.ofCode f.g
      some (.get g (Operand.ofCode f.d) (Operand.ofCode f.a) (Operand.ofCode f.b))
  | 0x1C5 =>
    if f.b.getLsbD 13 = false then do
      let g ← Guard.ofCode f.g
      must (f.b = 0)
      some (.wcntW g (Operand.ofCode f.d) (Operand.ofCode f.a))
    else if f.b.getLsbD 12 = true then do
      let g ← Guard.ofCode f.g
      must (f.a = 0)
      must (f.b.extractLsb' 4 8 = 0)
      some (.wcntRef g (Operand.ofCode f.d) (f.b.extractLsb' 0 4))
    else do
      let g ← Guard.ofCode f.g
      must (f.a = 0)
      must (f.b.extractLsb' 4 8 = 0)
      some (.wcntDone g (Operand.ofCode f.d) (f.b.extractLsb' 0 4))
  | 0x1C6 =>
    if f.b.getLsbD 13 = false then do
      let g ← Guard.ofCode f.g
      must (f.b = 0)
      some (.wwaitW g (Operand.ofCode f.d) (Operand.ofCode f.a))
    else do
      let g ← Guard.ofCode f.g
      must (f.a = 0)
      must (f.b.extractLsb' 4 9 = 0)
      some (.wwaitSnd g (Operand.ofCode f.d) (f.b.extractLsb' 0 4))
  | 0x1C7 =>
    do
      let g ← Guard.ofCode f.g
      must (f.b.extractLsb' 10 2 = 0)
      some (.rsend g (Operand.ofCode f.d) (Operand.ofCode f.a) (f.b.extractLsb' 12 2) (Sel.ofCode (f.b.extractLsb' 0 10)))
  | 0x1C8 =>
    do
      let g ← Guard.ofCode f.g
      must (f.b = 0)
      some (.rwait g (Operand.ofCode f.d) (Operand.ofCode f.a))
  | 0x1C9 =>
    do
      let g ← Guard.ofCode f.g
      must (f.d = 0)
      some (.radv g (Operand.ofCode f.a) (Operand.ofCode f.b))
  | _ => none

/-- The class M word of the fields, its sub-field ranges not yet checked. -/
def parseM (f : Fields) : Option Instr :=
  match f.op.toNat with
  | 0x1E0 =>
    do
      let g ← Guard.ofCode f.g
      must (f.b = 0)
      some (.kvmap g (Operand.ofCode f.d) (Operand.ofCode f.a))
  | 0x1E1 =>
    do
      let g ← Guard.ofCode f.g
      must (f.b.extractLsb' 0 13 = 0)
      some (.kvalloc g (Operand.ofCode f.d) (Operand.ofCode f.a) (f.b.getLsbD 13))
  | 0x1E2 =>
    do
      let g ← Guard.ofCode f.g
      must (f.b = 0)
      some (.kvfree g (Operand.ofCode f.d) (Operand.ofCode f.a))
  | 0x1E3 =>
    do
      let g ← Guard.ofCode f.g
      some (.kvfork g (Operand.ofCode f.d) (Operand.ofCode f.a) (Operand.ofCode f.b))
  | 0x1E4 =>
    do
      let g ← Guard.ofCode f.g
      some (.kvapp g (Operand.ofCode f.d) (Operand.ofCode f.a) (Operand.ofCode f.b))
  | 0x1E5 =>
    do
      let g ← Guard.ofCode f.g
      some (.kvcommit g (Operand.ofCode f.d) (Operand.ofCode f.a) (Operand.ofCode f.b))
  | 0x1E6 =>
    do
      let g ← Guard.ofCode f.g
      some (.kvtrim g (Operand.ofCode f.d) (Operand.ofCode f.a) (Operand.ofCode f.b))
  | 0x1E7 =>
    do
      let g ← Guard.ofCode f.g
      some (.attn g (Operand.ofCode f.d) (Operand.ofCode f.a) (Operand.ofCode f.b))
  | 0x1E8 =>
    do
      let g ← Guard.ofCode f.g
      must (f.b = 0)
      must (f.d.extractLsb' 8 6 = 0)
      some (.attnwait g (PredBit.ofCode (f.d.extractLsb' 0 8)) (Operand.ofCode f.a))
  | _ => none

/-- The class N word of the fields, its sub-field ranges not yet checked. -/
def parseN (f : Fields) : Option Instr :=
  match f.op.toNat with
  | 0x200 =>
    do
      let g ← Guard.ofCode f.g
      some (.grinit g (Operand.ofCode f.d) (Operand.ofCode f.a) (Operand.ofCode f.b))
  | 0x201 =>
    do
      let g ← Guard.ofCode f.g
      some (.grmask g (Operand.ofCode f.d) (Operand.ofCode f.a) (Operand.ofCode f.b))
  | 0x202 =>
    do
      let g ← Guard.ofCode f.g
      must (f.b.extractLsb' 8 6 = 0)
      some (.gradv g (Operand.ofCode f.d) (Operand.ofCode f.a) (PredBit.ofCode (f.b.extractLsb' 0 8)))
  | 0x203 =>
    if f.b.extractLsb' 5 2 = 0 then do
      let g ← Guard.ofCode f.g
      must (f.b.extractLsb' 7 7 = 0)
      some (.grckptSave g (Operand.ofCode f.d) (Operand.ofCode f.a) (f.b.extractLsb' 0 5))
    else if f.b.extractLsb' 5 2 = 1 then do
      let g ← Guard.ofCode f.g
      must (f.b.extractLsb' 7 7 = 0)
      some (.grckptRel g (Operand.ofCode f.d) (Operand.ofCode f.a) (f.b.extractLsb' 0 5))
    else do
      let g ← Guard.ofCode f.g
      must (f.b = 64)
      some (.grckptRelall g (Operand.ofCode f.d) (Operand.ofCode f.a))
  | 0x204 =>
    do
      let g ← Guard.ofCode f.g
      must (f.b.extractLsb' 5 9 = 0)
      some (.grroll g (Operand.ofCode f.d) (Operand.ofCode f.a) (f.b.extractLsb' 0 5))
  | 0x205 =>
    do
      let g ← Guard.ofCode f.g
      must (f.b = 0)
      some (.grfork g (Operand.ofCode f.d) (Operand.ofCode f.a))
  | 0x206 =>
    do
      let g ← Guard.ofCode f.g
      must (f.b.extractLsb' 1 13 = 0)
      some (.grstat g (Operand.ofCode f.d) (Operand.ofCode f.a) (f.b.getLsbD 0))
  | 0x207 =>
    do
      let g ← Guard.ofCode f.g
      some (.squash g (Operand.ofCode f.d) (Operand.ofCode f.a) (Operand.ofCode f.b))
  | 0x208 =>
    if f.b.extractLsb' 12 2 = 0 then do
      let g ← Guard.ofCode f.g
      must (f.b.extractLsb' 0 12 = 0)
      some (.sqsetTag g (Operand.ofCode f.d) (Operand.ofCode f.a))
    else if f.b.extractLsb' 12 2 = 1 then do
      let g ← Guard.ofCode f.g
      must (f.b.extractLsb' 0 12 = 0)
      some (.sqsetEntry g (Operand.ofCode f.d) (Operand.ofCode f.a))
    else if f.b.extractLsb' 12 2 = 2 then do
      let g ← Guard.ofCode f.g
      must (f.a = 0)
      must (f.b.extractLsb' 0 12 = 0)
      some (.sqsetOff g (Operand.ofCode f.d))
    else do
      let g ← Guard.ofCode f.g
      must (f.a = 0)
      must (f.b.extractLsb' 0 12 = 0)
      some (.sqsetUnreg g (Operand.ofCode f.d))
  | 0x209 =>
    do
      let g ← Guard.ofCode f.g
      some (.rng g (Operand.ofCode f.d) (Operand.ofCode f.a) (Operand.ofCode f.b))
  | _ => none

/-- The class O word of the fields, its sub-field ranges not yet checked. -/
def parseO (f : Fields) : Option Instr :=
  match f.op.toNat with
  | 0x220 =>
    do
      let g ← Guard.ofCode f.g
      must (f.b = 0)
      some (.launch g (Operand.ofCode f.d) (Operand.ofCode f.a))
  | 0x221 =>
    if f.b.getLsbD 13 = true then do
      let g ← Guard.ofCode f.g
      must (f.a = 0)
      must (f.b = 8192)
      some (.ldepGo g (Operand.ofCode f.d))
    else do
      let g ← Guard.ofCode f.g
      must (f.b = 0)
      some (.ldepAdd g (Operand.ofCode f.d) (Operand.ofCode f.a))
  | 0x222 =>
    do
      let g ← Guard.ofCode f.g
      must (f.b = 0)
      some (.lquery g (Operand.ofCode f.d) (Operand.ofCode f.a))
  | 0x223 =>
    do
      let g ← Guard.ofCode f.g
      must (f.b = 0)
      some (.seqadm g (Operand.ofCode f.d) (Operand.ofCode f.a))
  | 0x224 =>
    do
      let g ← Guard.ofCode f.g
      must (f.b = 0)
      some (.seqret g (Operand.ofCode f.d) (Operand.ofCode f.a))
  | 0x225 =>
    do
      let g ← Guard.ofCode f.g
      must (f.b.extractLsb' 2 12 = 0)
      let q ← SeqQuery.ofCode (f.b.extractLsb' 0 2)
      some (.seqinfo g (Operand.ofCode f.d) (Operand.ofCode f.a) q)
  | _ => none

/-- The class P word of the fields, its sub-field ranges not yet checked. -/
def parseP (f : Fields) : Option Instr :=
  match f.op.toNat with
  | 0x240 =>
    do
      let g ← Guard.ofCode f.g
      must (f.d = 0)
      must (f.a = 0)
      some (.trap g f.b)
  | 0x241 =>
    if f.b = 0 then do
      let g ← Guard.ofCode f.g
      must (f.d = 0)
      must (f.a = 0)
      must (f.b = 0)
      some (.tret g)
    else do
      let g ← Guard.ofCode f.g
      must (f.d = 0)
      must (f.a = 0)
      must (f.b = 1)
      some (.tretSkip g)
  | 0x242 =>
    do
      let g ← Guard.ofCode f.g
      must (f.a = 0)
      must (f.b.extractLsb' 10 4 = 0)
      some (.sysrd g (Operand.ofCode f.d) (f.b.extractLsb' 0 10))
  | 0x243 =>
    do
      let g ← Guard.ofCode f.g
      must (f.d = 0)
      must (f.b.extractLsb' 10 4 = 0)
      some (.syswr g (Operand.ofCode f.a) (f.b.extractLsb' 0 10))
  | 0x244 =>
    do
      let g ← Guard.ofCode f.g
      must (f.d = 0)
      must (f.a = 0)
      some (.bkpt g f.b)
  | 0x245 =>
    do
      let g ← Guard.ofCode f.g
      must (f.b.extractLsb' 8 6 = 0)
      some (.hcall g (Operand.ofCode f.d) (Operand.ofCode f.a) (f.b.extractLsb' 0 8))
  | 0x246 =>
    if f.b.extractLsb' 12 2 = 1 then do
      let g ← Guard.ofCode f.g
      must (f.d = 0)
      must (f.a = 0)
      must (f.b.extractLsb' 0 12 = 0)
      some (.xinvAll g)
    else do
      let g ← Guard.ofCode f.g
      must (f.b.extractLsb' 12 2 = 0)
      some (.xinv g (Operand.ofCode f.d) (Operand.ofCode f.a) (f.b.extractLsb' 0 12))
  | 0x247 =>
    if f.b.extractLsb' 12 2 = 0 then do
      let g ← Guard.ofCode f.g
      must (f.d = 0)
      must (f.a = 0)
      must (f.b.getLsbD 11 = false)
      some (.fmodeSet g (f.b.extractLsb' 0 11))
    else if f.b.extractLsb' 12 2 = 1 then do
      let g ← Guard.ofCode f.g
      must (f.d = 0)
      must (f.a = 0)
      must (f.b.getLsbD 11 = false)
      some (.fmodeClr g (f.b.extractLsb' 0 11))
    else do
      let g ← Guard.ofCode f.g
      must (f.d = 0)
      must (f.a = 0)
      must (f.b.extractLsb' 11 3 = 4)
      some (.fmodeWr g (f.b.extractLsb' 0 11))
  | _ => none

/-- The word of the fields, its sub-field ranges not yet checked (R52, R53, Table 2.9). -/
def parse (f : Fields) : Option Instr :=
  match f.op.toNat / 32 with
  | 0 => parseA f
  | 2 => parseB f
  | 4 => parseC f
  | 5 => parseD f
  | 7 => parseE f
  | 8 => parseF f
  | 9 => parseG f
  | 10 => parseH f
  | 11 => parseI f
  | 12 => parseJ f
  | 13 => parseK f
  | 14 => parseL f
  | 15 => parseM f
  | 16 => parseN f
  | 17 => parseO f
  | 18 => parseP f
  | _ => none

/-- The non-operand field ranges that the constructors' types leave open; a word outside them is illegal (0x01). -/
def Instr.fieldsOk : Instr → Bool
  | .smove _ _ _ n => decide (1 ≤ n.toNat ∧ n.toNat ≤ 256)
  | .loop step _ _ => decide (step.toNat ≤ 120)
  | .endloopBrk m1 off => decide (m1.toNat < 4 ∧ off ≠ 0)
  | .ixset _ _ _ count => decide (count.toNat < 8192)
  | .ixstepAdd _ x _ _ => decide (x.w ≠ .w8)
  | .ixstepSet _ x _ _ => decide (x.w = .w8)
  | .spill _ _ n => decide (1 ≤ n.toNat ∧ n.toNat ≤ 960)
  | .fill _ _ n => decide (1 ≤ n.toNat ∧ n.toNat ≤ 960)
  | .bfx _ _ _ _ len1 pos => decide (pos.toNat + len1.toNat + 1 ≤ 64)
  | .bfi _ d _ len1 pos => decide (pos.toNat + len1.toNat + 1 ≤ d.w.bits)
  | .bcast _ _ _ low n => decide (low = true → n = 0)
  | .pref _ w _ _ _ => decide (w ≠ .w4 ∧ w ≠ .w12)
  | .fence sc => decide (sc ≠ 0)
  | .pld _ _ _ n dflt _ => decide (dflt = true → n = 0)
  | .prfn _ _ _ n dflt => decide (dflt = true → n = 0)
  | .pst _ _ _ n dflt => decide (dflt = true → n = 0)
  | .pdrop _ h => decide (h ≠ 0)
  | .atom _ _ _ op n _ => decide ((op = .ld → n = false) ∧ (op = .st → n = true))
  | .wreg _ _ _ _ _ _ sz => decide (8 ≤ sz.toNat)
  | .fmodeSet _ v => decide (v.extractLsb' 3 3 = 0)
  | .fmodeClr _ v => decide (v.extractLsb' 3 3 = 0)
  | .fmodeWr _ v => decide (v.extractLsb' 3 3 = 0)
  | _ => true

/-- The instruction of the fields of a word, or none for an illegal instruction (0x01; Table 2.2 step 2, R53). -/
def decodeFields (f : Fields) : Option Instr :=
  (parse f).bind fun i => if i.fieldsOk then some i else none

/-- The instruction of a word, whatever its stitch and baste bits, or none for an illegal instruction (0x01). -/
def decode (w : Word) : Option Instr := decodeFields (Fields.ofWord w)

/-- The word of an instruction with the given stitch and baste bits (Table 2.1); an event has none. -/
def encode (i : Instr) (stitch baste : Bool) : Option Word := (encodeFields i).map (·.toWord stitch baste)

/-- The host's query: the instruction the decoder reads from a word whose bits are `w`; every word has 64 bits (R28). -/
def decodeTableWord (_nbits w : Nat) : Option Instr := decode (BitVec.ofNat 64 w)

end Sys2Proof
end

