-- ==== Sys2Proof/Machine/Flags.lean ====
section
/-! DEFINITION. Element formats, rounding and the floating-point flags (05 R122–R127, 06 R146–R159, R163–R165): exact values
as sign, integer mantissa and power of two; rounding to a format; the exception flags each delivery raises. -/

namespace Sys2Proof

/-- A rounding mode (Table 5.3). -/
inductive Rnd
  | rne | rtz | rdn | rup
deriving DecidableEq, Repr, Inhabited

namespace Machine

/-- The rounding mode of a two-bit code (Table 5.3). -/
def rndOf (c : BitVec 2) : Rnd := if c = 0 then .rne else if c = 1 then .rtz else if c = 2 then .rdn else .rup

/-- The rounding mode of a mode field, DYN taking the FMODE.RND given (R152). -/
def rndOfMode (m : RMode) (dyn : Rnd) : Rnd :=
  match m with
  | .rne => .rne | .rtz => .rtz | .rdn => .rdn | .rup => .rup | .dyn => dyn

/-! ## Flags -/

/-- The exception flags in the bit order of Table 6.2: NV, DZ, OF, UF, NX from bit 4 down. -/
abbrev FFlags := BitVec 5

/-- Invalid operation. -/
def flNV : FFlags := 16
/-- Divide-by-zero. -/
def flDZ : FFlags := 8
/-- Overflow with inexact (R148). -/
def flOF : FFlags := 5
/-- Underflow with inexact (R148). -/
def flUF : FFlags := 3
/-- Inexact. -/
def flNX : FFlags := 1

/-! ## Exact values -/

/-- An exact value read from a format: a NaN (signalling or not), an infinity, or (−1)^neg × m × 2^e. -/
inductive Fp
  | nan (sig : Bool)
  | inf (neg : Bool)
  | fin (neg : Bool) (m : Nat) (e : Int)
deriving DecidableEq, Repr, Inhabited

/-- A floating-point element format (Table 5.1), with its greatest finite exponent field and mantissa (Table 5.2). -/
structure Fmt where
  eb : Nat
  mb : Nat
  bias : Int
  maxE : Nat
  maxM : Nat
  /-- it has infinities -/
  hasInf : Bool
  /-- its canonical NaN, if it has one -/
  nan : Option Nat
  /-- it has signalling NaNs -/
  hasSig : Bool
deriving DecidableEq, Repr, Inhabited

/-- FP32 (Tables 5.1, 5.2). -/
def fp32 : Fmt := ⟨8, 23, 127, 254, 0x7FFFFF, true, some 0x7FC00000, true⟩
/-- FP16. -/
def fp16 : Fmt := ⟨5, 10, 15, 30, 0x3FF, true, some 0x7E00, true⟩
/-- BF16. -/
def bf16 : Fmt := ⟨8, 7, 127, 254, 0x7F, true, some 0x7FC0, true⟩
/-- FP8 E4M3. -/
def e4m3 : Fmt := ⟨4, 3, 7, 15, 6, false, some 0x7F, false⟩
/-- FP8 E5M2. -/
def e5m2 : Fmt := ⟨5, 2, 15, 30, 3, true, some 0x7E, false⟩
/-- FP4 E2M1. -/
def e2m1 : Fmt := ⟨2, 1, 1, 3, 1, false, none, false⟩

/-- Bits of the format. -/
def Fmt.bits (f : Fmt) : Nat := 1 + f.eb + f.mb

/-- The least exponent of a normal value. -/
def Fmt.emin (f : Fmt) : Int := 1 - f.bias

/-- The value of an encoding (R122, R123). -/
def Fmt.decode (f : Fmt) (w : Nat) : Fp :=
  let s := w / 2 ^ (f.eb + f.mb) % 2 == 1
  let e := w / 2 ^ f.mb % 2 ^ f.eb
  let m := w % 2 ^ f.mb
  if f.maxE < e then
    if m = 0 ∧ f.hasInf = true then .inf s
    else .nan (f.hasSig && decide (m < 2 ^ (f.mb - 1)))
  else if e = f.maxE ∧ f.maxM < m then .nan false
  else if e = 0 then .fin s m (f.emin - f.mb)
  else .fin s (2 ^ f.mb + m) (e - f.bias - f.mb)

/-- The encoding of a sign, exponent field and mantissa. -/
def Fmt.pack (f : Fmt) (s : Bool) (e m : Nat) : Nat := (if s then 2 ^ (f.eb + f.mb) else 0) + e * 2 ^ f.mb + m

/-- The canonical NaN (Table 5.2); a format without one delivers zero (Table 5.4). -/
def Fmt.nanBits (f : Fmt) : Nat := f.nan.getD 0

/-- The largest finite value of a sign. -/
def Fmt.maxBits (f : Fmt) (s : Bool) : Nat := f.pack s f.maxE f.maxM

/-! ## Rounding -/

/-- The integer k that m × 2^e rounds to, in units of 2^q, and whether it is inexact (R126). -/
def roundUnits (md : Rnd) (neg : Bool) (m : Nat) (e q : Int) : Nat × Bool :=
  if q ≤ e then (m * 2 ^ (e - q).toNat, false)
  else
    let d := 2 ^ (q - e).toNat
    let k := m / d
    let r := m % d
    let up := match md with
      | .rne => decide (d < 2 * r) || (decide (d = 2 * r) && decide (k % 2 = 1))
      | .rtz => false
      | .rdn => neg && decide (r ≠ 0)
      | .rup => !neg && decide (r ≠ 0)
    (if up then k + 1 else k, decide (r ≠ 0))

/-- The unit in the last place, as a power of two, of an unbounded-exponent rounding to p bits. -/
def ulpExp (m : Nat) (e : Int) (p : Nat) : Int := e + (Nat.log2 m : Int) - (p - 1 : Int)

/-- What an overflow of a sign delivers without saturation (Table 5.4): infinity or the largest finite value. -/
def overflowsToInf (md : Rnd) (neg : Bool) : Bool :=
  match md with
  | .rne => true | .rtz => false | .rdn => neg | .rup => !neg

/-- What an overflow delivers (R127, Table 5.4). -/
def Fmt.overflow (f : Fmt) (md : Rnd) (sat neg : Bool) : Nat :=
  if sat || f.nan.isNone then f.maxBits neg
  else if overflowsToInf md neg then (if f.hasInf then f.pack neg (2 ^ f.eb - 1) 0 else f.nanBits)
  else f.maxBits neg

/-- What rounding a finite value did (R126, R148). -/
structure Rounded where
  bits : Nat
  ovf : Bool
  tiny : Bool
  inexact : Bool
deriving DecidableEq, Repr

/-- Rounds (−1)^neg × m × 2^e to the format (R126), with Table 5.4 for an overflow. R148 defines tiny for FP32, below 2^−126, and R163
does not say what a tiny result of CVTF.TO is; DESIGN CHOICE: below the destination format's own smallest normal value (log entry 58). -/
def Fmt.round (f : Fmt) (md : Rnd) (sat neg : Bool) (m : Nat) (e : Int) : Rounded :=
  if m = 0 then ⟨f.pack neg 0 0, false, false, false⟩
  else
    let qn := ulpExp m e (f.mb + 1)
    let (ku, _) := roundUnits md neg m e qn
    let tiny := decide (ku < 2 ^ (f.emin - qn).toNat) && decide (qn < f.emin)
    let qs := f.emin - f.mb
    let q := if qs ≤ qn then qn else qs
    let (k0, ix) := roundUnits md neg m e q
    let carry := decide (2 ^ (f.mb + 1) ≤ k0)
    let k := if carry then k0 / 2 else k0
    let q' := if carry then q + 1 else q
    if k < 2 ^ f.mb then ⟨f.pack neg 0 k, false, tiny, ix⟩
    else
      let ef := q' + f.mb + f.bias
      let fld := ef.toNat
      if f.maxE < fld ∨ (fld = f.maxE ∧ f.maxM < k - 2 ^ f.mb) then ⟨f.overflow md sat neg, true, false, true⟩
      else ⟨f.pack neg fld (k - 2 ^ f.mb), false, tiny, ix⟩

/-- The flags a rounding raises (R148 steps 1–3). -/
def Rounded.flags (r : Rounded) : FFlags :=
  if r.ovf then flOF else if r.tiny && r.inexact then flUF else if r.inexact then flNX else 0

/-- Converts an exact value to a format under Table 5.4, with the flags of rounding alone. -/
def Fmt.convert (f : Fmt) (md : Rnd) (sat : Bool) (x : Fp) : Nat × FFlags :=
  match x with
  | .nan _ => (f.nanBits, 0)
  | .inf s =>
    if f.hasInf then (f.pack s (2 ^ f.eb - 1) 0, 0)
    else if f.nan.isSome && !sat then (f.nanBits, 0)
    else (f.maxBits s, 0)
  | .fin s m e => let r := f.round md sat s m e; (r.bits, r.flags)

/-- R148 with R149's flush of a tiny result: the FP32 word delivered and its flags. -/
def deliver (md : Rnd) (ftz : Bool) (x : Fp) : W32 × FFlags :=
  match x with
  | .fin s m e =>
    let r := fp32.round md false s m e
    if ftz && r.tiny then (BitVec.ofNat 32 (fp32.pack s 0 0), flUF) else (BitVec.ofNat 32 r.bits, r.flags)
  | x => let (b, fl) := fp32.convert md false x; (BitVec.ofNat 32 b, fl)

/-- The FP32 value of a word after R149's input rule. -/
def fpIn (ftz : Bool) (w : W32) : Fp :=
  match fp32.decode w.toNat with
  | .fin s m e => if ftz && decide (m < 2 ^ 23) then .fin s 0 e else .fin s m e
  | x => x

/-- A signalling NaN. -/
def Fp.isSig : Fp → Bool
  | .nan s => s
  | _ => false

/-- A NaN. -/
def Fp.isNan : Fp → Bool
  | .nan _ => true
  | _ => false

/-- The signed integer mantissa of a finite value in units of 2^q, q at or below its exponent. -/
def Fp.units (q : Int) : Fp → Int
  | .fin s m e => let k : Int := m * 2 ^ (e - q).toNat; if s then -k else k
  | _ => 0

/-- The exponent of a finite value. -/
def Fp.exp : Fp → Int
  | .fin _ _ e => e
  | _ => 0

/-- A finite value from a signed integer in units of 2^q; a zero takes the sign given. -/
def Fp.ofUnits (k : Int) (q : Int) (zneg : Bool) : Fp := if k = 0 then .fin zneg 0 q else .fin (decide (k < 0)) k.natAbs q

/-- Is the value a zero? -/
def Fp.isZero : Fp → Bool
  | .fin _ m _ => m == 0
  | _ => false

/-- The sign bit. -/
def Fp.neg : Fp → Bool
  | .nan _ => false
  | .inf s => s
  | .fin s _ _ => s

/-- The value with its sign inverted. -/
def Fp.negate : Fp → Fp
  | .nan s => .nan s
  | .inf s => .inf (!s)
  | .fin s m e => .fin (!s) m e

/-- Exact sum with R148 step 4's zero sign; NV for ∞ − ∞ and for a signalling NaN. -/
def fpAdd (md : Rnd) (a b : Fp) : Fp × FFlags :=
  if a.isNan || b.isNan then (.nan false, if a.isSig || b.isSig then flNV else 0)
  else match a, b with
    | .inf s, .inf t => if s = t then (.inf s, 0) else (.nan false, flNV)
    | .inf s, _ => (.inf s, 0)
    | _, .inf t => (.inf t, 0)
    | a, b =>
      let q := if a.exp ≤ b.exp then a.exp else b.exp
      let zneg := if a.neg = b.neg then a.neg else decide (md = .rdn)
      (Fp.ofUnits (a.units q + b.units q) q zneg, 0)

/-- Exact product; NV for 0 × ∞ and for a signalling NaN. -/
def fpMul (a b : Fp) : Fp × FFlags :=
  if a.isNan || b.isNan then (.nan false, if a.isSig || b.isSig then flNV else 0)
  else match a, b with
    | .fin s m e, .fin t n f => (.fin (s != t) (m * n) (e + f), 0)
    | a, b => if a.isZero || b.isZero then (.nan false, flNV) else (.inf (a.neg != b.neg), 0)

/-- a × b + d with one rounding (R153): 0 × ∞ is invalid even when d is a quiet NaN. -/
def fpFma (md : Rnd) (a b d : Fp) : Fp × FFlags :=
  let p := fpMul a b
  let r := fpAdd md p.1 d
  (r.1, p.2 ||| r.2)

/-- a × 2^n (R156); the exponent is limited to ±4096, beyond which every finite non-zero result over- or underflows. -/
def fpScale (a : Fp) (n : Int) : Fp × FFlags :=
  match a with
  | .nan s => (.nan false, if s then flNV else 0)
  | .inf s => (.inf s, 0)
  | .fin s m e => (.fin s m (e + (if n < -4096 then -4096 else if 4096 < n then 4096 else n)), 0)

/-- a < b on non-NaN values, −0 equal to +0. -/
def fpLt (a b : Fp) : Bool :=
  match a, b with
  | .inf s, .inf t => s && !t
  | .inf s, _ => s
  | _, .inf t => !t
  | a, b => let q := if a.exp ≤ b.exp then a.exp else b.exp; decide (a.units q < b.units q)

/-- a = b on non-NaN values, −0 equal to +0. -/
def fpEq (a b : Fp) : Bool := !fpLt a b && !fpLt b a

/-- The order of FMIN and FMAX: −0 below +0 (R154). -/
def fpLtZ (a b : Fp) : Bool := fpLt a b || (a.isZero && b.isZero && a.neg && !b.neg)

/-- The lesser or greater operand under R154's NaN rule. -/
def fpMinMax (mx : Bool) (a b : Fp) : Fp × FFlags :=
  let fl := if a.isSig || b.isSig then flNV else 0
  if a.isNan && b.isNan then (.nan false, fl)
  else if a.isNan then (b, fl)
  else if b.isNan then (a, fl)
  else (if mx then (if fpLtZ a b then b else a) else (if fpLtZ b a then b else a), fl)

/-- An FCMP condition and the flags it raises (Table 6.5). -/
def fpCmp (c : FCond) (a b : Fp) : Bool × FFlags :=
  let un := a.isNan || b.isNan
  let sig := a.isSig || b.isSig
  match c with
  | .eq => (!un && fpEq a b, if sig then flNV else 0)
  | .ne => (un || !fpEq a b, if sig then flNV else 0)
  | .lt => (!un && fpLt a b, if un then flNV else 0)
  | .le => (!un && !fpLt b a, if un then flNV else 0)
  | .gt => (!un && fpLt b a, if un then flNV else 0)
  | .ge => (!un && !fpLt a b, if un then flNV else 0)
  | .ord => (!un, if sig then flNV else 0)
  | .uno => (un, if sig then flNV else 0)

/-- FCLASS's bit number of a word as stored (R159). -/
def fpClass (w : W32) : Nat :=
  match fp32.decode w.toNat with
  | .nan s => if s then 8 else 9
  | .inf s => if s then 0 else 7
  | .fin s m _ => if m = 0 then (if s then 3 else 4) else if m < 2 ^ 23 then (if s then 2 else 5) else (if s then 1 else 6)

/-- The value rounded to an integer (R157, R164), and whether that changed it. -/
def fpToInt (md : Rnd) (s : Bool) (m : Nat) (e : Int) : Nat × Bool := roundUnits md s m e 0

/-- FRND (R157): never inexact. -/
def fpRnd (md : Rnd) (a : Fp) : Fp × FFlags :=
  match a with
  | .nan s => (.nan false, if s then flNV else 0)
  | .inf s => (.inf s, 0)
  | .fin s m e => if 0 ≤ e then (.fin s m e, 0) else (.fin s (fpToInt md s m e).1 0, 0)

/-- CVTFI (R164): the integer written, and the flags. -/
def fpCvtInt (md : Rnd) (signed : Bool) (w : Nat) (a : Fp) : Int × FFlags :=
  let lo : Int := if signed then -(2 ^ (w - 1)) else 0
  let hi : Int := if signed then 2 ^ (w - 1) - 1 else 2 ^ w - 1
  match a with
  | .nan _ => (0, flNV)
  | .inf s => (if s then lo else hi, flNV)
  | .fin s m e =>
    let (k, ix) := fpToInt md s m e
    let n : Int := if s then -(k : Int) else k
    if n < lo then (lo, flNV) else if hi < n then (hi, flNV) else (n, if ix then flNX else 0)

/-- CVTF.TO (R163): conversion to a plain slot format. -/
def fpCvtTo (f : Fmt) (md : Rnd) (sat : Bool) (a : Fp) : Nat × FFlags :=
  let nv := match a with
    | .nan s => if s || f.nan.isNone then flNV else 0
    | .inf _ => if f.hasInf then 0 else flNV
    | .fin _ _ _ => 0
  let (b, fl) := f.convert md sat a
  (b, nv ||| fl)

/-- CVTF.FROM (R163): always exact; only a signalling NaN of a format narrower than FP32 raises NV. -/
def fpCvtFrom (f : Fmt) (w : Nat) : W32 × FFlags :=
  let x := f.decode w
  (BitVec.ofNat 32 (fp32.convert .rne false x).1, if x.isSig && f != fp32 then flNV else 0)

/-- CVTIF (R165): an integer to FP32; NX when inexact and nothing else. -/
def fpCvtFromInt (md : Rnd) (n : Int) : W32 × FFlags :=
  let r := fp32.round md false (decide (n < 0)) n.natAbs 0
  (BitVec.ofNat 32 r.bits, if r.inexact then flNX else 0)

/-- rne(a + b, FP32) with no flags, FMODE ignored (R204, R304, R326). -/
def fpAddRne (a b : W32) : W32 := (deliver .rne false (fpAdd .rne (fpIn false a) (fpIn false b)).1).1

/-- FMIN or FMAX with no flags (R204, R326). -/
def fpMinMaxBits (mx : Bool) (a b : W32) : W32 := (deliver .rne false (fpMinMax mx (fpIn false a) (fpIn false b)).1).1

/-- The floating-point trap cause of a raised and enabled set, in R151's priority. -/
def fpCause (en : FFlags) : Nat :=
  if en.getLsbD 4 then 0x0C else if en.getLsbD 3 then 0x0D else if en.getLsbD 2 then 0x0E
  else if en.getLsbD 1 then 0x0F else 0x10

end Machine
end Sys2Proof
end

