-- ==== Sys2Proof/Config.lean ====
section
/-! DEFINITION. What an implementation fixes and the free values: values the spec leaves open are opaque constants applied to
a counter of the state or to the operands they depend on, so that nothing can be proved of them (log entry 1). -/

namespace Sys2Proof

/-- A firmware image (R475): what the module left the factory with, whose bytes the spec does not give, or a recovery image that the host
supplied. -/
inductive FlashImage
  | factory
  | recovery (bytes : List Byte)
deriving DecidableEq, Repr, Inhabited

namespace Config

/-- A choice among n alternatives the spec leaves open, by the counter `State.tick` (log entry 1). -/
opaque freeChoice : Nat → Nat

/-- A 64-bit value the spec leaves open, by the counter `State.tick` (log entry 1). -/
opaque freeWord : Nat → Word

/-- A 64-bit value the spec leaves open, by the counter and a position (log entry 1). -/
opaque freeWordAt : Nat → Nat → Word

/-- A byte the spec leaves open, by the counter and the byte's position (log entry 1). -/
opaque freeByte : Nat → Nat → Byte

/-- The home LLC slice of a 256-byte line, by ASID and line address (R16; log entry 4). -/
opaque homeSlice : Nat → Nat → Nat

/-- The module's serial number (R459, Table 18.12). -/
opaque serial : Word

/-- The release number, within line 1.x, of a firmware image (R459). -/
opaque fwMin : FlashImage → Byte

/-- What the boot ROM finds of an image, modulo 4: 0 both signatures verify, else BOOTSTAT.REASON (R475, Table 19.2). -/
opaque imageCheck : FlashImage → Nat

/-- Bytes that the ROM takes for a recovery image from physical address 0 on (R475). -/
opaque imageSize : Nat

/-- Byte k of the SHA-384 measurement of an image (R475, R476). -/
opaque measurement : FlashImage → Nat → Byte

/-- Byte k of the Ed25519 and of the ML-DSA-65 signature of bytes under the module's identity keys; the second may differ from one signing
to the next, by the counter (R476). -/
opaque ed25519 : List Byte → Nat → Byte
opaque mlDsa : List Byte → Nat → Nat → Byte

/-- Page frames that firmware gives the KV pool at boot (Table 15.3). -/
opaque kvFrames : Nat

/-- The order of the records of the capability list, by the number of records left, and the words left free after each capability's
record (R458). -/
opaque capPick : Nat → Nat
opaque capGap : Nat → Nat

/-- Byte k of a record of a context area in which the spec names what is held and not its form (R456; log entry 37). -/
opaque recordByte {α : Type} : α → Nat → Byte

/-- What a byte of memory that nothing has written reads as (log entry 2). -/
def unlistedByte : Byte := 0

end Config
end Sys2Proof
end

