-- ==== Sys2Proof/Machine/State.lean ====
section
/-! DEFINITION. The state of the PL9600 module as plain data, and the machine right after reset. Units that exist once per
grid, cluster, team, group or thread are lists in order of creation; an entry keeps its place in its list for ever, and the
indexes that link entries are those places. -/

namespace Sys2Proof
namespace Machine

/-- A memory: bytes at addresses, strictly rising, none equal to `Config.unlistedByte`. -/
abbrev Memory := List Host.Cell

/-- The spaces an access reaches (Table 9.1). -/
inductive Space
  | glob | core | cluster | chip
deriving DecidableEq, Repr, Inhabited

/-- A memory with the poison bit of each aligned 32-byte unit (R143), by unit number. -/
structure Mem where
  bytes : Memory
  pz : List (Nat × Bool)
deriving DecidableEq, Repr, Inhabited

/-! ## Lanes -/

/-- One 4-bit slice and its poison mark (R64, R72). -/
structure Slice where
  v : BitVec 4
  poison : Bool
deriving DecidableEq, Repr, Inhabited

/-- A pending write of physical slices (R69, R70): its values once known, and whether it lands at a latency
(SLICE_WRITE_COMPLETE) or when data returns. -/
structure Pend where
  id : Nat
  slices : List Nat
  vals : List Slice
  known : Bool
deriving DecidableEq, Repr, Inhabited

/-- A loop counter (Table 3.5). -/
structure LoopCtr where
  step : BitVec 7
  count : W32
deriving DecidableEq, Repr, Inhabited

/-- An index register (Table 3.9). -/
structure IndexReg where
  idx : BitVec 16
  ew : BitVec 3
  lim : BitVec 11
  base : BitVec 10
deriving DecidableEq, Repr, Inhabited

/-- Why a thread is not ready (R169). -/
inductive Wait
  /-- it may issue -/
  | none
  /-- a YIELD delay, with the issue that began it (R193) -/
  | yield (iss : Nat)
  /-- at JWAIT on Jn (R189) -/
  | jwait (n : Nat)
  /-- arrived at a class F word, with the operand values it read and the slices its result goes to (R70, R197, R198) -/
  | cross (i : Instr) (vals : List Word) (ps : List Nat)
  /-- at FENCE, until the accesses in the covered spaces are performed (R262) -/
  | fence (sc : BitVec 3)
  /-- at BART (false) or BARC (true): the barrier, the count of count mode, and whether the arrival is counted (R244) -/
  | barrier (cluster : Bool) (n : Nat) (cnt : Option Nat) (counted : Bool)
  /-- at a phase instruction until the thread's gap ends; then it may arrive again, and wait again (R263) -/
  | phase (arrive again : Bool)
  /-- at WAITV or TJOIN, until its strong access is satisfied (R327, R336) -/
  | strong (id : Nat)
  /-- until an engine operation has its range-lock entries (R253) -/
  | lock (op : Nat)
  /-- until an engine operation completes: DRAIN.W (R317) -/
  | op (op : Nat)
  /-- at PBWAIT: predicate bit, object's offset, level (R285) -/
  | pbwait (q : PredBit) (off n : Nat)
  /-- at ATTNWAIT: predicate bit, descriptor's offset (R385) -/
  | attn (q : PredBit) (off : Nat)
  /-- at ACQ, until the tile's earlier passes have written it (R312) -/
  | acq (unit tile : Nat)
  /-- at WDEREG, until the window entry is free (R340); `pend` is the write of its status -/
  | wdereg (idx pend : Nat)
  /-- at WWAIT.W: window entry, threshold (R349) -/
  | arrivals (idx : Nat) (n : W32) (pend : Nat)
  /-- at WWAIT.SND: send counter, threshold (R349) -/
  | sends (c : Nat) (n : W32) (pend : Nat)
  /-- at RWAIT: header offset, threshold (R353) -/
  | ring (off : Nat) (n : W32) (pend : Nat)
  /-- a read made at issue takes a translation fault: until its fault-buffer entry is resolved
  (R222); the address missed -/
  | xlate (entry va : Nat)
  /-- at HCALL, until its answer (R465) -/
  | hcall (id : Nat)
  /-- deferred under R444 -/
  | deferred
  /-- its grid is ending (R447) -/
  | fatal
deriving DecidableEq, Repr, Inhabited

/-- A class E word that takes effect when its chain's waiting word is done (R184): the word, its issue, its address, the address
after its chain, TPC and TNPC of the chain, and the word itself. -/
structure Later where
  i : Instr
  iss : Nat
  wordAddr : Word
  nextPc : Word
  runPc : Word
  skipPc : Word
  word : Word
deriving DecidableEq, Repr, Inhabited

/-- One thread (R22): every register of Tables 3.4–3.11, 6.2, 16.5–16.7, 18.4 and its place. -/
structure Thread where
  grp : Nat
  lane : Nat
  exited : Bool
  pc : Word
  slices : List Slice
  pend : List Pend
  /-- bypass latches B0–B7 with their recorded widths (R39) -/
  latches : List (Word × Width)
  lvl : BitVec 3
  fb : BitVec 10
  lc : List LoopCtr
  ls : List Word
  x : List IndexReg
  stb : Word
  stp : Word
  stl : Word
  spr : BitVec 4
  tspr : BitVec 4
  fflags : BitVec 5
  tpc : Word
  tnpc : Word
  dtag : Word
  sqpc : Word
  sqinfo : Word
  /-- the pending squash event, in SQINFO's layout, and the ENTRY of its registration (R403) -/
  ev : Option (Word × Word)
  /-- wait age (R170) -/
  age : Nat
  /-- boundaries passed (R246), and boundaries arrived at (R263): a gap is open while it has arrived at one more -/
  passed : Nat
  arrived : Nat
  wait : Wait
  /-- address of the chain waited at (Table 18.9), the address after it, and the waiting word -/
  waitAt : Word
  waitNext : Word
  waitWord : Word
  /-- the issue of that chain: decisions of waits that end at once are taken in its order (R445) -/
  waitIss : Nat
  /-- TPC if the wait ends in a fault (R442) -/
  waitRun : Word
  /-- an arrival of the same chain at a class F word, with its address, beside another wait (R198) -/
  held : Option (Wait × Word)
  /-- the class E word of a chain whose memory word waits (R184) -/
  later : Option Later
  /-- the delay of a branch, a release or a trap entry that has not run out: its issue, and its clocks (R169, R177, R442) -/
  delay : Option (Nat × Nat)
deriving DecidableEq, Repr, Inhabited

/-! ## Groups -/

/-- An affine register in one domain (R113): demoted holds β and the lanes' offsets. -/
inductive AffReg
  | promoted (β : Word) (σ : BitVec 32)
  | demoted (β : Word) (off : List (BitVec 32))
deriving DecidableEq, Repr, Inhabited

/-- One group (R22, R175, Table 18.2). -/
structure Group where
  team : Nat
  gi : Nat
  /-- group width W -/
  w : Nat
  /-- its slot of the partition, the even one for 64 lanes (R19) -/
  slot : Nat
  /-- the thread of lane 0; lane l is thread t0 + l -/
  t0 : Nat
  /-- member sets M[0]–M[11] (R175) -/
  m : List Word
  /-- arrival sets A[0]–A[11] (R175) -/
  a : List Word
  /-- affine registers A0–A15, one list per domain (R112) -/
  aff : List (List AffReg)
  tset : Word
  tcause : BitVec 8
  tinst : Word
  tinfo : Word
  fmode : BitVec 11
  audctl : Word
  audcnt : Word
deriving DecidableEq, Repr, Inhabited

/-- A barrier's current episode (R244, R264): the count of count mode if its first arrival fixed one, and the arrivals. -/
structure Bar where
  started : Bool
  count : Option Nat
  arrived : List Nat
deriving DecidableEq, Repr, Inhabited

/-- One cluster (R22). -/
structure Cluster where
  grid : Nat
  ci : Nat
  /-- the cluster's first team, and how many -/
  t0 : Nat
  nt : Nat
  /-- has a swap decision been made (R452), and is it swapped out (R454)? -/
  swapping : Bool
  out : Bool
  /-- cluster memory (R209) -/
  cmem : Mem
  /-- barriers 0–3 (R264) -/
  bars : List Bar
deriving DecidableEq, Repr, Inhabited

/-! ## Launches -/

/-- A format slot (Table 5.10). -/
structure FmtSlot where
  elem : BitVec 8
  logblk : BitVec 8
  scale : BitVec 8
  rnd : BitVec 2
  sat : Bool
  planes : BitVec 8
deriving DecidableEq, Repr, Inhabited

/-- A launch record's fields (Table 17.1). -/
structure LaunchRec where
  slots : List FmtSlot
  audctl : Word
  vec : BitVec 6
  irq : Bool
  asid : BitVec 12
  args : Word
  crec : Word
  deps : Word
  nbar : W32
  stashb : W32
  stash : Word
  aback : BitVec 5
  cmem : W32
  scr : W32
  g : BitVec 16
  l : BitVec 16
  mxu : Bool
  hold : Bool
  prio : BitVec 2
  wcode : BitVec 2
  ngrp : BitVec 6
  h : BitVec 4
  w : BitVec 4
  tpc : BitVec 8
  ncl : BitVec 16
  trapv : Word
  entry : Word
deriving DecidableEq, Repr, Inhabited

/-- The first grid-fatal trap of a grid (R447). -/
structure FatalTrap where
  cause : Nat
  tpc : Word
  tinfo : Word
  team : Nat
  /-- the faulting thread whose address TINFO holds (R225) -/
  thread : Nat
deriving DecidableEq, Repr, Inhabited

/-- One grid: a submitted launch (R22, R417). -/
structure Grid where
  lr : LaunchRec
  handle : W32
  fatal : Option FatalTrap
  /-- it has ended (R423) -/
  ended : Bool
  /-- boundaries completed (R247) -/
  phase : Nat
  /-- ORDDBG.RACE and ORDDBG.MIX in force (R258) -/
  race : Bool
  mix : Bool
  /-- its entry of the launch table (R434), and the host queue that submitted it, 255 for a LAUNCH word (Table 19.5) -/
  entry : Nat
  queue : Nat
  /-- the Table 17.2 reason of a failed launch; 0: none -/
  reason : Nat
  /-- held until LDEP.GO; ready; suspended (R422, R424) -/
  held : Bool
  ready : Bool
  susp : Bool
  /-- dependences: counter address, threshold, and whether it has been met (R422) -/
  deps : List (Nat × Nat × Bool)
  /-- dependences, by place, whose counter's read waits on a fault-buffer entry, or was refused by a full buffer -/
  depWait : List (Nat × Option Nat)
  /-- effective priority (R429) -/
  eff : Nat
  /-- clusters started -/
  nextCl : Nat
  /-- its next cluster's reservation, and whether it has passed PLACEEVICT (R427) -/
  resv : Option (Nat × Nat)
  evict : Bool
  /-- the OUTCOME it ends with before its teams end (R423, R424, R447) -/
  stop : Option Nat
  /-- a fault-buffer entry that its completion record waits for -/
  wait : Option Nat
deriving DecidableEq, Repr, Inhabited

/-! ## Accesses and the memory system -/

/-- A plane tensor record (Table 5.9). -/
structure PlaneRec where
  exp : Nat
  sign : Nat
  mant : Nat
  stride : Nat
  stripes : Nat
  p : Nat
  dem : Bool
deriving DecidableEq, Repr, Inhabited

/-- A load whose value is computed from the bytes read. -/
inductive Calc
  /-- PLD (R272): element, planes, output format, rounding and saturation -/
  | plane (r : PlaneRec) (elem n : Nat) (out : POut) (rnd : BitVec 2) (sat : Bool)
  /-- PRFN (R273): element, planes, the value and the tag held -/
  | refine (r : PlaneRec) (elem n : Nat) (x : W32) (t : Nat)
  /-- bytes of a plane view (R228): precision, offset, length -/
  | view (r : PlaneRec) (h o n : Nat)
  /-- bytes of an MX view (R228): source, scales, element format, offset, length -/
  | mxview (src aux : Nat) (ep o n : Nat)
deriving DecidableEq, Repr, Inhabited

/-- What an access does at its point of performance (R238, R320). -/
inductive AccOp
  | load
  | calc (c : Calc)
  | store (data : List Byte) (pz : Bool)
  | atom (op : AtomOp) (v : Word)
  | atomf (op : AtomFOp) (v : Word)
  | cas (cmp v : Word)
  | waitv (c : WCond) (v : Word)
  /-- RSEND to a ring (R353): slot size, the sending team's index, and per message its thread, bytes and status write -/
  | ring (size prod : Nat) (msgs : List (Nat × List Byte × Nat))
deriving DecidableEq, Repr, Inhabited

/-- Where an access stands: waiting to be performed, attached to a fault-buffer entry, refused by a full buffer (R222),
watched by the engine (R327), or performed with the bytes read and their poison. -/
inductive AccSt
  | ready | faulted (e : Nat) | refused | watch | done (bytes : List Byte) (pz : Bool)
deriving DecidableEq, Repr, Inhabited

/-- One access of a thread, in a list in order of issue. -/
structure Acc where
  id : Nat
  thread : Nat
  /-- lanes of the group whose later accesses it precedes (R234) -/
  lanes : Word
  /-- the issue that made it (R212) -/
  iss : Nat
  space : Space
  /-- the ASID, team or cluster whose space it is -/
  owner : Nat
  addr : Nat
  len : Nat
  op : AccOp
  /-- its phase, and whether it was issued in a gap (R246) -/
  phase : Nat
  gap : Bool
  /-- the pending write it serves, the position of its bytes in the value, and the value's length in bytes -/
  pend : Option Nat
  pos : Nat
  total : Nat
  /-- the chain and the word, for an imprecise fault (R225) -/
  chain : Word
  word : Word
  /-- it goes through an aperture window, and so not through L1 (R227) -/
  win : Bool
  st : AccSt
  /-- a restart record of a team being swapped out (R455) -/
  parked : Bool
deriving DecidableEq, Repr, Inhabited

/-- A range-lock entry of a core (R253): its index, the engine operation holding it, and its range. -/
structure Lock where
  core : Nat
  idx : Nat
  op : Nat
  dst : Bool
  space : Space
  owner : Nat
  base : Nat
  len : Nat
deriving DecidableEq, Repr, Inhabited

/-- One access to global memory in an open phase (R248, R259): the grids whose present phase it lies in, who made it, what it
touched, and for a store the bytes and the poison bits of their units before and after it. Cores in `cut` have dropped the
line since (R237, R320). `det` lists the 4-byte words that the detector of its home slice recorded (R259). A strong access to the
chip scratchpad is recorded at 2^60 + its chip address, one to another memory of a core as `recKey` says. -/
structure AccRec where
  opens : List Nat
  grid : Option Nat
  core : Nat
  thread : Option Nat
  strong : Bool
  store : Bool
  det : List Nat
  home : Nat
  pa : Nat
  len : Nat
  old : List Byte
  new : List Byte
  oldPz : List Bool
  newPz : List Bool
  /-- the data stored was poisoned (R143); the bytes are those that a mixed-size overlap left undefined (R252) -/
  bad : Bool
  mud : Bool
  cut : List Nat
deriving DecidableEq, Repr, Inhabited

/-! ## Engine operations and matrix units -/

/-- A plane copy (R277–R280): tile in core or chip scratchpad, record, stripes, planes f … n, barrier object; the P_blk of
each block once its exponent words are read, the next region, and how many of its bytes have been delivered (R279). -/
structure CopyOp where
  chip : Bool
  tile : Nat
  r : PlaneRec
  t0 : Nat
  cnt : Nat
  f : Nat
  n : Nat
  bar : Nat
  words : Option (List Nat)
  reg : Nat
  done : Nat
deriving DecidableEq, Repr, Inhabited

/-- A WBLOAD (R310): unit, entry, chunks, slot, source. -/
structure WbOp where
  unit : Nat
  entry : Nat
  cnt : Nat
  slot : FmtSlot
  core : Bool
  src : Nat
  c0 : Nat
  r : PlaneRec
deriving DecidableEq, Repr, Inhabited

/-- A DRAIN (R315–R317) with its snapshot of the tile. -/
structure DrainOp where
  grp : Nat
  mode : DMode
  space : DSpace
  addr : Nat
  stride : Nat
  snap : List W32
deriving DecidableEq, Repr, Inhabited

/-- A PUT, PUTM or GET (R343): local range, list or remote operand, destinations, counter; whether its source and list have
been read, and the arrivals not yet counted. -/
structure XferOp where
  get : Bool
  core : Bool
  addr : Nat
  len : Nat
  list : Option Nat
  cnt : Nat
  ctr : Nat
  sent : Bool
  left : Nat
deriving DecidableEq, Repr, Inhabited

/-- A plane block as an attention operation sees it: its address parts, exponent word, signs, planes, and the poison of its
exponent word, signs and planes. -/
structure SnapBlk where
  page : Nat
  row : Nat
  blk : Nat
  word : Nat
  sign : Nat
  planes : List Nat
  pz : List Bool
deriving DecidableEq, Repr, Inhabited

/-- An ATTN (R379): descriptor and output offsets, the descriptor's fields, the query, its sequence, head and tokens, and once
accepted its pages (one per block of positions) and the eight blocks of each token. -/
structure AttnOp where
  desc : Nat
  out : Nat
  key : Word
  n : Nat
  mode : Nat
  kh : Nat
  thr : W32
  scale : W32
  q : List W32
  pend : Nat
  pages : List Nat
  toks : List (List SnapBlk)
  accepted : Bool
deriving DecidableEq, Repr, Inhabited

/-- What an engine operation does. -/
inductive OpKind
  | attn (a : AttnOp)
  | xfer (x : XferOp)
  | copy (c : CopyOp)
  | pdrop (r : PlaneRec) (t0 cnt h : Nat) (got : Option (List (Nat × List Byte)))
  | wbload (w : WbOp)
  | drain (d : DrainOp)
  /-- the range-lock entry of a GRMASK request (R407) -/
  | mask (req : Nat)
deriving DecidableEq, Repr, Inhabited

/-- Where an engine operation stands: waiting for its range-lock entries (R253), under way, or stalled on a fault-buffer
entry (R281) or refused one. -/
inductive OpSt
  | locking | run | faulted (e : Nat) | refused
deriving DecidableEq, Repr, Inhabited

/-- An engine operation: who issued it, the ranges it locks (destination, space, owner, base, length), and whether it has
one of the core's two plane-copy engines. -/
structure EngOp where
  id : Nat
  /-- the thread it acts for, and the lanes that issued it -/
  thread : Nat
  lanes : Word
  team : Nat
  core : Nat
  asid : Nat
  grid : Nat
  phase : Nat
  gap : Bool
  chain : Word
  /-- the draft tag it carries (R400) -/
  tag : Word
  want : List (Bool × Space × Nat × Nat × Nat)
  engine : Bool
  /-- it was found to stall for its entries (R253); its first step is taken; held as a restart record (R455); cancelled while held as
  one (R413) -/
  stalled : Bool
  first : Bool
  parked : Bool
  can : Bool
  st : OpSt
  kind : OpKind
deriving DecidableEq, Repr, Inhabited

/-- An accepted pass (R305): its tile and, for each row, the exact sums S of the sixteen columns (R302, R303). -/
structure Pass where
  tile : Nat
  rows : List (Nat × List Fp)
deriving DecidableEq, Repr, Inhabited

/-- An accumulator tile: the group holding its token, or the unit, and its 32 × 16 words (R294, R297). -/
structure Tile where
  owner : Option Nat
  words : List W32
deriving DecidableEq, Repr, Inhabited

/-- A weight-buffer entry (R301, R310): the operation loading it, or its slot, chunk count, contents and poison. -/
structure WbEnt where
  valid : Bool
  loading : Option Nat
  /-- a WBDROP waits for the load to complete (R311) -/
  drop : Bool
  poison : Option Word
  slot : FmtSlot
  cnt : Nat
  /-- the values b(c, i, j), by chunk, row and column -/
  vals : List Fp
deriving DecidableEq, Repr, Inhabited

/-- A partition's matrix unit (R294). -/
structure Mxu where
  claim : Option Nat
  tiles : List Tile
  wb : List WbEnt
  passes : List Pass
deriving DecidableEq, Repr, Inhabited

/-- One team (R22). -/
structure Team where
  cluster : Nat
  ti : Nat
  core : Nat
  /-- the team's first group, and how many -/
  g0 : Nat
  ng : Nat
  /-- core scratchpad and its line tags by line (R209, R276) -/
  scratch : Mem
  tags : List (Nat × BitVec 4)
  /-- barriers 0–15 (R264) -/
  bars : List Bar
  /-- SNDC0–SNDC15 (R341) -/
  sndc : List Word
  /-- phase boundaries the team has arrived at (R247) -/
  arrived : Nat
  /-- every thread has exited and the team's claims and windows have been given up (R192, R295, R338) -/
  ended : Bool
  /-- matrix state saved while swapped out, by partition (R318) -/
  saved : List (Nat × Mxu)
deriving DecidableEq, Repr, Inhabited

/-- The state of a window entry (R338). -/
inductive WinSt
  | free | opened | closed | draining
deriving DecidableEq, Repr, Inhabited

/-- A window table entry (Table 14.2) with its owning team. -/
structure Win where
  arrived : W32
  base : Nat
  st : WinSt
  space : Space
  w : Bool
  r : Bool
  sz : Nat
  gen : Nat
  team : Nat
deriving DecidableEq, Repr, Inhabited

/-- Where an arrival stands: not sent; with bytes that a port has still to send (R477); on its way; accepted; landing, with its lock; its data performed; refused with a status
(R345); or stalled on a fault-buffer entry or refused one. -/
inductive ArrSt
  | held | queued | sent | accepted | landing | done | refusal (st : Nat) | faulted (e : Nat) | refused
deriving DecidableEq, Repr, Inhabited

/-- One destination of a transfer (R342, R345): the operation it belongs to, or none for another accelerator's; its handle and
offset; the bytes that have come, or are still to be sent, with their poisoned parts (offset, length); whether blocks are still to come; and
whether its sender has been cancelled, so that an answer comes late (R347). -/
structure Arrival where
  id : Nat
  op : Option Nat
  handle : W32
  off : Nat
  get : Bool
  len : Nat
  bytes : List Byte
  pz : List (Nat × Nat)
  more : Bool
  late : Bool
  st : ArrSt
deriving DecidableEq, Repr, Inhabited

/-- A UALink port (R358, R360, R477): trained; send epoch and key; next SEQ; receive epochs with key and last accepted SEQ. -/
structure Port where
  trained : Bool
  send : Option (Nat × Nat)
  seq : Nat
  recv : List (Nat × Nat × Option Nat)
deriving DecidableEq, Repr, Inhabited

/-- A block sent on a UALink port (Table 14.14): its header, the encrypted payload and the tag (R359, R360). -/
structure LinkBlock where
  port : Nat
  header : Word
  cipher : List Byte
  tag : List Byte
deriving DecidableEq, Repr, Inhabited

/-- An LLC line: its recorded address and permissions, and the valid bits, dirty bits and write masks of its four sectors (R213). -/
structure Line where
  asid : Nat
  la : Nat
  pa : Nat
  r : Bool
  w : Bool
  x : Bool
  valid : BitVec 4
  dirty : BitVec 4
  mask : BitVec 64
deriving DecidableEq, Repr, Inhabited

/-- A line of a core's L1, most recently filled first in its list: its address and the permissions it copied (R213). -/
structure L1Line where
  core : Nat
  asid : Nat
  la : Nat
  r : Bool
  w : Bool
deriving DecidableEq, Repr, Inhabited

/-- A translation entry that the controllers cache (R220). -/
structure Pte where
  asid : Nat
  ea : Nat
  val : Nat
deriving DecidableEq, Repr, Inhabited

/-- A page of virtual addresses at which an access has found a physical page of 64 KiB, and whether writably (R215). -/
structure Mapping where
  asid : Nat
  vpage : Nat
  ppage : Nat
  w : Bool
deriving DecidableEq, Repr, Inhabited

/-- A request that may wait on a fault-buffer entry (R222): an access, an engine operation, an arrival or a queued request by its
identifier, a thread that stalls at its word, a fetch, a host queue's record, a launch's completion record, or a counter of a launch. -/
inductive Waiter
  | acc (id : Nat)
  | op (id : Nat)
  | arr (id : Nat)
  | req (id : Nat)
  | thread (t : Nat)
  | fetch (core asid line : Nat)
  | queue (q : Nat)
  | launch (g : Nat)
  | counter (g k : Nat)
deriving DecidableEq, Repr, Inhabited

/-- The number under which a request waits whose entry has been resolved, until it replays (R223): no entry has it. -/
def replayNo : Nat := 4096

/-- A fault-buffer entry in use (Table 9.6), with the requests attached in the order in which they arrived (R223). -/
structure FbEntry where
  core : Nat
  asid : Nat
  kind : Nat
  page : Nat
  waiters : Nat
  order : List Waiter
deriving DecidableEq, Repr, Inhabited

/-- An instruction-cache line of a core (R217), most recently used first in its list. -/
structure ILine where
  core : Nat
  asid : Nat
  line : Nat
  x : Bool
  bytes : List Byte
deriving DecidableEq, Repr, Inhabited

/-- A fetch that takes a translation fault (R217): the fault-buffer entry it waits on, or none when the buffer refused it. -/
structure IReq where
  core : Nat
  asid : Nat
  line : Nat
  entry : Option Nat
deriving DecidableEq, Repr, Inhabited

/-- A deque entry (R328): its core, its grid, its words, and for an entry that its FORK has not pushed yet the FORK's issue and the
counter access that must come first (R334). -/
structure DqEntry where
  core : Nat
  grid : Nat
  w0 : Word
  w1 : Word
  w2 : Word
  need : Option (Nat × Nat)
deriving DecidableEq, Repr, Inhabited

/-- An event entry (Table 19.4). -/
structure EvEntry where
  time : Word
  data : Word
  handle : W32
  asid : Nat
  core : Nat
  kind : Nat
deriving DecidableEq, Repr, Inhabited

/-- Poisoned data that an instruction met: its issue, a thread of it, and the lowest address so far (R143). -/
structure PzMet where
  iss : Nat
  thread : Nat
  info : Word
deriving DecidableEq, Repr, Inhabited

/-- A request to the sequence table (R369) or the scheduler (R434–R436), with its operands as read at issue. -/
inductive ReqKind
  | kvmap (key : Word)
  | kvalloc (a : W32) (rsv : Bool)
  | kvfree (a : W32)
  | kvfork (a n : W32)
  | kvapp (key : Word) (src : List Byte)
  | kvcommit (a n : W32)
  | kvtrim (a n : W32)
  | grinit (a img : Word)
  /-- GRMASK: SEQ, the mask's offset, the engine operation that holds its range (R407) -/
  | grmask (seq : W32) (off op : Nat)
  /-- GRADV: its operand, the predicate bit, its slice as read at issue, and the pending write of the slice (R408) -/
  | gradv (a : Word) (q : PredBit) (old : BitVec 4) (pend : Nat)
  | grckptSave (seq : W32) (c : Nat)
  | grckptRel (seq : W32) (c : Nat)
  | grckptRelall (seq : W32)
  | grroll (seq : W32) (c : Nat)
  | grfork (a : W32)
  | grstat (seq : W32) (ck : Bool)
  | squash (a n : W32)
  | sqsetEntry (tag a : Word)
  | sqsetUnreg (tag : Word)
  | seqadm (a : Word)
  | seqret (seq : W32)
  | seqinfo (a : W32) (q : SeqQuery)
  /-- LAUNCH: the record's bytes and the issuing launch's priority (R434) -/
  | launch (bs : List Byte) (prio : Nat)
  /-- LDEP.ADD: the handle, and the entry's counter and threshold words (R435) -/
  | ldepAdd (h : W32) (ctr thr : Nat)
  | ldepGo (h : W32)
  | lquery (h : W32)
deriving DecidableEq, Repr, Inhabited

/-- A queued request: its thread, partition, grid and phase, the chain it is in, and the pending write of its status; for a
class N request, whether it has a walker (R26); and whether it is stalled on a fault-buffer entry or refused one. -/
structure SeqReq where
  id : Nat
  chain : Word
  walker : Bool
  entry : Option Nat
  refused : Bool
  thread : Nat
  part : Nat
  grid : Nat
  asid : Nat
  pend : Nat
  phase : Nat
  gap : Bool
  tag : Word
  /-- its place in the order in which requests reach the walkers and the sequence table (R26, R369) -/
  ord : Nat
  /-- its performance has begun and met an address that it waits for (R394, R412) -/
  begun : Bool
  kind : ReqKind
deriving DecidableEq, Repr, Inhabited

/-- A strike-queue entry (Table 15.10), with its number: `due` says that DL has reached 0, `gone` that its target no longer exists
(R389). -/
structure Strike where
  entry : Nat
  dl : Nat
  seq : Nat
  page : Nat
  h : Nat
  action : Nat
  st : Nat
  due : Bool
  gone : Bool
deriving DecidableEq, Repr, Inhabited

/-- An offloaded page: its number, its slot of the backing area, and where in host memory the slot lay then (R390, R474). -/
structure OffPage where
  page : Nat
  slot : Nat
  addr : Nat
deriving DecidableEq, Repr, Inhabited

/-- A point of a grammar context: STATE, stack pointer, DEPTH and LEN (R392). -/
structure GPoint where
  state : Nat
  top : Option Nat
  depth : Nat
  len : Nat
deriving DecidableEq, Repr, Inhabited

/-- A grammar context: IMG, its current point and checkpoints 0–31 (R392). -/
structure Gctx where
  img : Word
  cur : GPoint
  cks : List (Option GPoint)
deriving DecidableEq, Repr, Inhabited

/-- A stack node in use: its symbol and its parent (R393). Its reference count is the number of pointers to it in the state. -/
structure GNode where
  sym : Nat
  parent : Option Nat
deriving DecidableEq, Repr, Inhabited

/-- A sequence context (R364): its geometry, lengths and page references by stream and block. -/
structure Seq where
  asid : Nat
  nl : Nat
  np : Nat
  pkv : Nat
  lc : Nat
  wm : List Nat
  spare : Nat
  evicted : Bool
  /-- the nodes of its path, as (node, start) (R366) -/
  path : List (Nat × Nat)
  pages : List (List (Option Nat))
  /-- grammar context (R392) and drafter registration: thread and ENTRY (R401) -/
  g : Option Gctx
  drafter : Option (Nat × Word)
deriving DecidableEq, Repr, Inhabited

/-! ## The issue in progress -/

/-- A fault a word raised for a lane: the step of Table 2.2 that found it, the cause, TINFO, the reporting word, and whether the poisoned
data it tells of was logged when it was met (R310). -/
structure LaneFault where
  stage : Nat
  lane : Nat
  cause : Nat
  info : Word
  word : Word
  logged : Bool := false
deriving DecidableEq, Repr, Inhabited

/-- An HCALL whose answer is awaited (R465): its thread, service, argument and the write of its destination. -/
structure HCall where
  id : Nat
  thread : Nat
  svc : Nat
  arg : Word
  pend : Nat
deriving DecidableEq, Repr, Inhabited

/-! ## The host's registers and the firmware -/

/-- A host queue (Table 17.3); a record once read is kept with its ASID until it is taken (R418, R419), and the read of its dependence
list may wait on a fault-buffer entry. -/
structure HostQ where
  base : Nat
  en : Bool
  err : Bool
  asid : Nat
  logn : Nat
  head : W32
  last : W32
  tail : W32
  record : Option (List Byte × Nat)
  wait : Option Nat
deriving DecidableEq, Repr, Inhabited

/-- An entry of the launch table: its generation and the grid that holds it (R434). -/
structure LEnt where
  gen : Nat
  grid : Option Nat
deriving DecidableEq, Repr, Inhabited

/-- An XLCMD command in progress (R472): its operation, fields and argument. -/
structure XlCmd where
  op : Nat
  asid : Nat
  count : Nat
  entry : Nat
  arg : Nat
deriving DecidableEq, Repr, Inhabited

/-- A saved context of a grid-fatal trap or of a swapped-out team (R447, R454, R456): its launch, its physical address and length, and the bytes of the area
whose layout is stated, by offset. -/
structure Ctx where
  handle : W32
  addr : Nat
  len : Nat
  /-- the model's own: the counter that the bytes of no stated form are drawn with -/
  seed : Nat
  parts : List (Nat × List Byte)
deriving DecidableEq, Repr, Inhabited

/-- The host's registers of Table 19.2 that are not held elsewhere. -/
structure Regs where
  srErr : Bool
  srAsid : Nat
  srNum : Nat
  bar2 : Nat
  /-- the size of BAR2 (R470) -/
  bar2Size : Nat
  kvbAddr : Nat
  kvbCnt : Nat
  cspCur : Nat
  cspNext : Nat
  xlCmd : Option XlCmd
  xlErr : Bool
  xlArg : Word
  bootState : Nat
  bootReason : Nat
  /-- the report buffer of a report being written (R476) -/
  att : Option Nat
  keyData : List Word
  pwrLim : Nat
  /-- core clock of each die, in units of 100 MHz, and whether it is throttled (R478) -/
  clk : List Nat
  hot : List Bool
  /-- TEMP of each die, in °C (Table 19.2) -/
  temp : List Nat
  /-- every clock has stopped (R478) -/
  stopped : Bool
deriving DecidableEq, Repr, Inhabited

/-- A basted run that has issued a chain and not its last (R38): the partition, issue set, the run's first chain, how many
chains have issued, the next one, the slices each lane's issued chains read (R37), and the latches written (R40). -/
structure Run where
  core : Nat
  part : Nat
  grp : Nat
  lanes : List Nat
  first : Word
  k : Nat
  next : Word
  reads : List (Nat × List Nat)
  latched : List Nat
deriving DecidableEq, Repr, Inhabited

/-- The issue set and chain being executed (R34, R35): group and lanes; the chain's and the word's address; the address after
the chain; TPC and TNPC of a fault; the word; the latch this word writes; whether faults are only collected for the chain's
decision, and whether it is being completed for lanes without a fault; the faults and the lanes that do not issue. -/
structure Issue where
  /-- the issue's identifier (R212) -/
  iss : Nat
  grp : Nat
  lanes : List Nat
  pc : Word
  wordAddr : Word
  nextPc : Word
  runPc : Word
  skipPc : Word
  word : Word
  latch : Option Nat
  collect : Bool
  /-- the lanes are known to execute the whole chain -/
  sure : Bool
  /-- the lowest lane of the issue set, when `lanes` are only those that execute the chain -/
  lead : Option Nat
  /-- latches that earlier chains of the run have written (R40) -/
  latched : List Nat
  faults : List LaneFault
  /-- lanes that do not issue yet, with the address whose translation they miss, if that is why -/
  stalls : List (Nat × Option Nat)
deriving DecidableEq, Repr, Inhabited

/-- A chain with a class D word whose faults, if any, are decided when its result is ready (R442): the result's latency (Table 6.4) and
the chain's issue record, with the faults found. -/
structure Decision where
  lat : Nat
  issue : Issue
deriving DecidableEq, Repr, Inhabited

/-! ## The module -/

/-- The module's state. -/
structure State where
  threads : List Thread
  groups : List Group
  teams : List Team
  clusters : List Cluster
  grids : List Grid
  /-- the remap register of each die that has a failed LLC slice: the slice whose role its patch slice has taken (R15) -/
  remap : List (Nat × Option Nat)
  /-- HBM4 by physical address, and KV page p at its address in the KV range (R362) -/
  hbm : Mem
  /-- the chip scratchpad by chip address, and its line tags (R211, R276) -/
  chip : Mem
  chipTags : List (Nat × BitVec 4)
  /-- host memory, where firmware's KV backing area lies (R390, R474) -/
  host : Mem
  /-- issued accesses not yet performed, oldest first, and the range-lock tables -/
  accs : List Acc
  locks : List Lock
  recs : List AccRec
  /-- engine operations in order of issue, and the matrix units by core × 4 + partition -/
  ops : List EngOp
  mxus : List (Nat × Mxu)
  /-- LLC lines and L1 lines, cached translation entries, mappings that accesses have found and that are not invalidated since, root tables by ASID, the fault buffer by entry number, and the requests of resolved entries that are still to replay, in order -/
  lines : List Line
  l1 : List L1Line
  ptes : List Pte
  maps : List Mapping
  roots : List (Nat × Option Nat)
  fbuf : List (Nat × Option FbEntry)
  icache : List ILine
  ireqs : List IReq
  replays : List Waiter
  /-- the cores' deques, oldest entry first (R328) -/
  deques : List DqEntry
  /-- the window table, its entries never used, and those freed, longest ago first (R337) -/
  wins : List (Nat × Win)
  winNext : Nat
  winFreed : List Nat
  /-- arrivals (R345), the UALink ports, and ACCID (R337) -/
  arrs : List Arrival
  ports : List (Nat × Port)
  /-- the blocks of the latest transfer or answer sent to another accelerator -/
  wire : List LinkBlock
  /-- ring headers that messages have been appended to, by team and offset (R352) -/
  rings : List (Nat × Nat)
  accid : BitVec 9
  /-- privileged registers per ASID, by ASID × 1024 + number (Table 18.2) -/
  aregs : List (Nat × Word)
  /-- sequence contexts by number -/
  seqs : List (Nat × Option Seq)
  /-- stack nodes in use (R393); a child's number is above its parent's -/
  gnodes : List (Nat × Option GNode)
  /-- offloaded KV pages (R390), page frames of the pool (Table 15.3), queued requests, and the strike queue in order -/
  kvOff : List OffPage
  kvTotal : Nat
  reqs : List SeqReq
  strikes : List Strike
  /-- module registers by number (Table 18.2) -/
  mregs : List (Nat × Word)
  /-- event log by entry number mod 256, entries written, entries consumed, LOST, and raised interrupt vectors (R471, R473) -/
  evlog : List (Nat × EvEntry)
  elcnt : W32
  elack : W32
  ellost : Bool
  /-- the model's own: poisoned data met by instructions that are still under way, and the instructions whose entry is written -/
  pzMet : List PzMet
  pzLogged : List Nat
  vectors : Word
  /-- host queues by number; the launch table, its entries never used, and those freed, longest ago first (R434) -/
  hqs : List (Nat × HostQ)
  ltab : List (Nat × LEnt)
  lNext : Nat
  lFreed : List Nat
  /-- HCALLs awaiting answers, saved contexts (R473), the context areas of swapped-out teams by team (R454), and the host's
  registers -/
  hcalls : List HCall
  ctxs : List Ctx
  areas : List (Nat × Ctx)
  regs : Regs
  /-- the model's own: what the latest host read returned -/
  hostData : List Byte
  /-- the firmware image in the I/O die's flash, and the host's writes of BAR2's size that are still to come, by exponent (R470, R475) -/
  flash : FlashImage
  resizes : List Nat
  runs : List Run
  /-- when each slot last issued, by (core × 4 + partition) × 32 + slot (R430) -/
  slotLast : List (Nat × Nat)
  issue : Issue
  /-- decisions to come, in order of issue (R442, R445) -/
  decs : List Decision
  /-- the model's own: the counter of the free values, and the next identifier -/
  tick : Nat
  nextId : Nat
  inputs : List Instr
deriving DecidableEq, Repr, Inhabited

/-- The host's registers after module reset (Table 19.2). -/
def Regs.reset : Regs :=
  { srErr := false, srAsid := 0, srNum := 0, bar2 := 0, bar2Size := 2 ^ 30, kvbAddr := 0, kvbCnt := 0, cspCur := 0, cspNext := 0, xlCmd := none,
    xlErr := false, xlArg := 0, bootState := 0, bootReason := 0, att := none, keyData := List.replicate 4 0, pwrLim := 4500,
    clk := List.replicate 4 24, hot := List.replicate 4 false, temp := List.replicate 4 0, stopped := false }

/-- The module registers after module reset that are not 0: PLACEAGE and PLACEEVICT (Table 17.7), KVPOL (Table 15.4), SWAPWAIT
(Table 18.6). -/
def mregsReset : List (Nat × Word) :=
  [(0x202, 2000), (0x203, 20000), (0x303, BitVec.ofNat 64 (200 * 2 ^ 48 + 2 * 2 ^ 44)), (0x305, 50)]

/-- The module right after its first module reset (R468): nothing is resident, every register has its Reset value, and the boot
ROM is about to verify the firmware image (R475). -/
def State.reset : State :=
  { threads := [], groups := [], teams := [], clusters := [], grids := [], remap := [], hbm := default, chip := default, chipTags := [], host := default,
    accs := [], locks := [], recs := [], ops := [], mxus := [], lines := [], l1 := [], ptes := [], maps := [], roots := [], fbuf := [], icache := [],
    ireqs := [], replays := [], deques := [], wins := [], winNext := 0, winFreed := [], arrs := [], ports := [], wire := [], rings := [], accid := 0, aregs := [],
    seqs := [], gnodes := [], kvOff := [], kvTotal := 0, reqs := [], strikes := [], mregs := mregsReset, evlog := [], elcnt := 0,
    elack := 0, ellost := false, pzMet := [], pzLogged := [], vectors := 0, hqs := [], ltab := [], lNext := 0, lFreed := [], hcalls := [],
    ctxs := [], areas := [], regs := Regs.reset, hostData := [], flash := .factory, resizes := [], runs := [], slotLast := [], issue := default, decs := [], tick := 0, nextId := 0,
    inputs := [] }

/-- Why the machine stops. -/
inductive Fault
  /-- Raised by `step` when every clock of the module has stopped and no input waits: only a module reset recovers the module
  (R478). Safe. -/
  | stopped
deriving DecidableEq, Repr

/-- Why an instruction has no meaning. -/
inductive Refusal
  /-- Raised by an arm of `exec` for an instruction without a meaning in the model. Safe. -/
  | notModelled (mnemonic : String)
deriving DecidableEq, Repr

end Machine
end Sys2Proof
end

