-- ==== Sys2Proof/Machine/Uses.lean ====
section
/-! DEFINITION. What each instruction word does with its operands: which selectors and widths it allows (R45, R46, and each
class's field table), which slices, affine and index registers it reads and writes (R33, R69), and its pipe (Table 1.5).
The chain rules, the operand checks of Table 2.2 step 4 and the scoreboard all read this one table. -/

namespace Sys2Proof

/-- The eight widths (Table 2.5). -/
def Width.list : List Width := [.w4, .w8, .w12, .w16, .w24, .w32, .w48, .w64]

/-- Widths of a scan's value and destination (Table 8.1): 32 for the float operators. -/
def ScanOp.widths : ScanOp → List Width
  | .fadd | .fmin | .fmax => [.w32]
  | _ => Width.list

/-- Slices of an accumulator row operand (Table 12.4). -/
def Cols.slices : Cols → Nat
  | .all => 128
  | .lo | .hi => 64

/-- Which selectors an operand position allows. -/
inductive OpRule
  /-- any source of R45; X must be 0 on an affine register or a special -/
  | src
  /-- any source, X must be 0 -/
  | srcX0
  /-- any source but an affine register, X must be 0 (R107) -/
  | amount
  /-- a view slice or an indexed operand; X is the no-write-back bit -/
  | dst
  /-- a view slice or an indexed operand; X must be 0 (R46) -/
  | dstMem
  /-- a view slice or an indexed operand naming a range; X must be 0 -/
  | place
  /-- a view slice only; X must be 0 -/
  | vslice
  /-- a view slice, X 0, or zero -/
  | vsliceOrZero
  /-- an affine register, X 0 (R116) -/
  | aff
  /-- an address operand: slice, indexed, affine or zero (R50); X of a slice selects a space in class K (R319) -/
  | addr
  /-- an address operand of class L: slice, indexed or affine (R350); X selects the space -/
  | addrL
  /-- the same with X 0 -/
  | addrLX0
  /-- the index register that IXSET or IXSTEP names, X 0 -/
  | ix
deriving DecidableEq, Repr

/-- Whether a selector and X bit suit a rule (R45 and the class tables); latches are judged by the run (R40). -/
def OpRule.allows (r : OpRule) (o : Operand) : Bool :=
  match r, o.sel with
  | _, .reserved _ => false
  | .src, .slice _ | .src, .latch _ | .src, .index _ => true
  | .src, _ => !o.x
  | .srcX0, _ => !o.x
  | .amount, .affine _ => false
  | .amount, _ => !o.x
  | .dst, .slice _ | .dst, .index _ => true
  | .dst, _ => false
  | .dstMem, .slice _ | .dstMem, .index _ => !o.x
  | .dstMem, _ => false
  | .place, .slice _ | .place, .index _ => !o.x
  | .place, _ => false
  | .vslice, .slice _ => !o.x
  | .vslice, _ => false
  | .vsliceOrZero, .slice _ | .vsliceOrZero, .zero => !o.x
  | .vsliceOrZero, _ => false
  | .aff, .affine _ => !o.x
  | .aff, _ => false
  | .addr, .slice _ | .addr, .index _ => true
  | .addr, .affine _ | .addr, .zero => !o.x
  | .addr, _ => false
  | .addrL, .slice _ | .addrL, .index _ => true
  | .addrL, .affine _ => !o.x
  | .addrL, _ => false
  | .addrLX0, .slice _ | .addrLX0, .index _ | .addrLX0, .affine _ => !o.x
  | .addrLX0, _ => false
  | .ix, .index _ => !o.x
  | .ix, _ => false

/-- One operand of one word and what the word does with it. -/
structure Use where
  o : Operand
  rule : OpRule
  /-- allowed widths -/
  ws : List Width
  /-- slices covered, when not the operand's own width -/
  n : Option Nat := none
  /-- its slices are read (R69) -/
  rd : Bool
  /-- its slices are written -/
  wr : Bool
  /-- only the lowest executing lane's operand is read -/
  uni : Bool := false
  /-- a read of a marked slice faults (R72) -/
  pz : Bool := true
deriving DecidableEq, Repr

/-- Slices the operand covers (R66). -/
def Use.count (u : Use) : Nat := u.n.getD u.o.w.slices

/-- A read operand. -/
def rdOp (r : OpRule) (o : Operand) (ws : List Width) (n : Option Nat := none) : Use :=
  { o, rule := r, ws, n, rd := true, wr := false }

/-- A written operand. -/
def wrOp (r : OpRule) (o : Operand) (ws : List Width) (n : Option Nat := none) : Use :=
  { o, rule := r, ws, n, rd := false, wr := true }

/-- An operand both read and written. -/
def rwOp (r : OpRule) (o : Operand) (ws : List Width) (n : Option Nat := none) : Use :=
  { o, rule := r, ws, n, rd := true, wr := true }

/-- The amount operand of a shift (R107): width code 1, X 0, a view slice, an indexed operand, a latch or a special. -/
def Amount.uses : Amount → List Use
  | .imm _ => []
  | .op s => [rdOp .amount { w := .w8, x := false, sel := s } [.w8]]

/-- The operands of an instruction word (the field table of each class). IXSET's field [27:14] holds 0x3C8 + n, the selector of an index
register, and is judged as an operand: another value is an illegal operand (0x02); DESIGN CHOICE: R86 does not say whether the field is
an operand (log entry 55). -/
def Instr.uses : Instr → List Use
  | .mov _ d a => [wrOp .dst d Width.list, rdOp .src a Width.list]
  | .movi _ d _ => [wrOp .dst d Width.list]
  | .movhi _ d _ => [wrOp .dst d [.w32, .w48, .w64]]
  | .smove _ d a n =>
     [wrOp .place d [.w4] (some (n.toNat)),
      { o := a, rule := .place, ws := [.w4], n := some (n.toNat), rd := true, wr := false, pz := false }]
  | .sset _ d _ n1 => [wrOp .place d [.w4] (some (n1.toNat + 1))]
  | .loop _ a _ => [rdOp .src a [.w4, .w8, .w12, .w16, .w24, .w32]]
  | .ixset _ d x _ =>
     [{ o := d, rule := .vslice, ws := Width.list, rd := false, wr := false },
      { o := x, rule := .ix, ws := [.w4], rd := false, wr := false }]
  | .ixstepAdd _ x a _ => [{ o := x, rule := .ix, ws := [.w4], rd := false, wr := false }, rdOp .src a Width.list]
  | .ixstepSet _ x a _ => [{ o := x, rule := .ix, ws := [.w8], rd := false, wr := false }, rdOp .src a Width.list]
  | .spill _ d n =>
     [{ o := d, rule := .vslice, ws := [.w4], n := some (n.toNat), rd := true, wr := false, pz := false }]
  | .fill _ d n => [wrOp .vslice d [.w4] (some (n.toNat))]
  | .stashq _ d q =>
     [{ o := d, rule := .dstMem, ws := if q = 0 then [.w8, .w12, .w16, .w24, .w32, .w48, .w64] else [.w64], rd := false, wr := true }]
  | .iadd _ d a b => [wrOp .dst d Width.list, rdOp .src a Width.list, rdOp .src b Width.list]
  | .iadds _ d a b => [wrOp .dst d Width.list, rdOp .src a Width.list, rdOp .src b Width.list]
  | .isub _ d a b => [wrOp .dst d Width.list, rdOp .src a Width.list, rdOp .src b Width.list]
  | .isubs _ d a b => [wrOp .dst d Width.list, rdOp .src a Width.list, rdOp .src b Width.list]
  | .imul _ d a b => [wrOp .dst d Width.list, rdOp .src a Width.list, rdOp .src b Width.list]
  | .imulh _ d a b => [wrOp .dst d Width.list, rdOp .src a Width.list, rdOp .src b Width.list]
  | .imin _ d a b => [wrOp .dst d Width.list, rdOp .src a Width.list, rdOp .src b Width.list]
  | .imax _ d a b => [wrOp .dst d Width.list, rdOp .src a Width.list, rdOp .src b Width.list]
  | .and _ d a b => [wrOp .dst d Width.list, rdOp .src a Width.list, rdOp .src b Width.list]
  | .or _ d a b => [wrOp .dst d Width.list, rdOp .src a Width.list, rdOp .src b Width.list]
  | .xor _ d a b => [wrOp .dst d Width.list, rdOp .src a Width.list, rdOp .src b Width.list]
  | .andn _ d a b => [wrOp .dst d Width.list, rdOp .src a Width.list, rdOp .src b Width.list]
  | .imad _ d a b => [rwOp .dst d Width.list, rdOp .src a Width.list, rdOp .src b Width.list]
  | .sel _ d a b => [rwOp .dst d Width.list, rdOp .src a Width.list, rdOp .src b Width.list]
  | .iabs _ d a => [wrOp .dst d Width.list, rdOp .src a Width.list]
  | .ineg _ d a => [wrOp .dst d Width.list, rdOp .src a Width.list]
  | .not _ d a => [wrOp .dst d Width.list, rdOp .src a Width.list]
  | .brev _ d a => [wrOp .dst d Width.list, rdOp .src a Width.list]
  | .popc _ d a => [wrOp .dst d [.w8, .w12, .w16, .w24, .w32, .w48, .w64], rdOp .src a Width.list]
  | .clz _ d a => [wrOp .dst d [.w8, .w12, .w16, .w24, .w32, .w48, .w64], rdOp .src a Width.list]
  | .shl _ d a n => [wrOp .dst d Width.list, rdOp .src a Width.list] ++ n.uses
  | .shr _ d a n => [wrOp .dst d Width.list, rdOp .src a Width.list] ++ n.uses
  | .sar _ d a n => [wrOp .dst d Width.list, rdOp .src a Width.list] ++ n.uses
  | .rot _ d a n => [wrOp .dst d Width.list, rdOp .src a Width.list] ++ n.uses
  | .bfx _ d a _ _ _ => [wrOp .dst d Width.list, rdOp .src a Width.list]
  | .bfi _ d a _ _ => [rwOp .dst d Width.list, rdOp .src a Width.list]
  | .icmp _ _ _ _ a b => [rdOp .srcX0 a Width.list, rdOp .src b Width.list]
  | .amov _ d a b => [wrOp .aff d [.w64], rdOp .src a Width.list, rdOp .src b [.w4, .w8, .w12, .w16, .w24, .w32]]
  | .aadd _ d a b => [wrOp .aff d [.w64], rdOp .aff a [.w64], rdOp .src b Width.list]
  | .amul _ d a b => [wrOp .aff d [.w64], rdOp .aff a [.w64], rdOp .src b [.w4, .w8, .w12, .w16, .w24, .w32]]
  | .aget _ d a _ => [wrOp .dst d Width.list, rdOp .aff a [.w64]]
  | .afrom _ d a => [wrOp .aff d [.w64], rdOp .src a [.w64]]
  | .alea _ d a _ _ => [wrOp .dst d [.w64], rdOp .src a Width.list]
  | .fadd _ d a b => [wrOp .dst d [.w32], rdOp .src a [.w32], rdOp .src b [.w32]]
  | .fsub _ d a b => [wrOp .dst d [.w32], rdOp .src a [.w32], rdOp .src b [.w32]]
  | .fmul _ d a b => [wrOp .dst d [.w32], rdOp .src a [.w32], rdOp .src b [.w32]]
  | .fmin _ d a b => [wrOp .dst d [.w32], rdOp .src a [.w32], rdOp .src b [.w32]]
  | .fmax _ d a b => [wrOp .dst d [.w32], rdOp .src a [.w32], rdOp .src b [.w32]]
  | .ffma _ d a b => [rwOp .dst d [.w32], rdOp .src a [.w32], rdOp .src b [.w32]]
  | .fneg _ d a => [wrOp .dst d [.w32], rdOp .src a [.w32]]
  | .fabs _ d a => [wrOp .dst d [.w32], rdOp .src a [.w32]]
  | .frcp _ d a => [wrOp .dst d [.w32], rdOp .src a [.w32]]
  | .frsq _ d a => [wrOp .dst d [.w32], rdOp .src a [.w32]]
  | .fsqrt _ d a => [wrOp .dst d [.w32], rdOp .src a [.w32]]
  | .fexp2 _ d a => [wrOp .dst d [.w32], rdOp .src a [.w32]]
  | .flog2 _ d a => [wrOp .dst d [.w32], rdOp .src a [.w32]]
  | .ftanh _ d a => [wrOp .dst d [.w32], rdOp .src a [.w32]]
  | .fcmp _ _ _ _ a b => [rdOp .src a [.w32], rdOp .src b [.w32]]
  | .fclass _ d a => [wrOp .dst d [.w12, .w16, .w24, .w32, .w48, .w64], rdOp .src a [.w32]]
  | .fscl _ d a b => [wrOp .dst d [.w32], rdOp .src a [.w32], rdOp .src b Width.list]
  | .frnd _ d a _ => [wrOp .dst d [.w32], rdOp .src a [.w32]]
  | .cvtfTo _ d a _ => [wrOp .dst d Width.list, rdOp .src a [.w32]]
  | .cvtfFrom _ d a _ => [wrOp .dst d [.w32], rdOp .src a Width.list]
  | .cvtfi _ d a _ _ => [wrOp .dst d Width.list, rdOp .src a [.w32]]
  | .cvtif _ d a _ => [wrOp .dst d [.w32], rdOp .src a Width.list]
  | .qblk d a _ sc =>
     [wrOp .dst d [.w4, .w8], rdOp .src a [.w32], wrOp .place ({ w := .w8, x := false, sel := sc }) [.w8]]
  | .dqblk d a _ sc =>
     [wrOp .dst d [.w32],
      rdOp .src a [.w4, .w8],
      { o := { w := .w8, x := false, sel := sc }, rule := .place, ws := [.w8], rd := true, wr := false, uni := true }]
  | .brx _ a => [rdOp .src a [.w64]]
  | .ret _ a => [rdOp .src a [.w64]]
  | .call _ d _ => [wrOp .dst d [.w64]]
  | .callx _ d a => [wrOp .dst d [.w64], rdOp .src a [.w64]]
  | .mget _ d _ _ => [wrOp .dst d Width.list]
  | .mput _ a _ => [rdOp .src a Width.list]
  | .shfl _ d a b => [wrOp .dst d Width.list, rdOp .src a Width.list, rdOp .src b Width.list]
  | .shflup _ d a _ => [wrOp .dst d Width.list, rdOp .src a Width.list]
  | .shfldn _ d a _ => [wrOp .dst d Width.list, rdOp .src a Width.list]
  | .shflx _ d a _ => [wrOp .dst d Width.list, rdOp .src a Width.list]
  | .bcast _ d a _ _ => [wrOp .dst d Width.list, rdOp .src a Width.list]
  | .scan _ d a op _ =>
     [{ o := d, rule := .dst, ws := op.widths, rd := false, wr := true },
      { o := a, rule := .src, ws := op.widths, rd := true, wr := false }]
  | .reduce _ d a op =>
     [{ o := d, rule := .dst, ws := op.widths, rd := false, wr := true },
      { o := a, rule := .src, ws := op.widths, rd := true, wr := false }]
  | .ballot _ d _ => [wrOp .dst d Width.list]
  | .prank _ d _ _ => [wrOp .dst d [.w8, .w12, .w16, .w24, .w32, .w48, .w64]]
  | .sample _ d a b => [wrOp .dst d [.w32, .w64], rdOp .src a [.w32], rdOp .src b [.w24]]
  | .ldg _ d a _ _ => [wrOp .dstMem d [.w8, .w16, .w24, .w32, .w48, .w64], rdOp .addr a [.w64]]
  | .stg _ d a _ _ => [rdOp .srcX0 d [.w8, .w16, .w24, .w32, .w48, .w64], rdOp .addr a [.w64]]
  | .lds _ d a _ => [wrOp .dstMem d [.w8, .w16, .w24, .w32, .w48, .w64], rdOp .addr a [.w64]]
  | .ldc _ d a _ => [wrOp .dstMem d [.w8, .w16, .w24, .w32, .w48, .w64], rdOp .addr a [.w64]]
  | .ldx _ d a _ => [wrOp .dstMem d [.w8, .w16, .w24, .w32, .w48, .w64], rdOp .addr a [.w64]]
  | .sts _ d a _ => [rdOp .srcX0 d [.w8, .w16, .w24, .w32, .w48, .w64], rdOp .addr a [.w64]]
  | .stc _ d a _ => [rdOp .srcX0 d [.w8, .w16, .w24, .w32, .w48, .w64], rdOp .addr a [.w64]]
  | .stx _ d a _ => [rdOp .srcX0 d [.w8, .w16, .w24, .w32, .w48, .w64], rdOp .addr a [.w64]]
  | .ldt _ d l n1 _ =>
     [wrOp .vslice d [.w8, .w16, .w32, .w64] (some ((n1.toNat + 1) * d.w.slices)),
      { o := l, rule := .vslice, ws := [.w32], n := some (24), rd := true, wr := false, uni := true }]
  | .stt _ d l n1 _ =>
     [rdOp .vslice d [.w8, .w16, .w32, .w64] (some ((n1.toNat + 1) * d.w.slices)),
      { o := l, rule := .vslice, ws := [.w32], n := some (24), rd := true, wr := false, uni := true }]
  | .pref _ _ a _ _ => [rdOp .addr a [.w64]]
  | .l1inv _ len a _ => [rdOp .srcX0 len [.w8, .w12, .w16, .w24, .w32, .w48, .w64], rdOp .addr a [.w64]]
  | .xinv _ len a _ => [rdOp .srcX0 len [.w8, .w12, .w16, .w24, .w32, .w48, .w64], rdOp .addr a [.w64]]
  | .bartN _ a => [{ o := a, rule := .srcX0, ws := [.w8, .w16], rd := true, wr := false, uni := true }]
  | .pld d r _ _ _ out =>
     [{ o := d, rule := .vslice, ws := if out = .f32 then [.w32] else [.w16], n := some (d.w.slices + 1), rd := false, wr := true },
      { o := r, rule := .vslice, ws := [.w32], n := some (24), rd := true, wr := false, uni := true }]
  | .prfn d r _ _ _ =>
     [rwOp .vslice d [.w32] (some (9)),
      { o := r, rule := .vslice, ws := [.w32], n := some (24), rd := true, wr := false, uni := true }]
  | .pst a r _ _ _ =>
     [rdOp .srcX0 a [.w32],
      { o := r, rule := .vslice, ws := [.w32], n := some (24), rd := true, wr := false, uni := true }]
  | .pcopy desc bar _ _ =>
     [{ o := desc, rule := .vslice, ws := [.w32], n := some (40), rd := true, wr := false, uni := true },
      { o := bar, rule := .srcX0, ws := [.w32], rd := true, wr := false, uni := true }]
  | .pcopyx desc bar _ _ =>
     [{ o := desc, rule := .vslice, ws := [.w32], n := some (40), rd := true, wr := false, uni := true },
      { o := bar, rule := .srcX0, ws := [.w32], rd := true, wr := false, uni := true }]
  | .pbinit bar => [rdOp .srcX0 bar [.w32]]
  | .pbwait _ bar _ => [rdOp .srcX0 bar [.w32]]
  | .pbtest d bar _ => [wrOp .dstMem d [.w64], rdOp .srcX0 bar [.w32]]
  | .pgate d pair _ thr =>
     [wrOp .vslice d [.w4],
      rdOp .srcX0 pair [.w64],
      rdOp .srcX0 ({ w := .w32, x := false, sel := thr }) [.w32]]
  | .paudit d e thr =>
     [rwOp .vslice d [.w4], rdOp .src e [.w32], rdOp .srcX0 ({ w := .w32, x := false, sel := thr }) [.w32]]
  | .pdrop desc _ =>
     [{ o := desc, rule := .vslice, ws := [.w32], n := some (40), rd := true, wr := false, uni := true }]
  | .ptagGet d t _ => [wrOp .dstMem d Width.list, rdOp .srcX0 t [.w32]]
  | .ptagSet t _ _ => [rdOp .srcX0 t [.w32]]
  | .mma _ _ _ _ a _ _ => [rdOp .vslice a [.w4] (some (64))]
  | .mmap _ _ _ r _ idx => [{ o := r, rule := .vslice, ws := [.w64], rd := true, wr := false, uni := true }, rdOp .srcX0 ({ w := .w16, x := false, sel := idx }) [.w16]]
  | .wbload _ _ _ _ src _ => [{ o := src, rule := .vsliceOrZero, ws := [.w64], rd := true, wr := false, uni := true }]
  | .accrd _ _ cols d => [{ o := d, rule := .vslice, ws := [.w4], n := some cols.slices, rd := false, wr := true }]
  | .accwr _ _ cols a => [{ o := a, rule := .vslice, ws := [.w4], n := some cols.slices, rd := true, wr := false }]
  | .drain _ _ _ _ _ a stride =>
     [{ o := a, rule := .vsliceOrZero, ws := [.w64], rd := true, wr := false, uni := true },
      { o := stride, rule := .srcX0, ws := [.w32], rd := true, wr := false, uni := true }]
  | .atom _ d a _ n _ =>
     [{ o := d, rule := .dstMem, ws := [.w32, .w64], rd := true, wr := !n }, rdOp .addr a [.w64]]
  | .cas _ d a b =>
     [rwOp .dstMem d [.w32, .w64],
      rdOp .addr a [.w64],
      { o := b, rule := .srcX0, ws := [d.w], rd := true, wr := false }]
  | .atomf _ d a _ n _ => [{ o := d, rule := .dstMem, ws := [.w32], rd := true, wr := !n }, rdOp .addr a [.w64]]
  | .waitv _ d a _ _ => [rwOp .dstMem d [.w32, .w64], rdOp .addr a [.w64]]
  | .dqpush _ w0 w1 w2 => [rdOp .src w0 [.w64], rdOp .src w1 [.w64], rdOp .src w2 [.w64]]
  | .dqpop _ d _ => [wrOp .vslice d [.w64] (some (48))]
  | .dqsteal _ d _ => [wrOp .vslice d [.w64] (some (48))]
  | .fork _ ctr entry arg => [rdOp .srcX0 ctr [.w64], rdOp .src entry [.w64], rdOp .src arg [.w64]]
  | .tjoin _ ctr => [rdOp .srcX0 ctr [.w64]]
  | .tend _ ctr => [rdOp .srcX0 ctr [.w64]]
  | .wreg _ d base _ _ _ _ => [wrOp .dstMem d [.w32], rdOp .addrLX0 base [.w64]]
  | .wregRe _ d => [rwOp .dstMem d [.w32]]
  | .wdereg _ d h => [wrOp .dstMem d [.w4], rdOp .srcX0 h [.w32]]
  | .put _ src dst ctl => [rdOp .addrL src [.w64], rdOp .srcX0 dst [.w64], rdOp .srcX0 ctl [.w32]]
  | .putm _ src list ctl => [rdOp .addrL src [.w64], rdOp .addrLX0 list [.w64], rdOp .srcX0 ctl [.w32]]
  | .get _ dst src ctl => [rdOp .addrL dst [.w64], rdOp .srcX0 src [.w64], rdOp .srcX0 ctl [.w32]]
  | .wcntW _ d h => [wrOp .dstMem d [.w32], rdOp .srcX0 h [.w32]]
  | .wcntDone _ d _ => [wrOp .dstMem d [.w32]]
  | .wcntRef _ d _ => [wrOp .dstMem d [.w32]]
  | .wwaitW _ d h => [rwOp .dstMem d [.w32], rdOp .srcX0 h [.w32]]
  | .wwaitSnd _ d _ => [rwOp .dstMem d [.w32]]
  | .rsend _ m dst size st =>
     [rdOp .vslice m [.w4] (some (16 * 2 ^ size.toNat)),
      rdOp .srcX0 dst [.w64],
      wrOp .place ({ w := .w4, x := false, sel := st }) [.w4]]
  | .rwait _ d hdr => [rwOp .dstMem d [.w32], rdOp .srcX0 hdr [.w32]]
  | .radv _ hdr n => [rdOp .srcX0 hdr [.w32], rdOp .srcX0 n [.w32]]
  | .kvmap _ d key => [wrOp .dstMem d [.w64], rdOp .srcX0 key [.w64]]
  | .kvalloc _ d a _ => [wrOp .dstMem d [.w4], rdOp .srcX0 a [.w32]]
  | .kvfree _ d a => [wrOp .dstMem d [.w4], rdOp .srcX0 a [.w32]]
  | .kvfork _ d a n => [wrOp .dstMem d [.w4], rdOp .srcX0 a [.w32], rdOp .srcX0 n [.w32]]
  | .kvcommit _ d a n => [wrOp .dstMem d [.w4], rdOp .srcX0 a [.w32], rdOp .srcX0 n [.w32]]
  | .kvtrim _ d a n => [wrOp .dstMem d [.w4], rdOp .srcX0 a [.w32], rdOp .srcX0 n [.w32]]
  | .kvapp _ d key src => [wrOp .dstMem d [.w4], rdOp .srcX0 key [.w64], rdOp .srcX0 src [.w32]]
  | .attn _ d key desc => [wrOp .dstMem d [.w4], rdOp .srcX0 key [.w64], rdOp .srcX0 desc [.w32]]
  | .attnwait _ _ desc => [rdOp .srcX0 desc [.w32]]
  | .grinit _ d a img => [wrOp .dstMem d [.w4], rdOp .srcX0 a [.w64], rdOp .srcX0 img [.w64]]
  | .grmask _ d seq off => [wrOp .dstMem d [.w4], rdOp .srcX0 seq [.w16, .w32], rdOp .srcX0 off [.w32]]
  | .gradv _ d a _ => [wrOp .dstMem d [.w4], rdOp .srcX0 a [.w64]]
  | .grckptSave _ d seq _ => [wrOp .dstMem d [.w4], rdOp .srcX0 seq [.w16, .w32]]
  | .grckptRel _ d seq _ => [wrOp .dstMem d [.w4], rdOp .srcX0 seq [.w16, .w32]]
  | .grroll _ d seq _ => [wrOp .dstMem d [.w4], rdOp .srcX0 seq [.w16, .w32]]
  | .grckptRelall _ d seq => [wrOp .dstMem d [.w4], rdOp .srcX0 seq [.w16, .w32]]
  | .grfork _ d a => [wrOp .dstMem d [.w4], rdOp .srcX0 a [.w32]]
  | .grstat _ d seq _ => [wrOp .dstMem d [.w64], rdOp .srcX0 seq [.w16, .w32]]
  | .squash _ d a n => [wrOp .dstMem d [.w4], rdOp .srcX0 a [.w32], rdOp .srcX0 n [.w32]]
  | .sqsetTag _ d a => [wrOp .dstMem d [.w4], rdOp .srcX0 a [.w64]]
  | .sqsetEntry _ d a => [wrOp .dstMem d [.w4], rdOp .src a [.w64]]
  | .sqsetOff _ d => [wrOp .dstMem d [.w4]]
  | .sqsetUnreg _ d => [wrOp .dstMem d [.w4]]
  | .rng _ d a b => [wrOp .dst d [.w24, .w32], rdOp .srcX0 a [.w64], rdOp .src b Width.list]
  | .launch _ d a => [wrOp .dstMem d [.w64], rdOp .srcX0 a [.w64]]
  | .ldepAdd _ d a => [rwOp .dstMem d [.w32], rdOp .srcX0 a [.w64]]
  | .ldepGo _ d => [rwOp .dstMem d [.w32]]
  | .lquery _ d h => [wrOp .dstMem d [.w64], rdOp .srcX0 h [.w32]]
  | .seqadm _ d a => [wrOp .dstMem d [.w32], rdOp .srcX0 a [.w64]]
  | .seqret _ d seq => [wrOp .dstMem d [.w4], rdOp .srcX0 seq [.w16, .w32]]
  | .seqinfo _ d a _ => [wrOp .dstMem d [.w64], rdOp .srcX0 a [.w32]]
  | .sysrd _ d _ => [wrOp .dstMem d Width.list]
  | .syswr _ a _ => [rdOp .src a Width.list]
  | .hcall _ d a _ => [wrOp .dstMem d [.w64], rdOp .src a [.w64]]
  | _ => []

/-- The guard of a word that takes one (R42, R43). -/
def Instr.guard : Instr → Guard
  | .mov g .. | .movi g .. | .movhi g .. | .smove g .. | .sset g .. | .ixset g .. | .ixstepAdd g ..
  | .ixstepSet g .. | .spill g .. | .fill g .. | .stashq g .. | .iadd g .. | .iadds g .. | .isub g ..
  | .isubs g .. | .imul g .. | .imulh g .. | .imad g .. | .imin g .. | .imax g .. | .iabs g .. | .ineg g ..
  | .and g .. | .or g .. | .xor g .. | .andn g .. | .not g .. | .shl g .. | .shr g .. | .sar g .. | .rot g ..
  | .popc g .. | .clz g .. | .brev g .. | .bfx g .. | .bfi g .. | .icmp g .. | .sel g .. | .amov g ..
  | .aadd g .. | .amul g .. | .aget g .. | .afrom g .. | .alea g .. | .fadd g .. | .fsub g .. | .fmul g ..
  | .ffma g .. | .fmin g .. | .fmax g .. | .fneg g .. | .fabs g .. | .fcmp g .. | .fclass g .. | .frcp g ..
  | .frsq g .. | .fsqrt g .. | .fexp2 g .. | .flog2 g .. | .ftanh g .. | .fscl g .. | .frnd g .. | .cvtfTo g ..
  | .cvtfFrom g .. | .cvtfi g .. | .cvtif g .. | .bra g .. | .braLv g .. | .brx g .. | .call g .. | .callx g ..
  | .ret g .. | .join g .. | .leave g .. | .jwait g .. | .mget g .. | .mput g .. | .exit g .. | .yield g ..
  | .nop g .. | .ldg g .. | .stg g .. | .lds g .. | .sts g .. | .ldc g .. | .stc g .. | .ldx g .. | .stx g ..
  | .ldt g .. | .stt g .. | .pref g .. | .l1inv g .. | .l1invAll g .. | .atom g .. | .cas g .. | .atomf g ..
  | .waitv g .. | .dqpush g .. | .dqpop g .. | .dqsteal g .. | .fork g .. | .tjoin g .. | .tend g ..
  | .wreg g .. | .wregRe g .. | .wdereg g .. | .put g .. | .putm g .. | .get g .. | .wcntW g ..
  | .wcntDone g .. | .wcntRef g .. | .wwaitW g .. | .wwaitSnd g .. | .rsend g .. | .rwait g .. | .radv g ..
  | .kvmap g .. | .kvalloc g .. | .kvfree g .. | .kvfork g .. | .kvapp g .. | .kvcommit g .. | .kvtrim g ..
  | .attn g .. | .attnwait g .. | .grinit g .. | .grmask g .. | .gradv g .. | .grckptSave g ..
  | .grckptRel g .. | .grckptRelall g .. | .grroll g .. | .grfork g .. | .grstat g .. | .squash g ..
  | .sqsetTag g .. | .sqsetOff g .. | .sqsetEntry g .. | .sqsetUnreg g .. | .rng g .. | .launch g ..
  | .ldepAdd g .. | .ldepGo g .. | .lquery g .. | .seqadm g .. | .seqret g .. | .seqinfo g .. | .trap g ..
  | .tret g .. | .tretSkip g .. | .sysrd g .. | .syswr g .. | .bkpt g .. | .hcall g .. | .xinv g ..
  | .xinvAll g .. | .fmodeSet g .. | .fmodeClr g .. | .fmodeWr g .. => g
  | _ => .always

/-- The slice a guard reads. -/
def guardSlices : Guard → List Nat
  | .always => []
  | .on _ _ p => [p.toNat]

/-- The guard slice whose mark faults (R72); SMOVE never raises 0x0B (R88). -/
def Instr.markedGuard : Instr → List Nat
  | .smove .. => []
  | i => guardSlices i.guard

/-- The participant set of a class F word (R43). -/
def Instr.pset : Instr → Option PSet
  | .shfl p _ _ _ | .shflup p _ _ _ | .shfldn p _ _ _ | .shflx p _ _ _ | .bcast p _ _ _ _ | .scan p _ _ _ _
  | .reduce p _ _ _ | .ballot p _ _ | .prank p _ _ _ | .sample p _ _ _ => some p
  | _ => none

/-- The predicate bit a word names, and whether it writes the slice as well as reading it (R110, R207). -/
def Instr.pred : Instr → Option (PredBit × Bool)
  | .icmp _ _ _ p _ _ | .fcmp _ _ _ p _ _ | .pbwait p _ _ | .dqpop _ _ p | .dqsteal _ _ p | .attnwait _ p _
  | .gradv _ _ _ p => some (p, true)
  | .ballot _ _ p | .prank _ _ _ p => some (p, false)
  | _ => none

/-- The predicate slice a word reads (R110). -/
def Instr.predRead (i : Instr) : List Nat := match i.pred with | some (p, _) => [p.slice.toNat] | none => []

/-- Where a word executes (Table 1.5). -/
inductive Pipe
  | a | b | either | mem
deriving DecidableEq, Repr

/-- The class of a word (02 Table 2.9), by its opcode's range; an event has class 99. -/
def Instr.cls (i : Instr) : Nat := match encodeFields i with | some f => f.op.toNat / 32 | none => 99

/-- Is it a class D word? -/
def Instr.classD (i : Instr) : Bool := i.cls == 5

/-- The latency of a class D word (Table 6.4). -/
def Instr.fpLatency : Instr → Nat
  | .frcp .. | .frsq .. | .fsqrt .. | .fexp2 .. | .flog2 .. | .ftanh .. => 12
  | .qblk .. => 8
  | .dqblk .. => 6
  | _ => 4

/-- The pipe of a word (Table 1.5). -/
def Instr.pipe : Instr → Pipe
  | .spill .. | .fill .. | .stashq .. => .mem
  | .frcp .. | .frsq .. | .fsqrt .. | .fexp2 .. | .flog2 .. | .ftanh .. | .rng .. => .b
  | .qblk .. | .dqblk .. => .a
  | i => if i.cls = 4 then .b else if i.cls = 8 then .a else if i.cls < 9 then .either else .mem

/-- Class E (07). -/
def Instr.classE (i : Instr) : Bool := i.cls = 7

/-- Class E, LOOP, ENDLOOP and FRAMEADJ: at most one in a chain (R85). -/
def Instr.frameOrBranch : Instr → Bool
  | .loop .. | .endloop | .endloopBrk .. | .frameadj .. => true
  | i => i.classE

/-- Affine registers a word reads beside its operands: ALEA's An (R121). -/
def Instr.affExtra : Instr → List Nat
  | .alea _ _ _ n _ => [n.toNat]
  | _ => []

/-- The affine register that an operand read names. -/
def Use.affRead (u : Use) : Option Nat :=
  match u.o.sel with
  | .affine n => if u.rd then some n.val else none
  | _ => none

/-- The index register that an indexed operand reads. -/
def Use.ixRead (u : Use) : Option Nat :=
  match u.rule, u.o.sel with
  | .ix, _ => none
  | _, .index n => some n.val
  | _, _ => none

/-- Affine registers a word reads (R33, R115). -/
def Instr.affReads (i : Instr) : List Nat :=
  i.affExtra ++ i.uses.filterMap Use.affRead

/-- Affine registers a word writes (R114). -/
def Instr.affWrites (i : Instr) : List Nat :=
  i.uses.filterMap fun u => match u.rule, u.o.sel with | .aff, .affine n => if u.wr then some n.val else none | _, _ => none

/-- Index registers a word reads: through its indexed operands, and its own in IXSTEP.ADD (R33, R94). -/
def Instr.ixReads (i : Instr) : List Nat :=
  i.uses.filterMap Use.ixRead ++
  (match i with
    | .ixstepAdd _ x _ _ => (match x.sel with | .index n => [n.val] | _ => [])
    | .sysrd _ _ r => if 0x10 ≤ r.toNat ∧ r.toNat ≤ 0x17 then [r.toNat - 0x10] else []
    | _ => [])

/-- Index registers a word writes: IXSET, IXSTEP, and SYSWR of X0–X7 (R79, R93, R94). -/
def Instr.ixWrites (i : Instr) : List Nat :=
  (i.uses.filterMap fun u => match u.rule, u.o.sel with | .ix, .index n => some n.val | _, _ => none) ++
  (match i with | .syswr _ _ r => if 0x10 ≤ r.toNat ∧ r.toNat ≤ 0x17 then [r.toNat - 0x10] else [] | _ => [])

/-- Whether the use writes slices: a destination whose no-write-back bit is clear (R33, R44). -/
def Use.writes (u : Use) : Bool := u.wr && !(u.rule == .dst && u.o.x)

/-- Words the issue set executes as one: every non-exited lane of the group, of the half of a 64-lane group, or of the
block must be in the issue set (R166, R230, R268, R295). -/
def Instr.groupLevel : Instr → Bool
  | .qblk .. | .dqblk .. | .ldt .. | .stt .. | .pld .. | .prfn .. | .pst .. | .pcopy .. | .pcopyx .. | .pdrop ..
  | .pgate .. | .paudit .. | .mma .. | .mmap .. | .wbload .. | .wbdrop .. | .acq .. | .rel .. | .accrd .. | .accwr ..
  | .accz .. | .drain .. => true
  | _ => false

/-- Lane-wise words: a chain of them issues for the threads of every group of the path (R173). -/
def Instr.laneWise (i : Instr) : Bool := (i.cls < 8 || i.cls == 9) && !i.groupLevel

end Sys2Proof
end

