-- ==== Sys2Proof/Machine/Ops.lean ====
section
/-! DEFINITION. The named operations over the state: threads, groups and their lists, slices and pending writes, free values,
the issue's faults, and taking a trap (R440–R447) with the return beside it (R463). -/

namespace Sys2Proof
namespace Machine
open Host

/-! ## Words as numbers -/

/-- The low w bits of a word. -/
def truncW (w : Nat) (v : Word) : Word := BitVec.ofNat 64 (v.toNat % 2 ^ w)

/-- The low w bits as an unsigned integer. -/
def uval (w : Nat) (v : Word) : Nat := v.toNat % 2 ^ w

/-- The low w bits as a two's complement integer. -/
def sval (w : Nat) (v : Word) : Int := if uval w v < 2 ^ (w - 1) then uval w v else (uval w v : Int) - 2 ^ w

/-- An integer modulo 2^64 as a word. -/
def wordOf (n : Int) : Word := BitVec.ofInt 64 n

/-- The low w bits sign-extended or zero-extended to 64 bits. -/
def extendW (signed : Bool) (w : Nat) (v : Word) : Word := if signed then wordOf (sval w v) else truncW w v

/-- Bit l of a lane set. -/
def laneIn (m : Word) (l : Nat) : Bool := m.getLsbD l

/-- The set of one lane. -/
def laneBit (l : Nat) : Word := BitVec.ofNat 64 (2 ^ l)

/-- A set without the lane. -/
def laneDel (m : Word) (l : Nat) : Word := m &&& ~~~(laneBit l)

/-- A set with the lane. -/
def laneAdd (m : Word) (l : Nat) : Word := m ||| laneBit l

/-- The lanes of a list as a set. -/
def laneSet (ls : List Nat) : Word := ls.foldl laneAdd 0

/-! ## Canonical maps -/

/-- The value at a key of a rising list, or the default. -/
def assocGet {α : Type} (d : α) : List (Nat × α) → Nat → α
  | [], _ => d
  | (k, v) :: r, a => if a = k then v else if a < k then d else assocGet d r a

/-- Sets the value at a key, keeping the keys rising and listing no default. -/
def assocSet {α : Type} [DecidableEq α] (d : α) : List (Nat × α) → Nat → α → List (Nat × α)
  | [], a, v => if v = d then [] else [(a, v)]
  | (k, w) :: r, a, v =>
    if a = k then (if v = d then r else (a, v) :: r)
    else if a < k then (if v = d then (k, w) :: r else (a, v) :: (k, w) :: r)
    else (k, w) :: assocSet d r a v

/-- Every key of the list is above the bound, the keys rise, and no value is the default. -/
def assocWf {α : Type} [DecidableEq α] (d : α) : Option Nat → List (Nat × α) → Bool
  | _, [] => true
  | b, (k, v) :: r => (match b with | none => true | some x => decide (x < k)) && decide (v ≠ d) && assocWf d (some k) r

/-- The byte at an address. -/
def memGet (m : Memory) (a : Nat) : Byte := assocGet Config.unlistedByte m a

/-- Sets the byte at an address. -/
def memSet (m : Memory) (a : Nat) (b : Byte) : Memory := assocSet Config.unlistedByte m a b

/-- The canonical form of a memory: addresses strictly rising, no byte equal to `Config.unlistedByte`. -/
def Memory.wf (m : Memory) : Bool := assocWf Config.unlistedByte none m

/-- n bytes from an address. -/
def memBytes (m : Memory) (a n : Nat) : List Byte := (List.range n).map fun i => memGet m (a + i)

/-- Stores bytes from an address. -/
def memPut (m : Memory) (a : Nat) : List Byte → Memory
  | [] => m
  | b :: r => memPut (memSet m a b) (a + 1) r

/-- Bytes, lowest first, as a number (R3). -/
def leNat : List Byte → Nat
  | [] => 0
  | b :: r => b.toNat + 256 * leNat r

/-- The n low bytes of a number, lowest first (R3). -/
def natLe : Nat → Nat → List Byte
  | 0, _ => []
  | n + 1, v => BitVec.ofNat 8 (v % 256) :: natLe n (v / 256)

/-! ## Threads and groups -/

/-- A thread by its place. -/
def State.thread (s : State) (t : Nat) : Thread := s.threads.getD t default

/-- Changes one thread. -/
def State.onThread (s : State) (t : Nat) (f : Thread → Thread) : State := { s with threads := s.threads.modify t f }

/-- A group by its place. -/
def State.group (s : State) (g : Nat) : Group := s.groups.getD g default

/-- Changes one group. -/
def State.onGroup (s : State) (g : Nat) (f : Group → Group) : State := { s with groups := s.groups.modify g f }

/-- A team by its place. -/
def State.team (s : State) (t : Nat) : Team := s.teams.getD t default

/-- Changes one team. -/
def State.onTeam (s : State) (t : Nat) (f : Team → Team) : State := { s with teams := s.teams.modify t f }

/-- A cluster by its place. -/
def State.cluster (s : State) (c : Nat) : Cluster := s.clusters.getD c default

/-- Changes one cluster. -/
def State.onCluster (s : State) (c : Nat) (f : Cluster → Cluster) : State := { s with clusters := s.clusters.modify c f }

/-- A grid by its place. -/
def State.grid (s : State) (g : Nat) : Grid := s.grids.getD g default

/-- Changes one grid. -/
def State.onGrid (s : State) (g : Nat) (f : Grid → Grid) : State := { s with grids := s.grids.modify g f }

/-- The team of a thread. -/
def State.teamOf (s : State) (t : Nat) : Nat := (s.group (s.thread t).grp).team

/-- The grid of a group. -/
def State.gridOfGroup (s : State) (g : Nat) : Nat := (s.cluster (s.team (s.group g).team).cluster).grid

/-- The launch record of a group's grid. -/
def State.recOf (s : State) (g : Nat) : LaunchRec := (s.grid (s.gridOfGroup g)).lr

/-- The lanes of the issuing group that have not exited. -/
def State.live (s : State) : List Nat :=
  let g := s.group s.issue.grp
  (List.range g.w).filter fun l => !(s.thread (g.t0 + l)).exited

/-- The issuing group. -/
def State.ig (s : State) : Group := s.group s.issue.grp

/-- The launch record of the issuing group's grid. -/
def State.ir (s : State) : LaunchRec := s.recOf s.issue.grp

/-- The thread of a lane of the issuing group. -/
def State.lt (s : State) (l : Nat) : Thread := s.thread (s.ig.t0 + l)

/-- Changes the thread of a lane of the issuing group. -/
def State.onLane (s : State) (l : Nat) (f : Thread → Thread) : State := s.onThread (s.ig.t0 + l) f

/-- Changes the issuing group. -/
def State.onIg (s : State) (f : Group → Group) : State := s.onGroup s.issue.grp f

/-! ## Free values (log entry 1) -/

/-- Advances the counter of the free values. -/
def State.next (s : State) : State := { s with tick := s.tick + 1 }

/-- A choice below n that the spec leaves open; with one alternative there is nothing to choose. -/
def State.choose (s : State) (n : Nat) : Nat := if n ≤ 1 then 0 else Config.freeChoice s.tick % n

/-- A fresh identifier. -/
def State.fresh (s : State) : State := { s with nextId := s.nextId + 1 }

/-! ## Slices -/

/-- Physical slice p of a thread as its register string holds it. -/
def Thread.fileSlice (th : Thread) (p : Nat) : Slice := th.slices.getD p default

/-- The value a pending write holds for slice p. -/
def pendSlice (w : Pend) (p : Nat) : Option Slice :=
  if w.known then (match w.slices.findIdx? (· == p) with | some i => w.vals[i]? | none => none) else none

/-- Physical slice p in program order: the youngest pending value, else the register string's (R70). -/
def Thread.slice (th : Thread) (p : Nat) : Slice :=
  match th.pend.reverse.findSome? (pendSlice · p) with
  | some v => v
  | none => th.fileSlice p

/-- Is a write to the slice pending (R69)? -/
def Thread.pending (th : Thread) (p : Nat) : Bool := th.pend.any fun w => w.slices.contains p

/-- The slices of a value, lowest first (R64). -/
def sliceVals : Nat → Word → List Slice
  | 0, _ => []
  | n + 1, v => { v := v.extractLsb' 0 4, poison := false } :: sliceVals n (v >>> 4)

/-- The value that slices hold, lowest first (R64). -/
def sliceWord : List Slice → Word
  | [] => 0
  | a :: r => (sliceWord r <<< 4) ||| (a.v.setWidth 64)

/-- Adds a pending write to a thread. -/
def Thread.addPend (th : Thread) (w : Pend) : Thread := { th with pend := th.pend ++ [w] }

/-- Writes slices of a lane of the issuing group: a write pending from now on (R69, R70). -/
def State.writeSlices (s : State) (l : Nat) (ps : List Nat) (vs : List Slice) : State :=
  (s.onLane l (·.addPend { id := s.nextId, slices := ps, vals := vs, known := true })).fresh

/-- Which slices of a landing write it still youngest-writes: those no younger pending write names (R70). -/
def Thread.youngest (younger : List Pend) (p : Nat) : Bool := !younger.any fun w => w.slices.contains p

/-- Puts values into the register string at the slices that pass the test. -/
def putSlices (keep : Nat → Bool) : List Nat → List Slice → List Slice → List Slice
  | p :: ps, v :: vs, f => putSlices keep ps vs (if keep p then f.set p v else f)
  | _, _, f => f

/-- Splits a pending list at an identifier: the older writes, the write, the younger ones. -/
def pendSplit (id : Nat) : List Pend → Option (List Pend × Pend × List Pend)
  | [] => none
  | w :: r =>
    if w.id = id then some ([], w, r)
    else match pendSplit id r with
      | some (o, x, y) => some (w :: o, x, y)
      | none => none

/-- A pending write after a younger write of the slices has completed: 960 stands for a slice it no longer writes. -/
def Pend.without (ps : List Nat) (w : Pend) : Pend := { w with slices := w.slices.map fun p => if ps.contains p then 960 else p }

/-- A pending write lands (R70): it changes only the slices of which it is still the youngest pending writer, and no older write
changes them any more. -/
def Thread.land (th : Thread) (id : Nat) (vs : List Slice) : Thread :=
  match pendSplit id th.pend with
  | some (o, w, y) => { th with pend := o.map (Pend.without w.slices) ++ y, slices := putSlices (Thread.youngest y) w.slices vs th.slices }
  | none => th

/-! ## Operands that a format slot decides (R300, R310) -/

/-- Does the slot hold MX blocks? -/
def FmtSlot.isMx (f : FmtSlot) : Bool := f.logblk == 5 && f.scale == 1

/-- The scale slices of an A row: their count for an MX slot, else none (R300). -/
def FmtSlot.scaleSlices (f : FmtSlot) : Nat := if f.isMx then (if f.elem = 6 then 4 else 2) else 0

/-- The first-stripe operand of a WBLOAD with a PB slot (R310). -/
def stripeUses (b : Operand) : List Use := [rdOp .srcX0 b [.w32]]

/-- The slices of an MMA's scale operand (R300), as an operand read. -/
def scaleUses (f : FmtSlot) (sc : BitVec 10) : List Use :=
  if h : sc.toNat < 960 then
    (if f.scaleSlices = 0 then [] else
      [{ o := { w := .w4, x := false, sel := .slice ⟨sc.toNat, h⟩ }, rule := .vslice, ws := [.w4], n := some f.scaleSlices, rd := true, wr := false }])
  else []

/-- A format slot of a launch (Table 17.1). -/
def LaunchRec.slot (lr : LaunchRec) (k : Nat) : FmtSlot := lr.slots.getD k default

/-- The operands that a word reads in a launch because of what a format slot holds. -/
def LaunchRec.slotUses (lr : LaunchRec) : Instr → List Use
  | .mma _ _ _ k _ _ sc => scaleUses (lr.slot k.toNat) sc
  | .wbload _ _ k _ _ b => if (lr.slot k.toNat).elem = 0x10 then stripeUses b else []
  | _ => []

/-- All the operands of a word in a launch. -/
def LaunchRec.uses (lr : LaunchRec) (i : Instr) : List Use := i.uses ++ lr.slotUses i

/-! ## Faults and traps -/

/-- A fault for a lane of the issue, found at a step of Table 2.2 and reported with the issue's word. -/
def State.faultAt (s : State) (stage l cause : Nat) (info : Word) : State :=
  { s with issue := { s.issue with faults := s.issue.faults ++ [{ stage, lane := l, cause, info, word := s.issue.word }] } }

/-- An execution fault for a lane (Table 2.2 step 6). -/
def State.fault (s : State) (l cause : Nat) (info : Word) : State := s.faultAt 6 l cause info

/-- A fault at a step for the whole issue set. -/
def State.faultAll (s : State) (stage cause : Nat) (info : Word) : State :=
  s.issue.lanes.foldl (fun s l => s.faultAt stage l cause info) s

/-- Poisoned data (0x0B) for the whole issue set, of data that was logged when a weight load met it (R308, R310). -/
def State.faultLogged (s : State) (info : Word) : State :=
  let f (l : Nat) : LaneFault := { stage := 6, lane := l, cause := 0x0B, info, word := s.issue.word, logged := true }
  { s with issue := { s.issue with faults := s.issue.faults ++ s.issue.lanes.map f } }

/-- A lane that cannot issue yet: the chain has no effect for it. -/
def State.stall (s : State) (l : Nat) (va : Option Nat) : State :=
  { s with issue := { s.issue with stalls := s.issue.stalls ++ [(l, va)] } }

/-! ## The event log and the fault buffer -/

/-- Raises an interrupt vector (R471). -/
def State.raiseVec (s : State) (v : Nat) : State := { s with vectors := laneAdd s.vectors v }

/-- Writes an event entry and counts it (R473); its TIME is free (log entry 3). -/
def State.logEvent (s : State) (kind asid core : Nat) (handle : W32) (data : Word) : State :=
  let e : EvEntry := { time := Config.freeWord s.tick, data, handle, asid, core, kind }
  ({ s with
      evlog := assocSet default s.evlog (s.elcnt.toNat % 256) e
      elcnt := s.elcnt + 1
      ellost := s.ellost || s.elcnt - s.elack == 256
      tick := s.tick + 1 }).raiseVec 0

/-- Numbers below n that the test rejects. -/
def freeIdx (n : Nat) (used : Nat → Bool) : List Nat := (List.range n).filter fun i => !used i

/-- Attaches a request to the fault buffer (R222, R224): an entry of its page, else a free one, else it is refused. -/
def State.attach (s : State) (core asid kind va : Nat) (r : Waiter) : State × Option Nat :=
  let page := va / 65536
  let add (e : FbEntry) : FbEntry :=
    { e with core := Nat.min e.core core, kind := Nat.max e.kind kind, waiters := Nat.min (e.waiters + 1) 16383, order := e.order ++ [r] }
  match s.fbuf.find? fun (_, e) => match e with | some e => e.asid == asid && e.page == page | none => false with
  | some (i, some e) => ({ s with fbuf := assocSet none s.fbuf i (some (add e)) }, some i)
  | _ =>
    let free := freeIdx 4096 fun i => (assocGet none s.fbuf i).isSome
    if free = [] then (s, none)
    else
      let i := free.getD (s.choose free.length) 0
      ({ s with fbuf := assocSet none s.fbuf i (some { core, asid, kind, page, waiters := 1, order := [r] }), tick := s.tick + 1 }.raiseVec 1, some i)

/-- The core of the issuing group. -/
def State.icore (s : State) : Nat := (s.team s.ig.team).core

/-- The ASID of the issuing grid. -/
def State.iasid (s : State) : Nat := s.ir.asid.toNat

/-- A stalled lane goes back to its chain; one that misses a translation waits for its fault-buffer entry (R222). -/
def State.unissue (s : State) (l : Nat) (va : Option Nat) : State :=
  match va with
  | none => s.onLane l fun th => { th with pc := s.issue.pc }
  | some va =>
    let (s, e) := s.attach s.icore s.iasid 0 va (.thread (s.ig.t0 + l))
    s.onLane l fun th =>
      { th with pc := s.issue.pc, wait := (match e with | some e => .xlate e va | none => th.wait), waitAt := s.issue.pc }

/-- Grid-fatal causes (Table 18.1). -/
def fatalCause (c : Nat) : Bool := [0x01, 0x02, 0x03, 0x04, 0x07, 0x08, 0x0A, 0x13, 0x14, 0x17, 0x1F].contains c

/-- The class of a cause: 0x0C–0x10 count as one, at 0x0C (R441). -/
def causeClass (c : Nat) : Nat := if 0x0C ≤ c ∧ c ≤ 0x10 then 0x0C else c

/-- A fault of a thread in TSET escalates to nested trap (R446). -/
def nestFault (g : Group) (f : LaneFault) : LaneFault :=
  if laneIn g.tset f.lane then
    { f with cause := 0x1F, info := g.tcause.setWidth 64 <<< 8 ||| BitVec.ofNat 64 (f.cause % 256) }
  else f

/-- Is the fault grid-fatal for a grid with this trap vector (R440)? -/
def LaneFault.isFatal (trapv : Word) (f : LaneFault) : Bool := fatalCause f.cause || trapv == 0

/-- The lowest cause class among faults. -/
def lowestClass (fs : List LaneFault) : Nat := fs.foldl (fun c f => if causeClass f.cause < c then causeClass f.cause else c) 0x100

/-- The TCAUSE of a class: the floating-point cause of highest priority (R151), which has the lowest code. -/
def lowestCause (fs : List LaneFault) : Nat := fs.foldl (fun c f => if f.cause < c then f.cause else c) 0x100

/-- The fault of the lowest lane of a list. -/
def lowestLane : List LaneFault → Option LaneFault
  | [] => none
  | f :: r => match lowestLane r with
    | none => some f
    | some g => if g.lane < f.lane then some g else some f

/-- The fault that reports the lowest address, for a poisoned unit (R143) or an access (R225); otherwise the lowest lane's. -/
def reportInfo (cause : Nat) (fs : List LaneFault) : Word :=
  if causeClass cause = 0x0C then fs.foldl (fun v f => v ||| f.info) 0
  else match lowestLane fs with
    | none => 0
    | some f =>
      if cause = 0x0B ∧ f.info.getLsbD 63 = false then
        fs.foldl (fun v g => if g.info.toNat % 2 ^ 57 < v.toNat % 2 ^ 57 ∧ g.info.getLsbD 63 = false then g.info else v) f.info
      else f.info

/-- Trap entry (R443): F becomes the trap set; TCAUSE, TINST and TINFO; per lane TPC, TNPC, TSPR, SPR, the pc and the age. -/
def State.trapEntry (s : State) (fs : List LaneFault) (trapv : Word) : State :=
  let c := lowestCause fs
  let info := reportInfo c fs
  let inst := match lowestLane fs with | some f => f.word | none => 0
  let s := s.onIg fun g =>
    { g with tset := laneSet (fs.map (·.lane)), tcause := BitVec.ofNat 8 c, tinst := inst, tinfo := info }
  fs.foldl (fun s f => s.onLane f.lane fun th =>
    { th with tpc := s.issue.runPc, tnpc := s.issue.skipPc, tspr := th.spr, spr := 0, pc := trapv, age := 0, wait := .none, held := none, later := none })
    s

/-- A lane is deferred (R444): its pc stays on the chain or run and it is not ready. -/
def State.deferLane (s : State) (l : Nat) : State :=
  s.onLane l fun th => { th with pc := s.issue.runPc, wait := .deferred, waitAt := s.issue.runPc, held := none, later := none }

/-- A grid-fatal trap is reported (R447): the first one stands; the faulting lanes issue no more. Of several grid-fatal lanes the lowest
gives the class of the cause, and the lanes of that class TINFO (R143, R151). -/
def State.trapFatal (s : State) (fs : List LaneFault) : State :=
  let f := (lowestLane fs).getD default
  let same := fs.filter fun (x : LaneFault) => causeClass x.cause == causeClass f.cause
  let c := lowestCause same
  let trap : FatalTrap := { cause := c, tpc := s.issue.runPc, tinfo := reportInfo c same, team := s.ig.team, thread := s.ig.t0 + f.lane }
  let s := s.onGrid (s.gridOfGroup s.issue.grp) fun g =>
    match g.fatal with
    | some _ => g
    | none => { g with fatal := some trap }
  s.issue.faults.foldl (fun s f => s.onLane f.lane fun th =>
    { th with pc := s.issue.runPc, wait := .fatal, waitAt := s.issue.runPc }) s

/-- Poisoned or malformed data that an instruction met in place, and that was not logged before, is logged once, with the lowest address
(R143, R145, R473). -/
def State.logFaults (s : State) : State :=
  match s.issue.faults.filter fun f => f.cause == 0x0B && !f.info.getLsbD 63 && !f.logged with
  | [] => s
  | f :: r =>
    s.logEvent 1 s.iasid s.icore (s.grid (s.gridOfGroup s.issue.grp)).handle (reportInfo 0x0B (f :: r))

/-- The faults of the issue after R446's escalation. -/
def State.faultsNested (s : State) : List LaneFault := s.issue.faults.map (nestFault s.ig)

/-- TRAP_DECISION (R441, R444–R447): stalled lanes go back to their chain; a grid-fatal fault ends the grid; otherwise the
lanes of the lowest class enter the handler if TSET is empty, and every other faulting lane is deferred. -/
def State.trapDecide (s : State) : State :=
  let s := s.issue.stalls.foldl (fun s (l, va) => s.unissue l va) s
  let fs := s.faultsNested
  let trapv := s.ir.trapv
  let s' := match fs.filter (·.isFatal trapv) with
    | f :: r => s.logFaults.trapFatal (f :: r)
    | [] =>
      if fs = [] then s
      else if s.ig.tset = 0 then
        let c := lowestClass fs
        let s := if c = 0x0B then s.logFaults else s
        let s := s.trapEntry (fs.filter fun (f : LaneFault) => causeClass f.cause == c) trapv
        (fs.filter fun (f : LaneFault) => !(causeClass f.cause == c)).foldl (fun s (f : LaneFault) => s.deferLane f.lane) s
      else fs.foldl (fun s (f : LaneFault) => s.deferLane f.lane) s
  { s' with issue := { s'.issue with faults := [], stalls := [] } }

/-- The threads that have entered the handler since a state `b`, at a decision of their own, become ready there 4 clocks later (R442). -/
def State.handlerDelay (s b : State) : State :=
  { s with
    nextId := s.nextId + 1
    threads := s.threads.mapIdx fun t th =>
      if (s.group th.grp).t0 + th.lane == t && laneIn (s.group th.grp).tset th.lane && !laneIn (b.group th.grp).tset th.lane then
        { th with delay := some (s.nextId, 4) }
      else th }

/-- The chain's faults are decided when its class D word's result is ready (R442). -/
def State.putDecision (s : State) (lat : Nat) : State :=
  let s := s.issue.stalls.foldl (fun s (l, va) => s.unissue l va) s
  let u := { s.issue with collect := false, stalls := [] }
  let ls := u.lanes.filter fun l => !s.issue.stalls.any fun x => x.1 == l
  { s with decs := s.decs ++ [{ lat, issue := { u with lanes := ls } }], issue := { u with faults := [] } }

/-- Has a thread issued a chain whose decision is to come? It issues no later one before (R442). -/
def State.deciding (s : State) (t : Nat) : Bool :=
  s.decs.any fun d => d.issue.grp == (s.thread t).grp && d.issue.lanes.contains (s.thread t).lane

/-- May a decision be taken: is no earlier one of its group due no later (R445)? -/
def State.decidable (s : State) (d : Decision) : Bool :=
  !((s.decs.takeWhile (· != d)).any fun x => x.issue.grp == d.issue.grp && decide (x.lat ≤ d.lat))

/-- A decision that was to come is taken, against TSET as it now stands (R445). -/
def State.decideLater (s : State) (d : Decision) : State :=
  ({ s with decs := s.decs.erase d, issue := d.issue }).trapDecide

/-- The end of a meaning: the chain's faults are decided now, unless the step collects them for the whole chain. -/
def State.finish (s : State) : State := if s.issue.collect then s else s.trapDecide

/-- Leaving the trap set (R463): the pc and SPR of each return. -/
def Thread.trapReturn (th : Thread) (skip : Bool) : Thread :=
  if skip then { th with spr := 0, pc := th.tnpc } else { th with spr := th.tspr, pc := th.tpc }

/-- Deferred threads of a group become ready with age 0 (R444, R463). -/
def State.wakeDeferred (s : State) (g : Nat) : State :=
  (List.range (s.group g).w).foldl (fun s l => s.onThread ((s.group g).t0 + l) fun th =>
    if th.wait = .deferred then { th with wait := .none, age := 0 } else th) s

end Machine
end Sys2Proof
end

