-- ==== Sys2Proof/Machine/Operands.lean ====
section
/-! DEFINITION. Operand forms (R44–R47, R64–R67, R72, R79, R80, R112, R113): where an operand's slices lie, what it reads, how
a result is written, the latches of a run (R39, R40), and the fold of a word over its issue set with guards, index bounds
and poison marks. -/

namespace Sys2Proof
namespace Machine
open Host

/-- The physical slice of a view slice (R65). -/
def Thread.phys (th : Thread) (g v : Nat) : Nat := if v < g then v else v + th.fb.toNat

/-- The physical slices an operand of n slices covers (R65, R66, R80). -/
def Thread.locate (th : Thread) (g : Nat) (o : Operand) (n : Nat) : List Nat :=
  match o.sel with
  | .slice v => (List.range n).map fun k => th.phys g (v.val + k)
  | .index k =>
    let x := th.x.getD k.val default
    let p := x.base.toNat + x.idx.toNat * (Width.ofCode x.ew).slices
    (List.range n).map fun j => p + j
  | _ => []

/-- An indexed operand whose last slice is at or above its limit: TINFO of the index bounds fault (R80). -/
def Thread.boundsFault (th : Thread) (o : Operand) (n : Nat) : Option Word :=
  match o.sel with
  | .index k =>
    let x := th.x.getD k.val default
    let p := x.base.toNat + x.idx.toNat * (Width.ofCode x.ew).slices
    if x.lim.toNat < p + n then some ((x.idx.setWidth 64 <<< 48) ||| BitVec.ofNat 64 k.val) else none
  | _ => none

/-- An operand that its instruction, the lane's allocation or the run does not allow; a range of more than 960 slices always leaves
the view (R89). -/
def Thread.illegalUse (th : Thread) (g n : Nat) (latched : List Nat) (u : Use) : Bool :=
  !u.rule.allows u.o || !u.ws.contains u.o.w ||
    (match u.o.sel with
      | .slice _ => (th.locate g u.o u.count).any fun p => decide (n ≤ p)
      | .latch k => !latched.contains k.val
      | .index _ => decide (960 < u.count)
      | _ => false)

/-- The domain of a lane (R112). -/
def affDomain (w l : Nat) : Nat := if w = 64 then l / 32 else 0

/-- An affine register of the group in a lane's domain. -/
def Group.affReg (g : Group) (l n : Nat) : AffReg := (g.aff.getD (affDomain g.w l) []).getD n (.promoted 0 0)

/-- A lane's value of an affine register (R113). -/
def affValue (r : AffReg) (l : Nat) : Word :=
  match r with
  | .promoted β σ => wordOf (β.toNat + σ.toInt * l)
  | .demoted β off => wordOf (β.toNat + (off.getD (l % 32) 0).toInt)

/-- The global slice count G of the issuing grid. -/
def State.gs (s : State) : Nat := s.ir.g.toNat

/-- An operand's own value at its own width (R67), with a latch extended or truncated as R40 says. -/
def State.opRaw (s : State) (l : Nat) (o : Operand) : Word :=
  let th := s.lt l
  match o.sel with
  | .slice _ | .index _ => sliceWord ((th.locate s.gs o o.w.slices).map th.slice)
  | .latch k =>
    let (v, w) := th.latches.getD k.val (0, .w4)
    truncW o.w.bits (if o.w.bits ≤ w.bits then v else extendW o.x w.bits v)
  | .affine n => truncW o.w.bits (affValue (s.ig.affReg l n.val) l)
  | .zero => 0
  | .lane => truncW o.w.bits (BitVec.ofNat 64 l)
  | .grp => truncW o.w.bits (BitVec.ofNat 64 s.ig.gi)
  | .team => truncW o.w.bits (BitVec.ofNat 64 (s.team s.ig.team).ti)
  | .ones => truncW o.w.bits (BitVec.allOnes 64)
  | .reserved _ => 0

/-- src(l, A, w): a source extended by its X bit or truncated to w bits (R67). -/
def State.src (s : State) (l : Nat) (o : Operand) (w : Nat) : Word :=
  let v := s.opRaw l o
  truncW w (if w ≤ o.w.bits then v else extendW o.x o.w.bits v)

/-- val(l, S, w): a source's integer value, signed when its X bit is 1 (R98). -/
def State.val (s : State) (l : Nat) (o : Operand) (w : Nat) : Int :=
  if o.x then sval w (s.src l o w) else uval w (s.src l o w)

/-- The value a destination holds, at its own width. -/
def State.dstVal (s : State) (l : Nat) (o : Operand) : Word :=
  let th := s.lt l
  sliceWord ((th.locate s.gs o o.w.slices).map th.slice)

/-- A word on an arithmetic pipe records its latch (R39). -/
def State.setLatch (s : State) (l : Nat) (v : Word) (w : Width) : State :=
  match s.issue.latch with
  | some k => s.onLane l fun th => { th with latches := th.latches.set k (v, w) }
  | none => s

/-- dst(l, D, v): writes the low bits of a value to D's slices, unless the no-write-back bit is set (R44, R67). -/
def State.dst (s : State) (l : Nat) (o : Operand) (v : Word) : State :=
  if o.x then s
  else s.writeSlices l ((s.lt l).locate s.gs o o.w.slices) (sliceVals o.w.slices v)

/-- An arithmetic result: D and the latch (R39, R67). -/
def State.result (s : State) (l : Nat) (o : Operand) (v : Word) : State :=
  (s.dst l o v).setLatch l (truncW o.w.bits v) o.w

/-- The latch of a lane whose guard is false: what D's slices hold, or zero without write-back (R39). While a load into D is still
pending its value is not known; DESIGN CHOICE: the latch then records what the register string holds, and zero for slices of an indexed D
that lie out of its bounds or beyond the lane's slices (log entry 50). -/
def offResult (o : Operand) (s : State) (l : Nat) : State :=
  s.setLatch l (if o.x then 0 else s.dstVal l o) o.w

/-- The latch of a word that produces no value: zero at width 4 (R39). -/
def offNone (s : State) (l : Nat) : State := s.setLatch l 0 .w4

/-- A word without a latch (memory/engine pipe, class E, class F). -/
def offMem (s : State) (_l : Nat) : State := s

/-- A predicate slice as it stands. -/
def State.predSlice (s : State) (l : Nat) (p : PredBit) : BitVec 4 := ((s.lt l).slice p.slice.toNat).v

/-- Writes one bit of a predicate slice (R110): SET, AND or OR with the bit that is there. -/
def predBitSet (old : BitVec 4) (p : PredBit) (m : PMode) (c : Bool) : BitVec 4 :=
  let b := old.getLsbD p.bit.toNat
  let n := match m with | .set => c | .and => b && c | .or => b || c
  if n then old ||| (1#4 <<< p.bit.toNat) else old &&& ~~~(1#4 <<< p.bit.toNat)

/-- Writes a predicate slice of a lane. -/
def State.setPred (s : State) (l : Nat) (p : PredBit) (v : BitVec 4) : State :=
  s.writeSlices l [p.slice.toNat] [{ v, poison := false }]

/-! ## The fold of a word over the issue set -/

/-- What a word does for one lane. -/
inductive LaneRes
  | ok (s : State)
  | fault (cause : Nat) (info : Word)
  /-- no effect yet; the address whose translation it misses, if that is why -/
  | stall (va : Option Nat)

/-- The first indexed operand of a word that leaves its bounds in a lane (R80). -/
def State.indexFault (s : State) (l : Nat) (us : List Use) : Option Word :=
  us.findSome? fun u => if u.rule = .ix then none else (s.lt l).boundsFault u.o u.count

/-- The physical slices of a lane that a word reads under R72: guard, predicate and the operands that fault on a mark. -/
def State.markReads (s : State) (l : Nat) (us : List Use) (preds : List Nat) : List Nat :=
  preds ++ us.flatMap fun u => if u.rd && u.pz then (s.lt l).locate s.gs u.o u.count else []

/-- The lowest marked slice among slices of a lane. -/
def State.lowestMark (s : State) (l : Nat) (ps : List Nat) : Option Nat :=
  ps.foldl (fun m p => if ((s.lt l).slice p).poison then
    (match m with | none => some p | some q => if p < q then some p else some q) else m) none

/-- TINFO of a marked slice (R72). -/
def markInfo (p : Nat) : Word := BitVec.ofNat 64 (2 ^ 63 + p)


/-- Does the guard hold in the lane (R42)? -/
def State.guardHolds (s : State) (l : Nat) (g : Guard) : Bool :=
  match g with
  | .always => true
  | .on neg bit p => ((s.lt l).slice p.toNat).v.getLsbD bit.toNat != neg

/-- The faults every word makes on its operands in a lane: index bounds (0x05, R80), then a marked slice (0x0B, R72). -/
def State.operandFault (s : State) (l : Nat) (i : Instr) (us : List Use) : Option (Nat × Word) :=
  match s.indexFault l us with
  | some info => some (0x05, info)
  | none =>
    match s.lowestMark l (s.markReads l us (i.markedGuard ++ i.predRead)) with
    | some p => some (0x0B, markInfo p)
    | none => none

/-- One lane of a word: a marked guard faults, with the lowest marked slice that the word reads (R72); a false guard does nothing but
its latch, an operand fault is recorded, and otherwise the word's own effect. -/
def State.lane (s : State) (i : Instr) (us : List Use) (off : State → Nat → State) (f : State → Nat → LaneRes) (l : Nat) :
    State :=
  match s.lowestMark l i.markedGuard with
  | some p => s.fault l 0x0B (markInfo ((s.lowestMark l (s.markReads l us (i.markedGuard ++ i.predRead))).getD p))
  | none =>
    if s.guardHolds l i.guard then
      match s.operandFault l i us with
      | some (c, info) => s.fault l c info
      | none => match f s l with
        | .ok s' => s'
        | .fault c info => s.fault l c info
        | .stall va => s.stall l va
    else off s l

/-- A word's fold over the issue set, its fold's result completed by `post` before the trap decision. -/
def State.lanesThen (s : State) (i : Instr) (off : State → Nat → State) (f : State → Nat → LaneRes) (post : State → State) :
    State :=
  (post (s.issue.lanes.foldl (fun s l => s.lane i i.uses off f l) s)).finish

/-- A word in which each thread of the issue set acts for itself. -/
def State.lanes (s : State) (i : Instr) (off : State → Nat → State) (f : State → Nat → LaneRes) : State :=
  s.lanesThen i off f fun s => s

/-- A word of which each lane's effect is total. -/
def State.lanesOk (s : State) (i : Instr) (off : State → Nat → State) (f : State → Nat → State) : State :=
  s.lanes i off fun s l => .ok (f s l)

/-- A word that writes one value to D in each lane. -/
def State.lanesVal (s : State) (i : Instr) (d : Operand) (f : State → Nat → Word) : State :=
  s.lanesOk i (offResult d) fun s l => s.result l d (f s l)

/-- An arrival at a class F word that a thread waits at already, with its address (R198). -/
def Thread.arrival (th : Thread) : Option (Wait × Word) :=
  match th.wait with
  | .cross _ _ _ => some (th.wait, th.waitAt)
  | _ => th.held

/-- A lane waits from now on at the word being executed, and resumes at its pc when released; an arrival of the same chain stands
beside the wait. -/
def State.waitLane (s : State) (l : Nat) (w : Wait) : State :=
  s.onLane l fun th =>
    { th with wait := w, waitAt := s.issue.wordAddr, waitNext := s.issue.skipPc, waitWord := s.issue.word, waitIss := s.issue.iss,
              waitRun := s.issue.runPc, held := th.arrival }

/-- The join mask in whose arrival set a lane of a group is, if any (R175). -/
def Group.arrivedAt (g : Group) (l : Nat) : Option Nat := (List.range 12).find? fun n => laneIn (g.a.getD n 0) l

/-- A thread whose wait ends: it waits on at the class F word of its chain that it has arrived at (R198), or at the JWAIT that its
chain arrived at, or is ready with age 0 (R170). -/
def Thread.resume (at_ : Option Nat) (th : Thread) : Thread :=
  match th.held with
  | some (w, a) => { th with wait := w, waitAt := a, held := none }
  | none => { th with age := 0, wait := match at_ with | some n => .jwait n | none => .none }

/-- A thread's wait ends. -/
def State.endWait (s : State) (t : Nat) : State :=
  let g := s.group (s.thread t).grp
  s.onThread t fun th => th.resume (g.arrivedAt th.lane)

/-- The non-exited lanes of the issuing domain: the whole group, or the half of a 64-lane group that issues (R268, R295). -/
def State.domain (s : State) : List Nat :=
  s.live.filter fun l => affDomain s.ig.w l == affDomain s.ig.w (s.issue.lanes.headD 0)

/-- Is every non-exited lane of the domain in the issue set, outside a handler (R268, R446)? -/
def State.whole (s : State) : Bool :=
  s.issue.sure || s.domain.all (fun l => s.issue.lanes.contains l) && s.issue.lanes.all fun l => !laneIn s.ig.tset l

/-- A word that acts once for the whole group or half: partial participation (0x04) unless every non-exited lane issues. -/
def State.groupWord (s : State) (f : State → State) : State := if s.whole then (f s).finish else (s.faultAll 5 0x04 0).finish

/-- The lanes whose guard holds, with a marked guard left out. -/
def State.guarded (s : State) (i : Instr) : List Nat :=
  s.issue.lanes.filter fun l => (s.lowestMark l (guardSlices i.guard)).isNone && s.guardHolds l i.guard

/-- The uses of a group-level word that count for lane l: a uniform operand only for the lowest lane. -/
def lowUses (us : List Use) (l l0 : Nat) : List Use := us.filter fun u => !u.uni || l == l0

/-- The lanes of the issue set whose guard holds and whose operands do not fault: the executing lanes. -/
def State.executing (s : State) (i : Instr) : List Nat :=
  s.issue.lanes.filter fun l =>
    (s.lowestMark l i.markedGuard).isNone && s.guardHolds l i.guard && (s.operandFault l i i.uses).isNone

end Machine
end Sys2Proof
end

