-- ==== Sys2Proof/Machine/Memory.lean ====
section
/-! DEFINITION. The memory system (09, 10): memories with poison marks, translation, which value a load returns, and the
performance of an access at its point (R238). -/

namespace Sys2Proof
namespace Machine
open Host

/-! ## Memories with poison marks -/

/-- n bytes from an address. -/
def Mem.read (m : Mem) (a n : Nat) : List Byte := memBytes m.bytes a n

/-- The 32-byte units that n bytes from an address touch (R143). -/
def unitsOf (a n : Nat) : List Nat := if n = 0 then [] else List.range' (a / 32) ((a + n - 1) / 32 - a / 32 + 1)

/-- Is the unit poisoned? -/
def Mem.unitPz (m : Mem) (u : Nat) : Bool := assocGet false m.pz u

/-- Does a poisoned unit cover one of the bytes? -/
def Mem.pzIn (m : Mem) (a n : Nat) : Bool := (unitsOf a n).any m.unitPz

/-- The poison bit of a unit after a store of n bytes at an address (R143). -/
def pzAfter (old bad : Bool) (a n u : Nat) : Bool :=
  if bad then true else if a ≤ 32 * u ∧ 32 * u + 32 ≤ a + n then false else old

/-- Stores bytes with the poison state of the data (R143). -/
def Mem.write (m : Mem) (a : Nat) (bs : List Byte) (bad : Bool) : Mem :=
  { bytes := memPut m.bytes a bs
    pz := (unitsOf a bs.length).foldl (fun p u => assocSet false p u (pzAfter (assocGet false p u) bad a bs.length u)) m.pz }

/-- The canonical form of both maps. -/
def Mem.wf (m : Mem) : Bool := Memory.wf m.bytes && assocWf false none m.pz

/-- The memory of a space and its owner (Table 9.1). -/
def State.mem (s : State) (sp : Space) (owner : Nat) : Mem :=
  match sp with
  | .glob => s.hbm
  | .core => (s.team owner).scratch
  | .cluster => (s.cluster owner).cmem
  | .chip => s.chip

/-- Changes the memory of a space. -/
def State.onMem (s : State) (sp : Space) (owner : Nat) (f : Mem → Mem) : State :=
  match sp with
  | .glob => { s with hbm := f s.hbm }
  | .core => s.onTeam owner fun t => { t with scratch := f t.scratch }
  | .cluster => s.onCluster owner fun c => { c with cmem := f c.cmem }
  | .chip => { s with chip := f s.chip }

/-- TINFO of the lowest poisoned unit of a range of core scratchpad that an instruction consumes in place (R143, R145). -/
def State.corePoison (s : State) (team a n : Nat) : Option Word :=
  ((unitsOf a n).find? (s.team team).scratch.unitPz).map fun u => BitVec.ofNat 64 (32 * u % 2 ^ 57)

/-! ## Privileged registers per ASID -/

/-- A per-ASID register (Table 18.2). -/
def State.areg (s : State) (asid n : Nat) : Word := assocGet 0 s.aregs (asid * 1024 + n)

/-- Sets a per-ASID register. -/
def State.setAreg (s : State) (asid n : Nat) (v : Word) : State :=
  { s with aregs := assocSet 0 s.aregs (asid * 1024 + n) v }

/-- CSWIN.BASE in bytes (Table 9.3). -/
def State.cswBase (s : State) (asid : Nat) : Nat := (s.areg asid 0x300).toNat % 256 * 2 ^ 20

/-- CSWIN.SIZE in bytes (Table 9.3). -/
def State.cswSize (s : State) (asid : Nat) : Nat := (s.areg asid 0x300).toNat / 2 ^ 32 % 256 * 2 ^ 20

/-! ## Ranges -/

/-! ## Home slices (R14–R16) -/

/-- The die of a tile: four quadrants of the 16 × 16 mesh (R14). -/
def dieOf (tile : Nat) : Nat := tile % 16 / 8 + 2 * (tile / 128)

/-- The KV range's first address (R362). -/
def kvBase : Nat := 2 ^ 56

/-- The logical page of a KV-range address (R362). -/
def kvPage (va : Nat) : Option Nat :=
  if kvBase ≤ va ∧ (va - kvBase) / 65536 < 2 ^ 22 then some ((va - kvBase) / 65536) else none

/-- The slice whose role holds the line of an address: by the hash (R16), or by the stated rules of the chip scratchpad (R211) and of the
KV range (R362). -/
def homeRole (sp : Space) (owner a : Nat) : Nat :=
  if sp = .glob then (match kvPage a with | some p => p % 256 | none => Config.homeSlice owner (a / 256) % 256)
  else a / 256 % 256

/-- The slice that plays a role: the patch slice of the die for a failed one (R15). -/
def State.served (s : State) (role : Nat) : Nat :=
  if assocGet none s.remap (dieOf role) = some role then 256 + dieOf role else role

/-- The home slice of an address (R16). -/
def State.homeOf (s : State) (sp : Space) (owner a : Nat) : Nat := s.served (homeRole sp owner a)

/-- Do two byte ranges overlap? -/
def overlap (a n b m : Nat) : Bool := decide (a < b + m) && decide (b < a + n)

/-- The size of a space for the issuing group (Table 9.1). -/
def State.spaceSize (s : State) (sp : Space) : Nat :=
  match sp with
  | .glob => 2 ^ 57
  | .core => 256 * s.ir.scr.toNat
  | .cluster => 256 * s.ir.cmem.toNat * s.ir.tpc.toNat
  | .chip => s.cswSize s.iasid

/-- The owner of a space for the issuing group. -/
def State.spaceOwner (s : State) (sp : Space) : Nat :=
  match sp with
  | .glob | .chip => s.iasid
  | .core => s.ig.team
  | .cluster => (s.team s.ig.team).cluster

/-- R225's code of a space. -/
def Space.code : Space → Nat
  | .glob => 0
  | .core => 1
  | .cluster => 2
  | .chip => 3

/-- TINFO of a precise permission fault (R225). -/
def permInfo (code a : Nat) : Word := BitVec.ofNat 64 (code * 2 ^ 60 + a % 2 ^ 57)

/-- TINFO of an imprecise permission fault (R225). -/
def permLate (code a : Nat) : Word := BitVec.ofNat 64 (2 ^ 63 + code * 2 ^ 60 + a % 2 ^ 57)

/-- Is an access of n bytes legal in a space (R210)? -/
def State.inSpace (s : State) (sp : Space) (a n : Nat) : Bool := decide (a + n ≤ s.spaceSize sp)

/-! ## Aperture windows (R226, R227) -/

/-- An aperture record (Table 9.7). -/
structure Aper where
  aux : Nat
  src : Nat
  en : Bool
  xf : Nat
  ep : Nat
  wbase : Nat
  wsize : Nat
deriving DecidableEq, Repr, Inhabited

/-- The record of aperture n of an ASID (Table 9.7). -/
def State.aper (s : State) (asid n : Nat) : Aper :=
  let w0 := (s.areg asid (0x310 + 3 * n)).toNat
  let w1 := (s.areg asid (0x311 + 3 * n)).toNat
  let w2 := (s.areg asid (0x312 + 3 * n)).toNat
  { aux := w2 % 2 ^ 57, src := w1 % 2 ^ 57, en := w0 / 2 ^ 63 % 2 = 1, xf := w0 / 2 ^ 60 % 8, ep := w0 / 2 ^ 57 % 8,
    wbase := w0 / 65536 % 2 ^ 41 * 65536, wsize := (w0 % 65536 + 1) * 65536 }

/-- The aperture that serves a global address, if any (R227). -/
def State.window (s : State) (asid a : Nat) : Option Aper :=
  ((List.range 16).map (s.aper asid)).find? fun p => p.en && decide (p.wbase ≤ a) && decide (a < p.wbase + p.wsize)

/-- Does a byte of a global range lie in an enabled window (R227)? -/
def State.windowHit (s : State) (asid a n : Nat) : Option Nat :=
  ((List.range 16).map (s.aper asid)).foldl (fun m p =>
    if p.en && overlap a n p.wbase p.wsize then
      (let x := Nat.max a p.wbase; match m with | none => some x | some y => some (Nat.min x y))
    else m) none

/-! ## Translation (R218–R220, R362) -/

/-- What a translation finds: an address and permissions, a translation fault, or a malformed entry. -/
inductive Xl
  | ok (pa : Nat) (r w x : Bool)
  | miss
  | bad
deriving DecidableEq, Repr

/-- HBM4's size. -/
def hbmSize : Nat := 768 * 2 ^ 30

/-- Index shifts and widths of the levels (Table 9.4). -/
def xlLevels : List (Nat × Nat) := [(48, 9), (39, 9), (30, 9), (21, 9), (16, 5)]

/-- The alignment of what an entry of level k names (Table 9.4). -/
def pteAlign (k : Nat) (leaf : Bool) : Nat :=
  if leaf then (if k = 3 then 2 ^ 21 else 2 ^ 16) else if k = 3 then 256 else 4096

/-- A malformed entry (R219). -/
def pteBad (k v : Nat) : Bool :=
  let leaf := decide (v / 2 % 2 = 1)
  let pa := v / 256 % 2 ^ 48 * 256
  decide (v / 2 ^ 56 ≠ 0) || decide (v / 32 % 8 ≠ 0) || (leaf && decide (k < 3)) || (!leaf && decide (k = 4)) ||
    (decide (v / 4 % 2 = 0) && decide (v / 8 % 4 ≠ 0)) || decide (hbmSize ≤ pa) || decide (pa % pteAlign k leaf ≠ 0)

/-- Is a physical page mapped at two addresses, once of them writably? Its contents are then undefined (R215). A mapping counts from the
first access that finds it: DESIGN CHOICE (log entry 53). -/
def State.aliased (s : State) (pa : Nat) : Bool :=
  let here := s.maps.filter fun n => n.ppage == pa / 65536
  decide (1 < here.length) && here.any (·.w)

/-- A page is mapped at two addresses no more: its contents are left undefined, in this phase too (R215). -/
def State.undefine (s : State) (page : Nat) : State :=
  let a := 65536 * page
  { s.next with
    hbm := { s.hbm with bytes := memPut s.hbm.bytes a ((List.range 65536).map (Config.freeByte s.tick)) }
    recs := s.recs.filter fun r => !overlap r.pa r.len a 65536 }

/-- Bytes of HBM4 within one page, as hardware reads them by physical address. -/
def State.hbmSeen (s : State) (a n : Nat) : List Byte :=
  if s.aliased a then (List.range n).map (Config.freeByte s.tick) else s.hbm.read a n

/-- Reads a translation entry: as the table holds it, or with a value that was read before and not invalidated since (R220). -/
def State.readPte (s : State) (asid ea : Nat) : Nat × State :=
  let v := leNat (s.hbmSeen ea 8)
  let s := if s.ptes.any (· == { asid, ea, val := v }) then s else { s with ptes := { asid, ea, val := v } :: s.ptes }
  match (s.ptes.filter fun p => p.asid == asid && p.ea == ea).map (·.val) with
  | a :: b :: r => ((a :: b :: r).getD (s.choose (r.length + 2)) v, s.next)
  | _ => (v, s)

/-- The walk from level k down (R218, R219). -/
def State.walk (asid va : Nat) : List (Nat × Nat) → Nat → Nat → State → Xl × State
  | [], _, _, s => (.bad, s)
  | (sh, n) :: r, k, table, s =>
    let (v, s) := s.readPte asid (table + 8 * (va / 2 ^ sh % 2 ^ n))
    if v % 2 = 0 then (.miss, s)
    else if pteBad k v then (.bad, s)
    else
      let pa := v / 256 % 2 ^ 48 * 256
      if v / 2 % 2 = 1 then (.ok (pa + va % 2 ^ sh) (v / 4 % 2 = 1) (v / 8 % 2 = 1) (v / 16 % 2 = 1), s)
      else State.walk asid va r (k + 1) pa s

/-- A sequence by its number. -/
def State.seq (s : State) (q : Nat) : Option Seq := assocGet none s.seqs q

/-- Does a page-list entry of some sequence of the ASID name the page (R362)? -/
def State.kvNamed (s : State) (asid p : Nat) : Bool :=
  s.seqs.any fun (_, q) => match q with
    | some q => q.asid == asid && q.pages.any fun b => b.contains (some p)
    | none => false

/-- Is a KV page offloaded (R390)? -/
def State.isOff (s : State) (p : Nat) : Bool := s.kvOff.any fun x => x.page == p

/-- Translates an address of an ASID. A line in the LLC may be hit with what it recorded, or have left and be walked anew. -/
def State.xlateLine (s : State) (asid va : Nat) : Xl × State :=
  match kvPage va with
  | some p =>
    if (s.areg asid 0x302).getLsbD 0 = false || !s.kvNamed asid p then (.bad, s)
    else if s.isOff p then (.miss, s)
    else (.ok va true false false, s)
  | none =>
    if 2 ^ 57 ≤ va then (.bad, s) else
    let la := va / 256 * 256
    let (x, s) := match assocGet none s.roots asid with
      | none => (Xl.miss, s)
      | some root => State.walk asid va xlLevels 0 root s
    let put (s : State) : State := match x with
      | .ok pa r w e => { s with lines := { asid, la, pa := pa / 256 * 256, r, w, x := e, valid := 0, dirty := 0, mask := 0 } ::
          (s.lines.filter fun (n : Line) => !(n.asid == asid && n.la == la)) }
      | _ => s
    match s.lines.find? fun n => n.asid == asid && n.la == la with
    | none => (x, put s)
    | some n =>
      let hit : Xl := .ok (n.pa + va % 256) n.r n.w n.x
      if hit = x then (x, s) else if s.choose 2 = 0 then (hit, s.next) else (x, put s.next)

/-- An access has found a page at an address (R215), writably if it or one before it did. -/
def State.noteMap (s : State) (asid va pa : Nat) (w : Bool) : State :=
  let same (x : Mapping) : Bool := x.asid == asid && x.vpage == va / 65536 && x.ppage == pa / 65536
  if s.maps.any fun x => same x && (x.w || !w) then s
  else { s with maps := { asid, vpage := va / 65536, ppage := pa / 65536, w } :: s.maps.filter fun x => !same x }

/-- Translates an address of an ASID, and keeps note of the mapping found. -/
def State.xlate (s : State) (asid va : Nat) : Xl × State :=
  match s.xlateLine asid va with
  | (.ok pa r w x, s) => (.ok pa r w x, if (kvPage va).isSome then s else s.noteMap asid va pa w)
  | y => y

/-- The permissions to load and to store that a line recorded, if an access of the core at issue may hit it in L1 or the LLC (R214,
R225). -/
def State.hitLine (s : State) (core asid va : Nat) : Option (Bool × Bool) :=
  match s.l1.find? fun n => n.core == core && n.asid == asid && n.la == va / 128 * 128 with
  | some n => some (n.r, n.w)
  | none => (s.lines.find? fun n => n.asid == asid && n.la == va / 256 * 256).map fun n => (n.r, n.w)

/-- A load fills the core's L1 with the line it read, which copies the permissions (R213): 128 sets of 8 ways; which way leaves a full set
is not stated, the model takes the line filled longest ago. -/
def State.fillL1 (s : State) (core asid va : Nat) : State :=
  match s.lines.find? fun n => n.asid == asid && n.la == va / 256 * 256 with
  | none => s
  | some n =>
    let la := va / 128 * 128
    let old := s.l1.filter fun m => !(m.core == core && m.asid == asid && m.la == la)
    let same (m : L1Line) : Bool := m.core == core && m.la / 128 % 128 == la / 128 % 128
    { s with l1 := { core, asid, la, r := n.r, w := n.w } :: ((old.filter same).take 7 ++ old.filter fun m => !same m) }

/-- The bits of an LLC line that bytes from an address touch, one for each unit of so many bytes (R213). -/
def lineBits (va n size : Nat) : Nat :=
  (List.range (256 / size)).foldl (fun v k => if overlap (va % 256) n (size * k) size then v + 2 ^ k else v) 0

/-- An access reaches an LLC line: a load fills the sectors it reads, a store marks its words and their sectors dirty (R213). -/
def State.useLine (s : State) (asid va n : Nat) (store : Bool) : State :=
  let f (m : Line) : Line :=
    if store then { m with dirty := m.dirty ||| BitVec.ofNat 4 (lineBits va n 64), mask := m.mask ||| BitVec.ofNat 64 (lineBits va n 4) }
    else { m with valid := m.valid ||| BitVec.ofNat 4 (lineBits va n 64) }
  { s with lines := s.lines.map fun m => if m.asid == asid && m.la == va / 256 * 256 then f m else m }

/-! ## Which value a load of global memory returns (R241, R248, R249) -/

/-- Who makes an access, the chain it belongs to, and whether it never takes its value from L1 (R217, R227, R258). -/
structure Who where
  grid : Option Nat
  core : Nat
  thread : Option Nat
  strong : Bool
  chain : Word
  fresh : Bool := false
deriving DecidableEq, Repr

/-- Does the record touch a byte? -/
def AccRec.touches (r : AccRec) (b : Nat) : Bool := decide (r.pa ≤ b) && decide (b < r.pa + r.len)

/-- The byte a store left. -/
def AccRec.newByte (r : AccRec) (b : Nat) : Byte := r.new.getD (b - r.pa) 0

/-- The poison bit a store left on a unit. -/
def AccRec.pzLeft (r : AccRec) (u : Nat) : Bool := r.newPz.getD (u - r.pa / 32) false

/-- What a recorded store does to a unit's poison bit (R143): one of part of a unit leaves the bit as it found it, unless its data was
poisoned or a soft error has struck the unit since. -/
def AccRec.pzStep (r : AccRec) (u : Nat) (old : Bool) : Bool :=
  if r.pa ≤ 32 * u ∧ 32 * u + 32 ≤ r.pa + r.len then r.pzLeft u
  else if r.bad then true
  else if r.oldPz.getD (u - r.pa / 32) false then old else old || r.pzLeft u

/-- Records in the present phase of a grid. -/
def State.openRecs (s : State) (grid : Option Nat) : List AccRec :=
  match grid with
  | some g => s.recs.filter fun r => r.opens.contains g
  | none => []

/-- Is a byte raced among the records and one more access of it (R248)? -/
def racedWith (rs : List AccRec) (w : Who) (store : Bool) (b : Nat) : Bool :=
  let rs := rs.filter (·.touches b)
  let race (o : AccRec) : Bool :=
    o.store && !o.strong &&
      ((if w.strong then o.thread != w.thread else o.core != w.core) ||
        rs.any fun r => if r.strong then r.thread != o.thread else r.core != o.core)
  rs.any race || (store && !w.strong && rs.any fun r => if r.strong then r.thread != w.thread else r.core != w.core)

/-- The start-of-phase byte: what the first store of the phase found, else the present one. -/
def sopByte (m : Mem) (rs : List AccRec) (b : Nat) : Byte :=
  match rs.find? fun r => r.store && r.touches b with
  | some r => r.old.getD (b - r.pa) 0
  | none => memGet m.bytes b

/-- The start-of-phase poison bit of a unit. -/
def sopPz (m : Mem) (rs : List AccRec) (u : Nat) : Bool :=
  match rs.find? fun r => r.store && (unitsOf r.pa r.len).contains u with
  | some r => r.oldPz.getD (u - r.pa / 32) false
  | none => m.unitPz u

/-- The loading thread's own latest store to a byte (R212). -/
def ownStore (rs : List AccRec) (w : Who) (b : Nat) : Option AccRec :=
  rs.reverse.find? fun r => r.store && r.thread == w.thread && w.thread.isSome && r.touches b

/-- The word at wb as one version has it, limited to the bytes bs: start-of-phase bytes, a store's bytes over them, and the
thread's own stores over both; and the poison bit, that of the version as the own stores leave it (R143). -/
def version (m : Mem) (rs : List AccRec) (w : Who) (bs : List Nat) (v : Option AccRec) : List Byte × Bool :=
  let byte (b : Nat) : Byte :=
    match ownStore rs w b with
    | some r => r.newByte b
    | none => match v with
      | some r => if r.touches b then r.newByte b else sopByte m rs b
      | none => sopByte m rs b
  let u := bs.headD 0 / 32
  let mine := bs.filterMap (ownStore rs w)
  let bit := match v with | some r => r.pzLeft u | none => sopPz m rs u
  (bs.map byte,
    if mine.length = bs.length then (rs.reverse.find? mine.contains).any (·.pzLeft u)
    else mine.eraseDups.foldl (fun b r => r.pzStep u b) bit)

/-- The word at wb, limited to the bytes bs, as the first n stores of the phase left it; and the poison bit that the last of them left. -/
def wordAfter (m : Mem) (rs st : List AccRec) (bs : List Nat) (n : Nat) : List Byte × Bool :=
  let done := (st.take n).reverse
  (bs.map fun b => match done.find? (·.touches b) with | some r => r.newByte b | none => sopByte m rs b,
    match done with | r :: _ => r.pzLeft (bs.headD 0 / 32) | [] => sopPz m rs (bs.headD 0 / 32))

/-- The versions of a raced word that the core may still be given: a host write that its L1 has dropped the line since hides what is
older (R237). -/
def racedFrom (w : Who) (st : List AccRec) : List (Option AccRec) :=
  let host (r : AccRec) : Bool := r.thread.isNone && !r.strong && r.cut.contains w.core
  match (st.reverse.takeWhile fun r => !host r).reverse with
  | l => if l.length = st.length then none :: st.map some else (st.reverse.find? host) :: l.map some

/-- The versions a word may be returned at (R248 when raced, R249 otherwise: as the strong accesses left it in turn). A strong access never goes through L1 (R251). Of a raced word only the stores that `see` admits are returned. -/
def versions (m : Mem) (rs : List AccRec) (w : Who) (see : AccRec → Bool) (raced : Bool) (bs : List Nat) :
    List (List Byte × Bool) :=
  let st := rs.filter fun r => r.store && bs.any r.touches
  if raced then ((racedFrom w (st.filter see)).map (version m rs w bs)).eraseDups
  else if w.strong then []
  else if st.any fun r => r.strong && r.thread != w.thread then
    let isCut (r : AccRec) : Bool := w.fresh || r.cut.contains w.core || r.thread == w.thread
    let tail := (st.reverse.takeWhile fun r => !isCut r).length
    ((List.range (tail + 1)).map fun k => wordAfter m rs st bs (st.length - tail + k)).eraseDups
  else []

/-- The bytes of [a, a+n) grouped by aligned 4-byte word. -/
def wordsOf (a n : Nat) : List (List Nat) :=
  ((List.range (n + 1)).map fun k => ((List.range 4).map fun j => 4 * (a / 4 + k) + j).filter
    fun b => decide (a ≤ b) && decide (b < a + n)).filter fun l => l ≠ []

/-- The poison bit of the version of a unit that an unraced word comes from: without the ordinary stores of other cores (R143). -/
def State.unitSeen (s : State) (rs : List AccRec) (w : Who) (u : Nat) : Bool :=
  let st := rs.filter fun r => r.store && (unitsOf r.pa r.len).contains u
  if st.any fun r => r.core != w.core && !r.strong then
    (st.filter fun r => r.core == w.core || r.strong).foldl (fun b r => r.pzStep u b) (sopPz s.hbm rs u)
  else s.hbm.unitPz u

/-- The lower of two poisoned units. -/
def lowUnit : Option Nat → Option Nat → Option Nat
  | some a, some b => some (Nat.min a b)
  | some a, none => some a
  | none, b => b

/-- Reads global memory (R241, R248, R249, R251), of a raced word the stores that `see` admits: the bytes, and the lowest 32-byte unit
that delivers them poisoned. An ordinary load of a raced byte gives every word it covers so, a strong access only the raced words
(R248). -/
def State.readSeen (s : State) (w : Who) (see : AccRec → Bool) (pa n : Nat) : (List Byte × Option Nat) × State :=
  let rs := s.openRecs w.grid
  let any := !rs.isEmpty && (List.range n).any fun k => racedWith rs w false (pa + k)
  if s.aliased pa then (((List.range n).map (Config.freeByte s.tick), (unitsOf pa n).find? s.hbm.unitPz), s.next)
  else (wordsOf pa n).foldl (fun ((bs, pz), s) ws =>
    let raced := if w.strong then any && ws.any (racedWith rs w false) else any
    let vs := if rs.isEmpty then [] else versions s.hbm rs w see raced ws
    let u := ws.headD 0 / 32
    let bad (b : Bool) : Option Nat := lowUnit pz (if b then some u else none)
    if vs = [] then ((bs ++ ws.map (memGet s.hbm.bytes), bad (s.unitSeen rs w u)), s)
    else
      let v := vs.getD (s.choose vs.length) ([], false)
      ((bs ++ v.1, bad v.2), if 1 < vs.length then s.next else s)) (([], none), s)

/-- Reads global memory for an access that may see every store. -/
def State.readGlob (s : State) (w : Who) (pa n : Nat) : (List Byte × Option Nat) × State := s.readSeen w (fun _ => true) pa n

/-! ## Race detection (R258, R259) -/

/-- Grids that have started and not ended. -/
def State.runningGrids (s : State) : List Nat := (List.range s.grids.length).filter fun g => !(s.grid g).ended && (s.grid g).nextCl != 0

/-- Words recorded by the detector of a home slice in the present phase of a grid. -/
def State.detWords (s : State) (grid : Option Nat) (home : Nat) : List Nat :=
  (((s.openRecs grid).filter fun r => r.home == home).flatMap (·.det)).eraseDups

/-- Is detection on for a grid? -/
def State.detects (s : State) (grid : Option Nat) : Bool :=
  match grid with
  | some g => (s.grid g).race || (s.grid g).mix
  | none => false

/-- Adds the record of an access to a space; a detector has room for 8,192 words, records no new ones beyond them and sets LOST (R259). -/
def State.recordIn (s : State) (sp : Space) (w : Who) (asid va pa n : Nat) (store : Bool) (old new : List Byte)
    (oldPz newPz : List Bool) (bad mud : Bool) : State :=
  let on := s.detects w.grid
  let home := if on then s.homeOf sp asid va else 0
  let have_ := if on then s.detWords w.grid home else []
  let words := if on then (wordsOf pa n).map fun l => l.headD 0 / 4 else []
  let new_ := words.filter fun x => !have_.contains x
  let room := 8192 - have_.length
  let r : AccRec :=
    { opens := s.runningGrids, grid := w.grid, core := w.core, thread := w.thread, strong := w.strong, store,
      det := (words.filter have_.contains) ++ new_.take room, home, pa, len := n, old, new, oldPz, newPz, bad, mud, cut := [] }
  let s := if room < new_.length then s.setAreg asid 0x301 (s.areg asid 0x301 ||| 4) else s
  { s with recs := s.recs ++ [r] }

/-- Adds the record of an access to global memory. -/
def State.record (s : State) (w : Who) (asid va pa n : Nat) (store : Bool) (old new : List Byte) (oldPz newPz : List Bool) (bad : Bool) :
    State :=
  s.recordIn .glob w asid va pa n store old new oldPz newPz bad false

/-- Strong accesses of other threads and other sizes that overlap an access (R252). -/
def mixedWith (rs : List AccRec) (w : Who) (pa n : Nat) : List AccRec :=
  rs.filter fun r => r.strong && !r.mud && r.len != n && r.thread != w.thread && overlap r.pa r.len pa n

/-- Is a recorded access still in the phase of an access being performed: has neither's grid passed a boundary since (R252)? A grid in
its first phase has passed none. -/
def State.samePhase (s : State) (w : Who) (r : AccRec) : Bool :=
  (match r.grid with | some g => r.opens.contains g | none => true) &&
    (match w.grid with | some g => r.opens.contains g || (s.grid g).phase == 0 | none => true)

/-- The cause and the word that detection reports for an access being performed (R259). -/
def State.detected (s : State) (w : Who) (pa n : Nat) (store : Bool) : Option (Nat × Nat) :=
  match w.grid with
  | none => none
  | some g =>
    let rs := (s.openRecs w.grid).filter (s.samePhase w)
    let hit (f : List AccRec → Nat → Bool) : Option Nat :=
      ((List.range n).map (pa + ·)).find? fun b => f (rs.filter fun r => r.det.contains (b / 4)) b
    let mix := if (s.grid g).mix && w.strong then
      hit fun rs b => (mixedWith rs w pa n).any (·.touches b) else none
    match mix with
    | some b => some (0x13, b)
    | none => match if (s.grid g).race then hit fun rs b => racedWith rs w store b else none with
      | some b => some (0x14, b)
      | none => none

/-! ## Imprecise faults -/

/-- Does a thread's fault belong to the instruction that ended the grid, in a lower lane (R225)? -/
def State.lowerLane (s : State) (f : FatalTrap) (t : Nat) (chain : Word) (cause : Nat) : Bool :=
  f.tpc == chain && f.cause == cause && (s.thread f.thread).grp == (s.thread t).grp && decide (t < f.thread)

/-- A fault found after issue ends the grid (R225, R447): the thread issues no more. For a thread of the trap set it is a nested trap
(R446); of the lanes of one chain that fault, the lowest is reported (R225). -/
def State.fatalAt (s : State) (t : Nat) (chain : Word) (cause : Nat) (info : Word) : State :=
  let th := s.thread t
  let f := nestFault (s.group th.grp) { stage := 6, lane := th.lane, cause, info, word := 0 }
  let trap : FatalTrap := { cause := f.cause, tpc := chain, tinfo := f.info, team := s.teamOf t, thread := t }
  let s := s.onGrid (s.gridOfGroup th.grp) fun gr =>
    match gr.fatal with
    | some o => if s.lowerLane o t chain f.cause then { gr with fatal := some trap } else gr
    | none => { gr with fatal := some trap }
  s.onThread t fun th => { th with wait := .fatal, waitAt := chain }

/-! ## Accesses -/

/-- The party that a thread's access is made by. -/
def State.whoOf (s : State) (t : Nat) (strong : Bool) (chain : Word) : Who :=
  { grid := some (s.gridOfGroup (s.thread t).grp), core := (s.team (s.teamOf t)).core, thread := some t, strong, chain,
    fresh := (s.grid (s.gridOfGroup (s.thread t).grp)).race }

/-- Is it a strong access? -/
def AccOp.isStrong : AccOp → Bool
  | .load | .calc _ | .store _ _ | .ring _ _ _ => false
  | _ => true

/-- Is it an ordinary load or store? -/
def AccOp.plain : AccOp → Bool
  | .load | .calc _ | .store _ _ => true
  | _ => false

/-- Has the access been performed (R238)? -/
def Acc.performed (a : Acc) : Bool := match a.st with | .done _ _ => true | _ => false

/-- The partition of a group (R18). -/
def Group.partition (g : Group) : Nat := g.gi % 4

/-- The address of a block's exponent word (R132). -/
def PlaneRec.expAt (r : PlaneRec) (t j : Nat) : Nat := r.exp + 32 * t + 2 * j
/-- The address of a block's sign bytes (R134). -/
def PlaneRec.signAt (r : PlaneRec) (t j : Nat) : Nat := r.sign + 64 * t + 4 * j
/-- The address of a block's bytes of plane k (R134). -/
def PlaneRec.planeAt (r : PlaneRec) (t j k : Nat) : Nat := r.mant + (k - 1) * r.stride + 64 * t + 4 * j

/-- The bytes that planes lo + 1 … hi of element e's block lie in, with its exponent word and, if asked, its sign bytes. -/
def PlaneRec.ranges (r : PlaneRec) (e lo hi : Nat) (sign : Bool) : List (Nat × Nat) :=
  let t := e / 512
  let j := e % 512 / 32
  (r.expAt t j, 2) :: (if sign then [(r.signAt t j, 4)] else []) ++
    ((List.range (Nat.min hi r.p)).filter (lo ≤ ·)).map fun k => (r.planeAt t j (k + 1), 4)

/-- The bytes a computed load may read: of a block every plane up to n, since P_blk is not known before. Range locks are checked for all of
them at issue (R235, R272); DESIGN CHOICE: one on a plane that turns out not to be read counts too (log entry 19). -/
def Calc.ranges : Calc → List (Nat × Nat)
  | .plane r e n _ _ _ => r.ranges e 0 n true
  | .refine r e n _ t => r.ranges e t n false
  | .view r h o n =>
    ((List.range' (o / 4) ((o + n - 1) / 4 - o / 4 + 1)).filter (· < 512 * r.stripes)).flatMap fun e => r.ranges e 0 h true
  | .mxview src aux ep o n =>
    (List.range' (o / 4) ((o + n - 1) / 4 - o / 4 + 1)).flatMap fun e =>
      [(if ep = 0 then src + e / 2 else src + e, 1), (aux + e / 32, 1)]

/-- The byte ranges of an access. -/
def Acc.ranges (a : Acc) : List (Nat × Nat) :=
  match a.op with
  | .calc c => c.ranges
  | _ => [(a.addr, a.len)]

/-- Do two accesses touch a common byte of one space? -/
def Acc.meets (a b : Acc) : Bool :=
  a.space == b.space && a.owner == b.owner && a.ranges.any fun (x, n) => b.ranges.any fun (y, m) => overlap x n y m

/-- The threads whose access it is: those of a ring's messages (R353). -/
def Acc.threads (a : Acc) : List Nat :=
  match a.op with
  | .ring _ _ ms => ms.map (·.1)
  | _ => [a.thread]

/-- Must access a be performed before access b, issued later (R212, R234, R320)? A WAITV has been once it watches (R327). -/
def State.before (s : State) (a b : Acc) : Bool :=
  let ta := s.thread a.thread
  let tb := s.thread b.thread
  decide (a.id < b.id) && !a.performed && a.st != .watch &&
  ((a.meets b &&
      (a.threads.any b.threads.contains || a.iss == b.iss ||
        (ta.grp == tb.grp && b.threads.any fun t => laneIn a.lanes (s.thread t).lane))) ||
   (a.op.isStrong && b.op.isStrong &&
      (a.iss == b.iss || s.teamOf a.thread == s.teamOf b.thread ||
        (!a.parked && (s.team (s.teamOf a.thread)).core == (s.team (s.teamOf b.thread)).core)) &&
      (s.group ta.grp).partition == (s.group tb.grp).partition &&
      (a.iss == b.iss || s.homeOf a.space a.owner a.addr == s.homeOf b.space b.owner b.addr)))

/-- The phase of the grid of a thread. -/
def State.gridPhase (s : State) (t : Nat) : Nat := (s.grid (s.gridOfGroup (s.thread t).grp)).phase

/-- May the access be performed now: nothing that must precede it is outstanding, and an ordinary global store belongs to a
phase that has begun (R246). -/
def State.eligible (s : State) (a : Acc) : Bool :=
  (match a.st with | .ready => true | _ => false) && !a.parked &&
  !(s.accs.any fun o => s.before o a) &&
  (match a.op, a.space with | .store _ _, .glob => decide (a.phase ≤ s.gridPhase a.thread) | _, _ => true)

/-- Changes an access. -/
def State.onAcc (s : State) (id : Nat) (f : Acc → Acc) : State :=
  { s with accs := s.accs.map fun a => if a.id = id then f a else a }

/-- Removes an access. -/
def State.dropAcc (s : State) (id : Nat) : State := { s with accs := s.accs.filter fun a => a.id != id }

/-- Bytes as slices, low nibble first (R64, R82). -/
def nibbles (pz : Bool) : List Byte → List Slice
  | [] => []
  | b :: r => { v := b.setWidth 4, poison := pz } :: { v := (b >>> 4).setWidth 4, poison := pz } :: nibbles pz r

/-- Puts bytes into a list from a position. -/
def putAt : Nat → List Byte → List Byte → List Byte
  | p, b :: r, l => putAt (p + 1) r (l.set p b)
  | _, [], l => l

/-- An instruction meets poisoned data after issue: the lowest address is kept for its one event entry (R143, R473). -/
def State.logPoison (s : State) (t iss : Nat) (info : Word) : State :=
  if s.pzLogged.contains iss then s
  else if s.pzMet.any (·.iss == iss) then
    { s with pzMet := s.pzMet.map fun m => if m.iss = iss ∧ info.toNat % 2 ^ 57 < m.info.toNat % 2 ^ 57 then { m with info } else m }
  else { s with pzMet := s.pzMet ++ [{ iss, thread := t, info }] }

/-- The event entry of an instruction that met poisoned data is written once it has nothing left to perform (R143, R473). -/
def State.flushMet (s : State) (m : PzMet) : State :=
  if (s.accs.any fun a => a.iss == m.iss && !a.performed) || s.ops.any fun o => o.id == m.iss then s
  else
    let g := s.gridOfGroup (s.thread m.thread).grp
    { s with pzLogged := m.iss :: s.pzLogged, pzMet := s.pzMet.filter fun x => x.iss != m.iss }.logEvent 1 (s.grid g).lr.asid.toNat
      (s.team (s.teamOf m.thread)).core (s.grid g).handle m.info

/-- The entries that are due are written. -/
def State.flushPoison (s : State) : State := s.pzMet.foldl State.flushMet s

/-- The address that TINFO and a program give a place in a space's memory: an offset in the window for the chip scratchpad (Table 9.1). -/
def State.spaceAddr (s : State) (sp : Space) (owner a : Nat) : Nat := if sp = .chip then a - s.cswBase owner else a

/-- When every part of a load has been performed, its value lands in the slices it still youngest-writes (R70, R145). -/
def State.finishLoad (s : State) (t pend total : Nat) : State :=
  let ps := s.accs.filter fun a => a.thread == t && a.pend == some pend
  if ps.all (·.performed) then
    let bs := ps.foldl (fun l a => match a.st with | .done b _ => putAt a.pos b l | _ => l) (List.replicate total 0)
    let pz := ps.any fun a => match a.st with | .done _ p => p | _ => false
    let n := match (s.thread t).pend.find? (·.id == pend) with | some w => w.slices.length | none => 0
    let s := s.onThread t (·.land pend ((nibbles pz bs).take n))
    { s with accs := s.accs.filter fun a => !(a.thread == t && a.pend == some pend) }
  else s

/-- A translation fault of an access at an address (R222): it attaches to the fault buffer, after those attached before it, or is
refused. -/
def State.accMiss (s : State) (a : Acc) (kind va : Nat) : State :=
  match s.attach (s.team (s.teamOf a.thread)).core a.owner kind va (.acc a.id) with
  | (s, some e) => s.onAcc a.id fun a => { a with st := .faulted e }
  | (s, none) => s.onAcc a.id fun a => { a with st := .refused }

/-- A translation fault of an access at its own address. -/
def State.accFault (s : State) (a : Acc) (kind : Nat) : State := s.accMiss a kind a.addr

/-- A permission fault of an access found after issue (R225). -/
def State.accBad (s : State) (a : Acc) : State :=
  (s.dropAcc a.id).fatalAt a.thread a.chain 0x08 (permLate a.space.code a.addr)

/-- Reports a detected race or mixed-size access in a space, of a byte recorded at pa, whose address is va (R259). -/
def State.reportIn (s : State) (sp : Space) (w : Who) (d : Option (Nat × Nat)) (va pa : Nat) : State :=
  match d, w.thread with
  | some (c, b), some t => s.fatalAt t w.chain c (permLate sp.code ((va + b - pa) / 4 * 4))
  | _, _ => s

/-- Reports a detected race or mixed-size access in global memory. -/
def State.report (s : State) (w : Who) (d : Option (Nat × Nat)) (va pa : Nat) : State := s.reportIn .glob w d va pa

/-- Performs a load (R238). -/
def State.performLoad (s : State) (a : Acc) : State :=
  let done (s : State) (bs : List Byte) (pz : Bool) : State :=
    let s := s.onAcc a.id fun a => { a with st := .done bs pz }
    match a.pend with | some p => s.finishLoad a.thread p a.total | none => s.dropAcc a.id
  match a.space with
  | .glob =>
    match s.xlate a.owner a.addr with
    | (.miss, s) => s.accFault a 0
    | (.bad, s) => s.accBad a
    | (.ok pa r _ _, s) =>
      if r then
        let w := s.whoOf a.thread false a.chain
        let w := { w with fresh := w.fresh || a.win }
        let d := s.detected w pa a.len false
        let ((bs, u), s) := s.readGlob w pa a.len
        let s := s.record w a.owner a.addr pa a.len false [] [] [] [] false
        let s := s.useLine a.owner a.addr a.len false
        let s := if w.fresh then s else s.fillL1 w.core a.owner a.addr
        let s := match u with | some u => s.logPoison a.thread a.iss (permInfo 0 (a.addr + 32 * u - pa)) | none => s
        (done s bs u.isSome).report w d a.addr pa
      else s.accBad a
  | sp =>
    let m := s.mem sp a.owner
    let u := (unitsOf a.addr a.len).find? m.unitPz
    let s := match u with | some u => s.logPoison a.thread a.iss (permInfo 0 (s.spaceAddr sp a.owner (32 * u))) | none => s
    done s (m.read a.addr a.len) u.isSome

/-- Stores bytes to HBM4 at the point of performance and records the store (R241, R248). -/
def State.storeMem (s : State) (w : Who) (asid va pa : Nat) (bs : List Byte) (bad : Bool) : State :=
  let us := unitsOf pa bs.length
  let old := s.hbm.read pa bs.length
  let oldPz := us.map s.hbm.unitPz
  let s := { s with hbm := s.hbm.write pa bs bad }
  s.record w asid va pa bs.length true old bs oldPz (us.map s.hbm.unitPz) bad

/-- A store at an address of an ASID, through its LLC line (R213). -/
def State.storeGlob (s : State) (w : Who) (asid va pa : Nat) (bs : List Byte) (bad : Bool) : State :=
  (s.storeMem w asid va pa bs bad).useLine asid va bs.length true

/-- Performs a store (R238); none may go to the KV range (R362). -/
def State.performStore (s : State) (a : Acc) (bs : List Byte) (bad : Bool) : State :=
  match a.space with
  | .glob =>
    if (kvPage a.addr).isSome then s.accBad a else
    match s.xlate a.owner a.addr with
    | (.miss, s) => s.accFault a 1
    | (.bad, s) => s.accBad a
    | (.ok pa _ w _, s) =>
      if w then
        let who := s.whoOf a.thread false a.chain
        let d := s.detected who pa bs.length true
        ((s.storeGlob who a.owner a.addr pa bs bad).dropAcc a.id).report who d a.addr pa
      else s.accBad a
  | sp => (s.onMem sp a.owner (·.write a.addr bs bad)).dropAcc a.id

/-! ## Strong accesses (R319–R327) -/

/-- ATOM's function (Table 13.3) on w-bit unsigned values. -/
def atomFn (op : AtomOp) (w old v : Nat) : Nat :=
  let sg (x : Nat) : Int := if x < 2 ^ (w - 1) then x else (x : Int) - 2 ^ w
  match op with
  | .add => (old + v) % 2 ^ w
  | .and => old &&& v
  | .or => old ||| v
  | .xor => old ^^^ v
  | .min => if sg old ≤ sg v then old else v
  | .max => if sg old ≤ sg v then v else old
  | .minu => Nat.min old v
  | .maxu => Nat.max old v
  | .xchg | .st => v
  | .incw => if v ≤ old then 0 else old + 1
  | .decw => if old = 0 ∨ v < old then v else old - 1
  | .ld => old

/-- ATOMF's function (R326). -/
def atomfFn (op : AtomFOp) (a b : W32) : W32 :=
  match op with
  | .fadd => fpAddRne a b
  | .fmin => fpMinMaxBits false a b
  | .fmax => fpMinMaxBits true a b

/-- A WAITV condition on w-bit values (Table 13.4). -/
def waitCond (c : WCond) (w m v : Nat) : Bool :=
  let sg (x : Nat) : Int := if x < 2 ^ (w - 1) then x else (x : Int) - 2 ^ w
  match c with
  | .eq => m == v
  | .ne => m != v
  | .ltu => decide (m < v)
  | .geu => decide (v ≤ m)
  | .lt => decide (sg m < sg v)
  | .ge => decide (sg v ≤ sg m)

/-- The value a strong access writes, if it writes. -/
def AccOp.newVal (op : AccOp) (w old : Nat) : Option Nat :=
  match op with
  | .atom .ld _ => none
  | .atom o v => some (atomFn o w old (v.toNat % 2 ^ w))
  | .atomf o v => some (atomfFn o (BitVec.ofNat 32 old) (v.setWidth 32)).toNat
  | .cas c v => if old = c.toNat % 2 ^ w then some (v.toNat % 2 ^ w) else none
  | _ => none

/-- Is the access satisfied by the value (R327)? -/
def AccOp.satisfied (op : AccOp) (w old : Nat) : Bool :=
  match op with
  | .waitv c v => waitCond c w old (v.toNat % 2 ^ w)
  | _ => true

/-- Where a strong access lies: its memory, key and address there. -/
inductive Place
  | at (pa : Nat)
  | miss
  | bad
deriving DecidableEq, Repr

/-- The permissions that a strong access needs: to read, and to write if it may (R214). -/
def AccOp.needs : AccOp → Bool × Bool
  | .waitv _ _ | .atom .ld _ => (true, false)
  | .atom .st _ => (false, true)
  | _ => (true, true)

/-- Finds the place of a strong access (R214, R321); none may go to the KV range (R362). -/
def State.strongPlace (s : State) (a : Acc) : Place × State :=
  match a.space with
  | .glob =>
    if (kvPage a.addr).isSome then (.bad, s) else
    match s.xlate a.owner a.addr with
    | (.miss, s) => (.miss, s)
    | (.bad, s) => (.bad, s)
    | (.ok pa r w _, s) =>
      if (!a.op.needs.1 || r) && (!a.op.needs.2 || w) then (.at pa, s) else (.bad, s)
  | _ => (.at a.addr, s)

/-- Releases a thread that waits at a strong access. -/
def State.endStrong (s : State) (t id : Nat) : State := if (s.thread t).wait = .strong id then s.endWait t else s

/-- The entries of a deque that stay as they are, and those that their FORK pushes now: in lane order, each after its increment (R334). -/
def forksDue (done : Nat → Bool) : List Nat → List DqEntry → List DqEntry × List DqEntry
  | _, [] => ([], [])
  | stuck, e :: r =>
    match e.need with
    | some (iss, id) =>
      if done id && !stuck.contains iss then
        (let (k, p) := forksDue done stuck r; (k, { e with need := none } :: p))
      else
        (let (k, p) := forksDue done (iss :: stuck) r; (e :: k, p))
    | none => (let (k, p) := forksDue done stuck r; (e :: k, p))

/-- FORK's entries are pushed (R334). -/
def State.pushForks (s : State) : State :=
  let (k, p) := forksDue (fun id => !(s.accs.any fun a => a.id == id && !a.performed)) [] s.deques
  { s with deques := k ++ p }

/-- A strong access ends: it delivers its value, or marks in a poisoned unit, and releases its thread. -/
def State.endAcc (s : State) (a : Acc) (bs : List Byte) (pz : Bool) : State :=
  let s := match a.pend with
    | some p => (s.onAcc a.id fun a => { a with st := .done bs pz }).finishLoad a.thread p a.total
    | none => s.dropAcc a.id
  s.pushForks.endStrong a.thread a.id

/-- Where the records hold an access to a place of a space. -/
def recKey (sp : Space) (owner pa : Nat) : Nat :=
  match sp with
  | .glob => pa
  | .chip => 2 ^ 60 + pa
  | .core => 2 ^ 61 + owner * 2 ^ 32 + pa
  | .cluster => 2 ^ 62 + owner * 2 ^ 32 + pa

/-- Does a place overlap recorded mixed-size accesses? -/
def mixedAt (rs : List AccRec) (key : Nat) (b : Nat) : Bool := rs.any (·.touches (key + b))

/-- The words of an overlap with mixed-size accesses hold any value until the next store (R252); ordinary loads of the phase may find it. -/
def State.muddle (s : State) (rs : List AccRec) (w : Who) (a : Acc) (pa : Nat) : State :=
  let key := recKey a.space a.owner pa
  let s' := (wordsOf pa a.len).foldl (fun s ws =>
    let k := ws.headD 0 - pa
    if mixedAt rs key k then
      let bs := ws.map fun b => Config.freeByte s.tick (b - pa)
      let x := pa + k
      match a.space with
      | .glob =>
        let pz := [s.hbm.unitPz (x / 32)]
        ({ s with hbm := { s.hbm with bytes := memPut s.hbm.bytes x bs } }).recordIn .glob w a.owner (a.addr + k) x bs.length true
          (s.hbm.read x bs.length) bs pz pz false true
      | sp => s.onMem sp a.owner (fun m => m.write x bs false)
    else s) s
  s'.next

/-- What the engine reads at a place (R248, R320): a waiter does not see an ordinary store of another core before the next boundary
(R327); the bytes of a mixed-size overlap are read at any value (R252). -/
def State.strongRead (s : State) (w : Who) (a : Acc) (pa : Nat) (mixed : List AccRec) : List Byte × State :=
  let see (r : AccRec) : Bool := match a.op with | .waitv .. => r.strong || r.core == w.core | _ => true
  let ((bs, _), s) := if a.space = .glob then s.readSeen w see pa a.len else (((s.mem a.space a.owner).read pa a.len, none), s)
  if mixed.isEmpty then (bs, s)
  else
    let key := recKey a.space a.owner pa
    ((List.range a.len).map fun k => if mixedAt mixed key k then Config.freeByte s.tick k else bs.getD k 0, s.next)

/-- The issuing core's L1 drops the line of a strong access (R320). -/
def State.dropStrong (s : State) (core : Nat) (a : Acc) (pa : Nat) : State :=
  if a.space = .glob then
    { s with
      recs := s.recs.map fun r => if overlap r.pa r.len (pa / 128 * 128) 128 then { r with cut := core :: r.cut } else r
      l1 := s.l1.filter fun m => !(m.core == core && m.asid == a.owner && m.la == a.addr / 128 * 128) }
  else s

/-- The engine performs a strong access at a place in an unpoisoned word (R320, R324–R327). -/
def State.strongAt (s : State) (a : Acc) (pa : Nat) : State :=
  let w := s.whoOf a.thread true a.chain
  let key := recKey a.space a.owner pa
  let mixed := mixedWith (s.recs.filter (s.samePhase w)) w key a.len
  let d := s.detected w key a.len true
  let (read, s) := s.strongRead w a pa mixed
  let old := leNat read
  let bits := 8 * a.len
  let note (s : State) : State := s.recordIn a.space w a.owner a.addr key a.len false [] [] [] [] false false
  let mud (s : State) : State := if mixed.isEmpty then s else s.muddle mixed w a pa
  let rep (s : State) : State := s.reportIn a.space w d (s.spaceAddr a.space a.owner a.addr) key
  if a.op.satisfied bits old then
    let ret := natLe a.len old
    let s := match a.op.newVal bits old with
      | some v =>
        let bs := natLe a.len v
        if a.space = Space.glob then s.storeGlob w a.owner a.addr pa bs false else note (s.onMem a.space a.owner (·.write pa bs false))
      | none => note s
    rep (((mud s).dropStrong w.core a pa).endAcc a ret false)
  else rep (((mud (note s)).dropStrong w.core a pa).onAcc a.id fun a => { a with st := .watch })

/-- Performs a strong access (R320, R321): a poisoned unit leaves memory unchanged, logs, and marks what it returns. -/
def State.performStrong (s : State) (a : Acc) : State :=
  match s.strongPlace a with
  | (.miss, s) => s.accFault a (match a.op with | .waitv _ _ | .atom .ld _ => 0 | _ => 1)
  | (.bad, s) => s.accBad a
  | (.at pa, s) =>
    if (s.mem a.space a.owner).pzIn pa a.len then
      let s := s.logPoison a.thread a.iss (permInfo 0 (s.spaceAddr a.space a.owner (a.addr / 32 * 32)))
      s.next.endAcc a ((List.range a.len).map (Config.freeByte s.tick)) true
    else s.strongAt a pa

/-- Re-evaluates the watches that a strong access to a range touches (R327). -/
def State.rewatch (s : State) (hit : Acc → Bool) : State :=
  (s.accs.filter fun a => (match a.st with | .watch => true | _ => false) && !a.parked && hit a).foldl (fun s a => s.performStrong a) s

/-! ## Issuing accesses -/

/-- The parts of an access, split at 128-byte boundaries (R216): address, length and position. -/
def splitAt128 (a n : Nat) : List (Nat × Nat × Nat) :=
  if n = 0 then []
  else if a / 128 = (a + n - 1) / 128 then [(a, n, 0)]
  else let k := 128 - a % 128; [(a, k, 0), (a + k, n - k, k)]

/-- Issues one part of an access by a lane of the issue set; a global store in a gap belongs to the next phase (R246). -/
def State.issueAcc (s : State) (l : Nat) (sp : Space) (owner addr len : Nat) (op : AccOp) (pend : Option Nat) (pos total : Nat)
    (lanes : Word) : State :=
  let th := s.lt l
  let gap := decide (th.passed < th.arrived)
  let st := match op, sp with | .store _ _, .glob => true | _, _ => false
  let a : Acc :=
    { id := s.nextId, thread := s.ig.t0 + l, lanes, iss := s.issue.iss, space := sp, owner, addr, len, op,
      phase := th.passed + (if gap && st then 1 else 0), gap := gap && !st, pend, pos, total,
      chain := s.issue.runPc, word := s.issue.word, win := false, st := .ready, parked := false }
  { s with accs := s.accs ++ [a], nextId := s.nextId + 1 }

/-- Issues a load of n bytes whose value goes to slices of a lane (R69). -/
def State.issueLoad (s : State) (l : Nat) (sp : Space) (owner addr n : Nat) (ps : List Nat) (lanes : Word) : State :=
  let p := s.nextId
  let s := (s.onLane l (·.addPend { id := p, slices := ps, vals := [], known := false })).fresh
  (splitAt128 addr n).foldl (fun s (a, k, at_) => s.issueAcc l sp owner a k .load (some p) at_ n lanes) s

/-- Issues a store of bytes by a lane. -/
def State.issueStore (s : State) (l : Nat) (sp : Space) (owner addr : Nat) (bs : List Byte) (bad : Bool) (lanes : Word) : State :=
  (splitAt128 addr bs.length).foldl
    (fun s (a, k, at_) => s.issueAcc l sp owner a k (.store ((bs.drop at_).take k) bad) none 0 0 lanes) s

/-! ## Range locks (R235, R253) -/

/-- The range lock of a core that an access of n bytes conflicts with at the lowest address: a load conflicts with a
destination, a store with either (R235). -/
def State.lockConflict (s : State) (core : Nat) (sp : Space) (owner a n : Nat) (store : Bool) : Option (Nat × Lock) :=
  s.locks.foldl (fun m k =>
    if k.core == core && k.space == sp && k.owner == owner && (k.dst || store) && overlap a n k.base k.len then
      (let x := Nat.max a k.base
       match m with
       | none => some (x, k)
       | some (y, _) => if x < y then some (x, k) else m)
    else m) none

/-- TINFO of a range-lock conflict (R235). -/
def lockInfo (a : Nat) (k : Lock) : Word :=
  BitVec.ofNat 64 (a % 2 ^ 57 + k.idx % 32 * 2 ^ 57 + (if k.dst then 2 ^ 62 else 0))

/-- The address in a space's memory of an offset a program names (R211). -/
def State.memAddr (s : State) (sp : Space) (a : Nat) : Nat := if sp = .chip then s.cswBase s.iasid + a else a

/-- The lock check of an access by the issuing core, at an address as the program gives it (R235). -/
def State.lockFault (s : State) (sp : Space) (a n : Nat) (store : Bool) : Option Word :=
  match s.lockConflict s.icore sp (s.spaceOwner sp) (s.memAddr sp a) n store with
  | some (x, k) => some (lockInfo (s.spaceAddr sp s.iasid x) k)
  | none => none

end Machine
end Sys2Proof
end

