-- ==== Sys2Proof/Machine/Fetch.lean ====
section
/-! DEFINITION. Instruction words as the core's instruction cache holds them (R29, R217), the chain that begins at an address
(R30) and where its run ends (R35, R36), the checks of Table 2.2 steps 2 to 4, the scoreboard (R69), and the start of an issue. -/

namespace Sys2Proof
namespace Machine
open Host

/-! ## Fetch -/

/-- The instruction-cache line of a core that holds an address of an ASID (R217). -/
def State.iline (s : State) (core asid a : Nat) : Option ILine :=
  s.icache.find? fun n => n.core == core && n.asid == asid && n.line == a / 128

/-- The word of a line at an address (R3, R217). -/
def ILine.word (n : ILine) (a : Nat) : Word := BitVec.ofNat 64 (leNat ((n.bytes.drop (a % 128)).take 8))

/-- The word at an address as the instruction cache holds it, if its page may be executed (R29). -/
def State.iword (s : State) (core asid a : Nat) : Option Word :=
  match s.iline core asid a with
  | some n => if n.x then some (n.word a) else none
  | none => none

/-- The stitch bit (Table 2.1). -/
def stitch (w : Word) : Bool := w.getLsbD 63

/-- The baste bit (Table 2.1). -/
def baste (w : Word) : Bool := w.getLsbD 62

/-- The words of the chain that begins at an address, at most k, and whether it ends as R30 allows: at a word with stitch 0, in
the 64-byte fetch block it begins in. -/
def chainWords (f : Nat → Option Word) : Nat → Nat → List Word × Bool
  | 0, _ => ([], false)
  | k + 1, a =>
    match f a with
    | none => ([], false)
    | some w =>
      if stitch w then
        if (a + 8) % 64 = 0 then ([w], false)
        else
          let (l, ok) := chainWords f k (a + 8)
          (w :: l, ok)
      else ([w], true)

/-- What fetch finds of the word that follows a chain: the word, that it cannot be fetched (R37), or that its line is to come. -/
inductive Peek
  | word (w : Word)
  | no
  | line (n : Nat)
deriving DecidableEq, Repr

/-- The word that follows a chain (R37): one in a page that takes a translation fault is to come, as a replayed fetch is (R217). -/
def State.peek (s : State) (core asid a : Nat) : Peek :=
  match s.iline core asid a with
  | some n => if n.x then .word (n.word a) else .no
  | none => match (s.xlate asid a).1 with
    | .ok _ _ _ true | .miss => .line (a / 128)
    | _ => .no

/-- Where the run ends whose last chain so far ends at an address, with at most k basted chains to follow (R36), or the line
that is needed to know. -/
def State.runTail (s : State) (core asid : Nat) : Nat → Nat → Nat ⊕ Nat
  | 0, e => .inr e
  | k + 1, e =>
    match s.peek core asid e with
    | .line n => .inl n
    | .no => .inr e
    | .word w =>
      if baste w then
        match chainWords (s.iword core asid) 3 e with
        | (ws, true) => s.runTail core asid k (e + 8 * ws.length)
        | (ws, false) => .inr (e + 8 * ws.length)
      else .inr e

/-- A chain: its address, its words, whether it ends as R30 allows, whether it is the last of its run, and where TRET's skip
option resumes (R35). -/
structure Chain where
  pc : Nat
  words : List Word
  ok : Bool
  last : Bool
  skip : Nat
deriving DecidableEq, Repr, Inhabited

/-- The address after a chain. -/
def Chain.next (c : Chain) : Nat := c.pc + 8 * c.words.length

/-- What fetching the chain at an address finds. -/
inductive Fetch
  | line (n : Nat)
  | noX
  | chain (c : Chain)
deriving DecidableEq, Repr

/-- Fetches the chain at an address (R29, R30, R217). -/
def State.fetch (s : State) (core asid pc : Nat) : Fetch :=
  match s.iline core asid pc with
  | none => .line (pc / 128)
  | some n =>
    if n.x then
      let (ws, ok) := chainWords (fun a => if a / 128 = n.line then some (n.word a) else none) 3 pc
      let e := pc + 8 * ws.length
      if ok then
        match s.runTail core asid 4 e with
        | .inl n => .line n
        | .inr t => .chain { pc, words := ws, ok, last := t == e, skip := t }
      else .chain { pc, words := ws, ok, last := true, skip := e }
    else .noX

/-- The core that runs a thread. -/
def State.coreOf (s : State) (t : Nat) : Nat := (s.team (s.teamOf t)).core

/-- The ASID of a thread's grid. -/
def State.asidOf (s : State) (t : Nat) : Nat := (s.recOf (s.thread t).grp).asid.toNat

/-- Fetches the chain at a thread's program counter. -/
def State.fetchOf (s : State) (t : Nat) : Fetch := s.fetch (s.coreOf t) (s.asidOf t) (s.thread t).pc.toNat

/-! ## Chain and run rules (R30–R33, R36, R37, R85; Table 2.2 step 3) -/

/-- What a word reads and writes: slices, affine registers and index registers (R33). -/
structure Rw where
  rs : List Nat
  ws : List Nat
  ar : List Nat
  aw : List Nat
  ir : List Nat
  iw : List Nat
deriving DecidableEq, Repr

/-- The slices an operand counts as, with an indexed one counted as its register's whole range (R33). -/
def Thread.useSlices (th : Thread) (g : Nat) (u : Use) : List Nat :=
  match u.rule, u.o.sel with
  | .ix, _ => []
  | _, .index k => let x := th.x.getD k.val default; List.range' x.base.toNat (x.lim.toNat - x.base.toNat)
  | _, _ => th.locate g u.o u.count

/-- The slices of a word's guard and predicate (R33, R110). -/
def Instr.predSlices (i : Instr) : List Nat :=
  guardSlices i.guard ++ i.predRead

/-- What a word reads and writes in a thread of a launch. -/
def Thread.rw (th : Thread) (lr : LaunchRec) (i : Instr) : Rw :=
  let g := lr.g.toNat
  { rs := Instr.predSlices i ++ (lr.uses i).flatMap fun u => if u.rd then th.useSlices g u else []
    ws := (match i.pred with | some (p, true) => [p.slice.toNat] | _ => []) ++
      i.uses.flatMap fun u => if u.writes then th.useSlices g u else []
    ar := i.affReads ++ (lr.slotUses i).filterMap Use.affRead
    aw := i.affWrites
    ir := i.ixReads ++ (lr.slotUses i).filterMap Use.ixRead
    iw := i.ixWrites }

/-- Have two lists a common member? -/
def meets (a b : List Nat) : Bool := a.any b.contains

/-- Do two words of a chain break R33? -/
def Rw.clash (a b : Rw) : Bool :=
  meets a.rs b.ws || meets a.ws b.rs || meets a.ws b.ws || meets a.ar b.aw || meets a.aw b.ar || meets a.aw b.aw ||
    meets a.ir b.iw || meets a.iw b.ir || meets a.iw b.iw

/-- The first word that clashes with an earlier one (R33), or writes a slice that an earlier chain of its run reads (R37). -/
def firstClash (runReads : List Nat) : Nat → List Rw → List Rw → Option Nat
  | _, _, [] => none
  | k, earlier, w :: r =>
    if meets w.ws runReads || earlier.any (·.clash w) then some k else firstClash runReads (k + 1) (w :: earlier) r

/-- The first word by which a chain holds too many words of a kind (R31, R85). -/
def firstCrowd : Nat → List Instr → List Instr → Option Nat
  | _, _, [] => none
  | k, earlier, i :: r =>
    let is := i :: earlier
    let n (p : Instr → Bool) : Nat := (is.filter p).length
    if 1 < n (·.pipe == .mem) ∨ 2 < n (·.pipe != .mem) ∨ 1 < n Instr.classE ∨ 1 < n (·.pipe == .a) ∨ 1 < n (·.pipe == .b) ∨
        1 < n Instr.frameOrBranch then some k
    else firstCrowd (k + 1) is r

/-- Words that stand only in the last chain of a run (R37, R85). -/
def lastOnly (i : Instr) : Bool :=
  (i.pipe == .mem && (match i with | .lds .. => false | _ => true)) ||
    (i.classE && (match i with | .mget .. | .nop _ => false | _ => true)) || decide (i.cls = 8) ||
    (match i with
      | .qblk .. | .dqblk .. | .loop .. | .endloop | .endloopBrk .. | .frameadj .. | .ixset .. | .ixstepAdd .. | .ixstepSet .. => true
      | _ => false)

/-- SPILL and FILL (R85). -/
def isStash : Instr → Bool
  | .spill .. | .fill .. => true
  | _ => false

/-- The first word of a chain that breaks a chain or run rule, but for the clashes of R33 and R37. `run` is how many chains of
the run have issued. -/
def Chain.rules (c : Chain) (run : Nat) (is : List Instr) : Option Nat :=
  let w0 := c.words.headD 0
  if (baste w0 && (run == 0 || decide (4 ≤ run))) = true then some 0
  else
    let one (k : Nat) : Bool :=
      (match is[k]? with
        | some i => (!c.last && lastOnly i) || (isStash i && (decide (c.words.length ≠ 1) || baste w0))
        | none => false) || (decide (k ≠ 0) && baste (c.words.getD k 0)) || (!c.ok && decide (k + 1 = c.words.length))
    let a := (List.range c.words.length).find? one
    match a, firstCrowd 0 [] is with
    | some x, some y => some (Nat.min x y)
    | some x, none => some x
    | none, y => y

/-- The pipe each word of a chain takes, A = 0 and B = 1 (R32). -/
def pipesOf (is : List Instr) : List (Option Nat) :=
  let tied := is.filterMap fun i => if i.pipe = .a then some 0 else if i.pipe = .b then some 1 else none
  (is.foldl (fun ((l, used) : List (Option Nat) × List Nat) i =>
    match i.pipe with
    | .mem => (l ++ [none], used)
    | .a => (l ++ [some 0], used)
    | .b => (l ++ [some 1], used)
    | .either => let p := if used.contains 0 then 1 else 0; (l ++ [some p], p :: used)) ([], tied)).1

/-- The latch that a word writes: B(2c + p) for the run's chain c (R39). -/
def latchOf (run : Nat) (is : List Instr) (k : Nat) : Option Nat := ((pipesOf is).getD k none).map (2 * run + ·)

/-- A lane number or mask at or above the group width (R200). -/
def laneBeyond (w : Nat) : Instr → Bool
  | .shflup _ _ _ n | .shfldn _ _ _ n | .shflx _ _ _ n | .bcast _ _ _ _ n => decide (w ≤ n.toNat)
  | _ => false

/-- An operand narrower than the group width (R182, R200). -/
def tooNarrow (w : Nat) : Instr → Bool
  | .ballot _ d _ | .mget _ d _ _ => decide (d.w.bits < w)
  | .mput _ a _ => decide (a.w.bits < w)
  | _ => false

/-! ## Operand legality (R40, R42, R45, R46, R66; Table 2.2 step 4) -/

/-- A word with an illegal operand, guard slice or predicate slice. -/
def Thread.illegalWord (th : Thread) (g n : Nat) (latched : List Nat) (i : Instr) : Bool :=
  (Instr.predSlices i).any (fun p => decide (n ≤ p)) || i.uses.any (th.illegalUse g n latched)

/-! ## The scoreboard (R69) -/

/-- The slices a word reads in a thread of a launch (R69, R73). -/
def Thread.reads (th : Thread) (lr : LaunchRec) (i : Instr) : List Nat :=
  Instr.predSlices i ++ (lr.uses i).flatMap fun u => if u.rd then th.locate lr.g.toNat u.o u.count else []

/-- Does the scoreboard allow a chain in a thread? -/
def State.scoreOk (s : State) (t : Nat) (c : Chain) : Bool :=
  let th := s.thread t
  let lr := s.recOf th.grp
  c.words.all fun w => match decode w with
    | some i => !(th.reads lr i).any th.pending
    | none => true

/-! ## An issue -/

/-- The run that an issue set continues at its program counter (R36, R38). -/
def State.runAt (s : State) (grp : Nat) (lane : Nat) (pc : Word) : Option Run :=
  s.runs.find? fun r => r.grp == grp && r.lanes.contains lane && r.next == pc

/-- A chain ready to issue: the issue's identifier, its group, lanes, words and their meanings, and the run it continues. -/
structure Ready where
  iss : Nat
  grp : Nat
  lanes : List Nat
  chain : Chain
  run : Option Run
deriving DecidableEq, Repr, Inhabited

/-- How many chains of its run have issued. -/
def Ready.k (r : Ready) : Nat := match r.run with | some u => u.k | none => 0

/-- TPC of a fault (R35). -/
def Ready.first (r : Ready) : Word := match r.run with | some u => u.first | none => BitVec.ofNat 64 r.chain.pc

/-- The slices that a lane's earlier chains of the run read (R37). -/
def Ready.runReads (r : Ready) (l : Nat) : List Nat :=
  match r.run with
  | some u => match u.reads.find? fun x => x.1 == l with | some x => x.2 | none => []
  | none => []

/-- Latches written by the run so far (R40). -/
def Ready.latched (r : Ready) : List Nat := match r.run with | some u => u.latched | none => []

/-- The start of an issue (R34, R35, R170): the issue record; the lanes' ages fall to 0 and their program counters move to the
next chain. -/
def State.begin (s : State) (r : Ready) : State :=
  let pc := BitVec.ofNat 64 r.chain.pc
  let next := BitVec.ofNat 64 r.chain.next
  let s := { s with
    nextId := Nat.max s.nextId (r.iss + 1)
    issue := { iss := r.iss, grp := r.grp, lanes := r.lanes, pc, wordAddr := pc, nextPc := next, runPc := r.first,
               skipPc := BitVec.ofNat 64 r.chain.skip, word := r.chain.words.headD 0, latch := none, collect := false,
               sure := false, lead := none, latched := r.latched, faults := [], stalls := [] } }
  r.lanes.foldl (fun s l => s.onLane l fun th => { th with age := 0, pc := next }) s

/-- The k-th word of the chain is being executed. -/
def State.atWord (s : State) (r : Ready) (is : List Instr) (k : Nat) : State :=
  { s with issue := { s.issue with
      wordAddr := BitVec.ofNat 64 (r.chain.pc + 8 * k), word := r.chain.words.getD k 0, latch := latchOf r.k is k } }

/-- The fault that steps 2 to 4 of Table 2.2 find for the whole issue set: step, cause and word; the first lane stands for all
of them, which share program counter and frame. -/
def State.staticFault (s : State) (r : Ready) : Option (Nat × Nat × Nat) :=
  let w := (s.group r.grp).w
  let is := r.chain.words.map decode
  match is.findIdx? (fun i => match i with | some i => laneBeyond w i | none => true) with
  | some k => some (2, 0x01, k)
  | none =>
    let is := is.filterMap id
    match r.chain.rules r.k is with
    | some k => some (3, 0x03, k)
    | none =>
      let lr := s.recOf r.grp
      let th := s.thread ((s.group r.grp).t0 + r.lanes.headD 0)
      match is.findIdx? (fun i => tooNarrow w i || th.illegalWord lr.g.toNat lr.l.toNat r.latched i) with
      | some k => some (4, 0x02, k)
      | none => none

/-- The clash of R33 or R37 that a lane finds, by word; it counts before step 4. Whether a word whose guard is false in the lane counts is
not said: R33 counts the whole range of its index register, R42 has it raise no fault; DESIGN CHOICE: it counts, as R33's words take no
guard into account (log entry 11). -/
def State.laneClash (s : State) (r : Ready) (is : List Instr) (l : Nat) : Option Nat :=
  let th := s.thread ((s.group r.grp).t0 + l)
  firstClash (r.runReads l) 0 [] (is.map (th.rw (s.recOf r.grp)))

/-- Where TRET's skip option resumes a chain that a thread has not issued (R35). -/
def State.skipOf (s : State) (t : Nat) : Word :=
  match s.fetchOf t with
  | .chain c => BitVec.ofNat 64 c.skip
  | _ => (s.thread t).pc + 8

end Machine
end Sys2Proof
end

