-- ==== Sys2Proof/Machine/Formats.lean ====
section
/-! DEFINITION. Format slots, microscaling blocks and plane blocks as values (05 R124–R142). -/

namespace Sys2Proof
namespace Machine

/-- The floating-point format of an element code (Table 5.1). -/
def fmtOf (c : Nat) : Option Fmt :=
  if c = 1 then some fp32 else if c = 2 then some fp16 else if c = 3 then some bf16 else if c = 4 then some e4m3
  else if c = 5 then some e5m2 else if c = 6 then some e2m1 else none

/-! ## Microscaling blocks (R128–R131) -/

/-- floor(log2) of a non-zero m × 2^e. -/
def log2Exp (m : Nat) (e : Int) : Int := e + (Nat.log2 m : Int)

/-- emax of an MX element format (R129). -/
def mxEmax (f : Fmt) : Int := if f.mb = 1 then 2 else if f.mb = 3 then 8 else 15

/-- The greatest floor(log2 |v|) of a block, or none when every value is zero. -/
def blockExp : List Fp → Option Int
  | [] => none
  | .fin _ m e :: r =>
    if m = 0 then blockExp r
    else match blockExp r with
      | none => some (log2Exp m e)
      | some x => some (if x < log2Exp m e then log2Exp m e else x)
  | _ :: r => blockExp r

/-- Is the value finite? -/
def Fp.isFin : Fp → Bool
  | .fin _ _ _ => true
  | _ => false

/-- X of R129, clamped. -/
def mxExp (f : Fmt) (vs : List Fp) : Int :=
  match blockExp vs with
  | none => -127
  | some x => let k := x - mxEmax f; if k < -127 then -127 else if 127 < k then 127 else k

/-- One element of a quantised block: rne(v / 2^X, f), saturating; and whether it is inexact (R129, R167). -/
def mxElem (f : Fmt) (x : Int) (v : Fp) : Nat × Bool :=
  match v with
  | .fin s m e => let r := f.round .rne true s m (e - x); (r.bits, r.inexact)
  | _ => (0, false)

/-- An element of an MX block with scale byte e as an exact value (R131). -/
def mxValue (f : Fmt) (scale x : Nat) : Fp :=
  if scale = 255 then .nan false
  else match f.decode x with
    | .fin s m e => .fin s m (e + scale - 127)
    | .nan _ => .nan false
    | v => v

/-! ## Plane blocks (R133–R138) -/

/-- An exponent word that poisons its block under a record of P planes (Table 5.6). -/
def planeBad (word P : Nat) : Bool :=
  decide (word / 4096 ≠ 0) || decide (word / 256 % 16 = 0) || decide (P < word / 256 % 16) || decide (word % 256 = 255)

/-- The held value of an element from its sign, exponent byte, P_blk, top bits M_h and held count h_b (R137). -/
def planeHeld (s : Bool) (e pblk mh hb : Nat) : Fp :=
  if pblk ≤ hb then .fin s mh ((e : Int) - 126 - pblk)
  else .fin s (2 * mh + 1) ((e : Int) - 127 - hb)

/-- R136: the exponent of a plane block formed from values. -/
def planeExp (vs : List Fp) : Nat :=
  match blockExp vs with
  | none => 0
  | some x => if x + 127 < 0 then 0 else if 254 < x + 127 then 254 else (x + 127).toNat

/-- R136's input rule: an infinity counts as 2^128 and a NaN as +0. -/
def planeInput : Fp → Fp
  | .inf s => .fin s 1 128
  | .nan _ => .fin false 0 0
  | v => v

/-- R136 step 3: the magnitude of one element with p planes. -/
def planeMag (p e : Nat) (v : Fp) : Nat :=
  match v with
  | .fin _ m x => Nat.min (roundUnits .rne false m x ((e : Int) - 126 - p)).1 (2 ^ p - 1)
  | _ => 0

end Machine
end Sys2Proof
end

