-- ==== Sys2Proof/Machine/Ring.lean ====
section
/-! DEFINITION. Rings (14 R352–R354): the header, and the appends of one RSEND as one act at the receiving bank. -/

namespace Sys2Proof
namespace Machine
open Host

/-- A ring header's fields (Table 14.9). -/
structure Ring where
  prod : Nat
  sz : Nat
  logn : Nat
  base : Nat
  tail : Nat
  head : Nat
  bad : Bool
deriving DecidableEq, Repr

/-- The team scratchpad's bytes (Table 9.1). -/
def State.scrBytes (s : State) (team : Nat) : Nat := 256 * (s.grid (s.cluster (s.team team).cluster).grid).lr.scr.toNat

/-- Messages in a ring. -/
def Ring.count (r : Ring) : Nat := (r.tail + 2 ^ 32 - r.head) % 2 ^ 32

/-- Reads a ring header (R352); `bad` says that it is malformed. -/
def State.ringAt (s : State) (team off : Nat) : Ring :=
  let v := leNat ((s.team team).scratch.read off 16)
  let r : Ring :=
    { prod := v / 2 ^ 108 % 16, sz := v / 2 ^ 106 % 4, logn := v / 2 ^ 96 % 16, base := v / 2 ^ 64 % 2 ^ 32,
      tail := v / 2 ^ 32 % 2 ^ 32, head := v % 2 ^ 32, bad := false }
  { r with bad := decide (v / 2 ^ 112 ≠ 0) || decide (v / 2 ^ 100 % 64 ≠ 0) || decide (r.base % (8 * 2 ^ r.sz) ≠ 0) ||
      decide (s.scrBytes team < r.base + 8 * 2 ^ r.sz * 2 ^ r.logn) || decide (2 ^ r.logn < r.count) }

/-- A slot of a ring by its message's number. -/
def Ring.slot (r : Ring) (i : Nat) : Nat := r.base + i % 2 ^ r.logn * (8 * 2 ^ r.sz)

/-- Rings that a thread's store leaves with undefined contents: it touches TAIL or a slot between HEAD and TAIL (R352). -/
def State.hitRings (s : State) (a : Acc) : List (Nat × Ring) :=
  if a.space ≠ .core then []
  else (s.rings.filter fun x => x.1 == a.owner).filterMap fun x =>
    let r := s.ringAt a.owner x.2
    if !r.bad && (overlap a.addr a.len (x.2 + 4) 4 ||
        (List.range r.count).any fun i => overlap a.addr a.len (r.slot (r.head + i)) (8 * 2 ^ r.sz)) then some (x.2, r)
    else none

/-- The contents of a ring, TAIL and all slots, become free values. -/
def State.spoilRing (s : State) (team : Nat) (x : Nat × Ring) : State :=
  let put (s : State) (a n : Nat) : State := s.next.onMem .core team (·.write a ((List.range n).map (Config.freeByte s.tick)) false)
  put (put s (x.1 + 4) 4) x.2.base (8 * 2 ^ x.2.sz * 2 ^ x.2.logn)

/-- A ring has been appended to. -/
def State.useRing (s : State) (team off : Nat) : State :=
  if s.rings.contains (team, off) then s else { s with rings := s.rings ++ [(team, off)] }

/-- The status of one message to a ring, and the slot it goes to if it is appended (R353, Table 14.10). -/
def State.ringJudge (s : State) (team off size prod : Nat) : Nat × Nat :=
  let core := (s.team team).core
  let locked (a n : Nat) : Bool := (s.lockConflict core .core team a n false).isSome
  let r := s.ringAt team off
  let slot := r.slot r.tail
  if (s.cluster (s.team team).cluster).out then (4, 0)
  else if locked off 16 then (5, 0)
  else if s.scrBytes team < off + 16 ∨ r.bad = true ∨ r.sz ≠ size then (3, 0)
  else if r.prod ≠ prod then (2, 0)
  else if r.count = 2 ^ r.logn then (1, 0)
  else if locked slot (8 * 2 ^ r.sz) then (5, 0)
  else (0, slot)

/-- A pending write gets its value. -/
def State.landPend (s : State) (t pend : Nat) (v : Word) : State :=
  s.onThread t fun th =>
    match th.pend.find? fun w => w.id == pend with
    | some w => th.land pend (sliceVals w.slices.length v)
    | none => th

/-- Performs the messages of one RSEND to one ring, in lane order (R353). A header that was poisoned after the word's check at issue is
logged (R143); the spec gives it no status; DESIGN CHOICE: nothing is appended, and the statuses are free (log entry 20). -/
def State.performRing (s : State) (a : Acc) (size prod : Nat) (ms : List (Nat × List Byte × Nat)) : State :=
  match s.corePoison a.owner a.addr 16 with
  | some i =>
    (ms.foldl (fun s (t, _, p) => (s.next.landPend t p (BitVec.ofNat 64 (s.choose 6)))) (s.logPoison a.thread a.iss i)).dropAcc a.id
  | none =>
  let s := ms.foldl (fun s (t, bs, p) =>
    let (st, slot) := s.ringJudge a.owner a.addr size prod
    let s := if st = 0 then
        let tail := (s.ringAt a.owner a.addr).tail
        let s := s.onMem .core a.owner (·.write slot bs false)
        (s.onMem .core a.owner (·.write (a.addr + 4) (natLe 4 ((tail + 1) % 2 ^ 32)) false)).useRing a.owner a.addr
      else s
    s.landPend t p (BitVec.ofNat 64 st)) s
  s.dropAcc a.id

end Machine
end Sys2Proof
end

