-- ==== Sys2Proof/Machine/Global.lean ====
section
/-! DEFINITION. Reads and writes of global memory by one agent at one time (R140, R272, R279): ranges of any length, plane
tensor records and plane elements, and the loads computed from them. -/

namespace Sys2Proof
namespace Machine
open Host

/-- What a read of a range finds: its bytes and its first poisoned unit, or the address it cannot translate or may not read. -/
inductive Got
  | ok (bs : List Byte) (pz : Option Nat)
  | miss (va : Nat)
  | bad (va : Nat)
deriving DecidableEq, Repr

/-- A range in parts that each lie in one 32-byte unit. -/
def unitParts (a n : Nat) : List (Nat × Nat) :=
  (unitsOf a n).map fun u => let lo := Nat.max a (32 * u); (lo, Nat.min (a + n) (32 * u + 32) - lo)

/-- Ordinary loads of a list of parts (R279). -/
def gloadParts (w : Who) (asid : Nat) : List (Nat × Nat) → State → Got × State
  | [], s => (.ok [] none, s)
  | (a, k) :: r, s =>
    match s.xlate asid a with
    | (.miss, s) => (.miss a, s)
    | (.bad, s) => (.bad a, s)
    | (.ok pa rd _ _, s) =>
      if rd then
        let d := s.detected w pa k false
        let ((bs, u), s) := s.readGlob w pa k
        let s := ((s.record w asid a pa k false [] [] [] [] false).useLine asid a k false).report w d a pa
        match gloadParts w asid r s with
        | (.ok cs q, s) => (.ok (bs ++ cs) (if u.isSome then some (a / 32 * 32) else q), s)
        | o => o
      else (.bad a, s)

/-- Ordinary loads of n bytes from an address. -/
def State.gload (s : State) (w : Who) (asid a n : Nat) : Got × State := gloadParts w asid (unitParts a n) s

/-- The places of parts in HBM4, or the first that cannot be translated or is not allowed; no write may go to the KV range (R362). -/
def gplaces (asid : Nat) (rd wr : Bool) : List (Nat × Nat) → State → Got × List Nat × State
  | [], s => (.ok [] none, [], s)
  | (a, _) :: r, s =>
    if wr && (kvPage a).isSome then (.bad a, [], s) else
    match s.xlate asid a with
    | (.miss, s) => (.miss a, [], s)
    | (.bad, s) => (.bad a, [], s)
    | (.ok pa r' w' _, s) =>
      if (!rd || r') && (!wr || w') then
        match gplaces asid rd wr r s with
        | (g, l, s) => (g, pa :: l, s)
      else (.bad a, [], s)

/-- Ordinary stores of parts at their places, each with the poison state of its data. -/
def gstoreParts (w : Who) (asid : Nat) : List (Nat × List Byte × Bool) → List Nat → State → State
  | (a, bs, bad) :: r, pa :: l, s =>
    let d := s.detected w pa bs.length true
    gstoreParts w asid r l ((s.storeGlob w asid a pa bs bad).report w d a pa)
  | _, _, s => s

/-- Cuts bytes at an address into parts that each lie in one 32-byte unit, poisoned where the test says. -/
def storeParts (a : Nat) (bs : List Byte) (bad : Nat → Bool) : List (Nat × List Byte × Bool) :=
  (unitParts a bs.length).map fun (lo, k) => (lo, (bs.drop (lo - a)).take k, bad (lo / 32))

/-- Ordinary stores of bytes at an address: none takes effect when one of them cannot be translated or is not allowed. -/
def State.gstore (s : State) (w : Who) (asid a : Nat) (bs : List Byte) (bad : Nat → Bool) : Got × State :=
  match gplaces asid false true (unitParts a bs.length) s with
  | (.ok _ _, l, s) => (.ok [] none, gstoreParts w asid (storeParts a bs bad) l s)
  | (g, _, s) => (g, s)

/-! ## Reads at issue -/

/-- What a read made at issue gives a lane. -/
inductive IRead
  | ok (bs : List Byte)
  | fault (cause : Nat) (info : Word)
  | stall (va : Option Nat)
deriving DecidableEq, Repr

/-- Is an access one that a thread's later accesses follow in program order (R212, R234)? -/
def State.precedes (s : State) (x : Acc) (t : Nat) : Bool :=
  x.thread == t || ((s.thread x.thread).grp == (s.thread t).grp && laneIn x.lanes (s.thread t).lane)

/-- Has the thread an earlier access to a range that is not performed (R212, R234)? -/
def State.ownPending (s : State) (t : Nat) (sp : Space) (owner a n : Nat) : Bool :=
  s.accs.any fun x => s.precedes x t && !x.performed && x.space == sp && x.owner == owner &&
    x.ranges.any fun (b, m) => overlap b m a n

/-- Has a lane of a list an earlier access to a range that is not performed? -/
def State.lanePending (s : State) (ls : List Nat) (sp : Space) (owner a n : Nat) : Bool :=
  ls.any fun l => s.ownPending (s.ig.t0 + l) sp owner a n

/-- Lane l reads global memory at issue for the lanes ls, after their own earlier accesses to the bytes (R140, R253). -/
def State.issueRead (s : State) (ls : List Nat) (l a n : Nat) : IRead × State :=
  let t := s.ig.t0 + l
  if s.lanePending ls .glob s.iasid a n then (.stall none, s)
  else match s.gload (s.whoOf t false s.issue.runPc) s.iasid a n with
    | (.ok bs none, s) => (.ok bs, s)
    | (.ok _ (some u), s) => (.fault 0x0B (permInfo 0 u), s)
    | (.miss va, s) => (.stall (some va), s)
    | (.bad va, s) => (.fault 0x08 (permLate 0 va), s)

/-! ## Plane tensor records (R139, R140) -/

/-- A field of a little-endian record. -/
def field (v lo n : Nat) : Nat := v / 2 ^ lo % 2 ^ n

/-- A record's fields. -/
def recOfBytes (bs : List Byte) : PlaneRec :=
  let v := leNat bs
  { exp := field v 0 64, sign := field v 64 64, mant := field v 128 64, stride := field v 192 64, stripes := field v 256 32,
    p := field v 288 4, dem := field v 292 1 = 1 }

/-- A malformed record at an address (R140). -/
def recBad (addr : Nat) (bs : List Byte) : Bool :=
  let r := recOfBytes bs
  let eN := 32 * r.stripes
  let sN := 64 * r.stripes
  let mN := r.stride * (r.p - 1) + 64 * r.stripes
  decide (leNat bs / 2 ^ 293 ≠ 0) || decide (r.p = 0) || decide (r.stripes = 0) || decide (r.exp % 64 ≠ 0) ||
    decide (r.sign % 64 ≠ 0) || decide (r.mant % 64 ≠ 0) || decide (r.stride % 64 ≠ 0) || decide (r.stride < 64 * r.stripes) ||
    overlap r.exp eN r.sign sN || overlap r.exp eN r.mant mN || overlap r.sign sN r.mant mN ||
    decide (2 ^ 57 < r.exp + eN) || decide (2 ^ 57 < r.sign + sN) || decide (2 ^ 57 < r.mant + mN) || decide (addr % 64 ≠ 0)

/-- What reading a record at issue gives (R140). -/
inductive RecRead
  | ok (r : PlaneRec)
  | fault (cause : Nat) (info : Word)
  | stall (va : Option Nat)
deriving DecidableEq, Repr

/-- Reads and checks a record at issue, as an ordinary global load (R140, R235); a malformed one is poisoned data with the record's address
(R143). -/
def State.readRec (s : State) (ls : List Nat) (l addr : Nat) : RecRead × State :=
  let bad (s : State) : RecRead × State := (.fault 0x0B (permInfo 2 addr), s)
  if addr % 64 ≠ 0 then bad s
  else if 2 ^ 57 < addr + 64 then (.fault 0x08 (permInfo 0 addr), s)
  else match s.lockConflict s.icore .glob s.iasid addr 64 false with
  | some (x, k) => (.fault 0x09 (lockInfo x k), s)
  | none => match s.issueRead ls l addr 64 with
    | (.ok bs, s) => if recBad addr bs then bad s else (.ok (recOfBytes bs), s)
    | (.fault c i, s) => (.fault c i, s)
    | (.stall va, s) => (.stall va, s)

/-! ## Plane blocks and elements (R132–R138) -/

/-- A block's exponent word, sign bits and the mantissa planes read, each as a 32-bit set of elements. -/
structure PlaneBlk where
  word : Nat
  sign : Nat
  planes : List Nat
deriving DecidableEq, Repr, Inhabited

/-- P_blk of an exponent word (Table 5.6). -/
def pblk (w : Nat) : Nat := w / 256 % 16

/-- M_h of element i from the planes read (R134, R137). -/
def magOf (planes : List Nat) (i : Nat) : Nat := planes.foldl (fun m p => 2 * m + p / 2 ^ i % 2) 0

/-- The held value of element i from the planes read (R137). -/
def PlaneBlk.value (b : PlaneBlk) (i : Nat) : Fp :=
  planeHeld (b.sign / 2 ^ i % 2 = 1) (b.word % 256) (pblk b.word) (magOf b.planes i) b.planes.length

/-- What reading a block to a precision finds: the block; its poison and where, with the block as it stands unless its exponent word is
malformed; or an untranslatable address. -/
inductive BlkRead
  | ok (b : PlaneBlk)
  | poison (kind addr : Nat) (b : Option PlaneBlk)
  | miss (va : Nat)
  | bad (va : Nat)
deriving DecidableEq, Repr

/-- Reads n planes of a block from plane k on. -/
def readPlanes (w : Who) (asid : Nat) (r : PlaneRec) (t j : Nat) : Nat → Nat → State → (Got × List Nat) × State
  | 0, _, s => ((.ok [] none, []), s)
  | n + 1, k, s =>
    match s.gload w asid (r.planeAt t j k) 4 with
    | (.ok bs q, s) =>
      match readPlanes w asid r t j n (k + 1) s with
      | ((.ok _ q', ps), s) => ((.ok [] (lowUnit q q'), leNat bs :: ps), s)
      | o => o
    | (g, s) => ((g, []), s)

/-- The poisoned unit of four bytes that are not read (R144). -/
def State.peekPz (s : State) (asid a : Nat) : Option Nat :=
  match (s.xlate asid a).1 with
  | .ok pa _ _ _ => if s.hbm.pzIn pa 4 then some (a / 32 * 32) else none
  | _ => none

/-- Reads block j of stripe t of a tensor: its exponent word, its sign bytes if asked, and planes lo + 1 … hi limited to
P_blk. A poisoned unit of the block to precision hi poisons it, in the sign plane and planes 1 … lo too; the lowest is
reported (R144). -/
def State.readBlk (s : State) (w : Who) (asid : Nat) (r : PlaneRec) (t j lo hi : Nat) (sign : Bool) : BlkRead × State :=
  match s.gload w asid (r.expAt t j) 2 with
  | (.miss a, s) => (.miss a, s)
  | (.bad a, s) => (.bad a, s)
  | (.ok eb pz, s) =>
    let e := leNat eb
    if planeBad e r.p then (match pz with | some u => .poison 0 u none | none => .poison 1 (r.expAt t j) none, s)
    else match (if sign then s.gload w asid (r.signAt t j) 4 else (.ok [] (s.peekPz asid (r.signAt t j)), s)) with
      | (.miss a, s) => (.miss a, s)
      | (.bad a, s) => (.bad a, s)
      | (.ok sb q, s) =>
        let b := Nat.min hi (pblk e)
        let a := Nat.min lo b
        let q := (List.range a).foldl (fun q k => lowUnit q (s.peekPz asid (r.planeAt t j (k + 1)))) q
        match readPlanes w asid r t j (b - a) (a + 1) s with
        | ((.miss a, _), s) => (.miss a, s)
        | ((.bad a, _), s) => (.bad a, s)
        | ((.ok _ q', ps), s) =>
          let b : PlaneBlk := { word := e, sign := leNat sb, planes := ps }
          match lowUnit pz (lowUnit q q') with
          | some u => (.poison 0 u (some b), s)
          | none => (.ok b, s)

/-- The output format of PLD (Table 11.1). -/
def poutFmt : POut → Fmt
  | .f32 => fp32
  | .bf16 => bf16
  | .f16 => fp16

/-- What a computed load gives: slices or bytes, with the kind and address of the lowest poison met, or an untranslatable address. -/
inductive CalcRes
  | ok (v : List Slice) (pz : Option (Nat × Nat))
  | bytes (bs : List Byte) (pz : Option (Nat × Nat))
  | miss (va : Nat)
  | bad (va : Nat)
deriving DecidableEq, Repr

/-- A value as slices. -/
def slicesOf (n v : Nat) : List Slice := sliceVals n (BitVec.ofNat 64 v)

/-- PRFN's recovered magnitude: floor(|x| × 2^a / U), clamped (R273). -/
def recoverMag (x : Fp) (a e : Nat) : Nat :=
  let top := 2 ^ a - 1
  match x with
  | .fin _ m p =>
    let k := p + (a : Int) - ((e : Int) - 126)
    Nat.min top (if 0 ≤ k then m * 2 ^ k.toNat else m / 2 ^ (-k).toNat)
  | _ => top

/-- What one element of a view is: its FP32 value, with the kind and address of its poison, or an untranslatable address. -/
inductive Elem
  | val (v : Nat) (pz : Option (Nat × Nat))
  | miss (va : Nat)
  | bad (va : Nat)
deriving DecidableEq, Repr

/-- The poison at the lower address (R143). -/
def lowPoison : Option (Nat × Nat) → Option (Nat × Nat) → Option (Nat × Nat)
  | some a, some b => if b.2 < a.2 then some b else some a
  | some a, none => some a
  | none, b => b

/-- The poison that reading bytes of memory found. -/
def unitPoison (u : Option Nat) : Option (Nat × Nat) := u.map fun u => (0, u)

/-- The FP32 values of a list of a view's elements, with the lowest poison (R143, R228). -/
def viewElems (el : State → Nat → Elem × State) : List Nat → State → (Elem × List Nat) × State
  | [], s => ((.val 0 none, []), s)
  | e :: r, s =>
    match el s e with
    | (.val v p, s) =>
      match viewElems el r s with
      | ((.val _ q, vs), s) => ((.val 0 (lowPoison p q), v :: vs), s)
      | o => o
    | (x, s) => ((x, []), s)

/-- An element of a block as read, by its value; the value of one in a malformed block is open (R145). -/
def BlkRead.elem (x : BlkRead) (s : State) (f : PlaneBlk → Nat) (k : Nat) : Elem :=
  match x with
  | .ok b => .val (f b) none
  | .poison kind a (some b) => .val (f b) (some (kind, a))
  | .poison kind a none => .val (Config.freeWordAt s.tick k).toNat (some (kind, a))
  | .miss a => .miss a
  | .bad a => .bad a

/-- The FP32 element of a plane view: zero beyond the extent (R228). -/
def viewPlane (w : Who) (asid : Nat) (r : PlaneRec) (h : Nat) (s : State) (e : Nat) : Elem × State :=
  if 512 * r.stripes ≤ e then (.val 0 none, s)
  else
    let (x, s) := s.readBlk w asid r (e / 512) (e % 512 / 32) 0 h true
    (x.elem s (fun b => (fp32.convert .rne false (b.value (e % 32))).1) e, s)

/-- The element format of an MX view (Table 9.7). -/
def mxFmt (ep : Nat) : Fmt := if ep = 0 then e2m1 else if ep = 1 then e4m3 else e5m2

/-- The FP32 element of an MX view (R228, R131). -/
def viewMx (w : Who) (asid : Nat) (src aux ep : Nat) (s : State) (e : Nat) : Elem × State :=
  let f := mxFmt ep
  let (a, sh) := if ep = 0 then (src + e / 2, e % 2 * 4) else (src + e, 0)
  match s.gload w asid a 1 with
  | (.miss a, s) => (.miss a, s)
  | (.bad a, s) => (.bad a, s)
  | (.ok eb p, s) =>
    match s.gload w asid (aux + e / 32) 1 with
    | (.miss a, s) => (.miss a, s)
    | (.bad a, s) => (.bad a, s)
    | (.ok sb q, s) =>
      (.val (fp32.convert .rne false (mxValue f (leNat sb) (leNat eb / 2 ^ sh % 2 ^ f.bits))).1
        (lowPoison (unitPoison p) (unitPoison q)), s)

/-- Bytes [o, o+n) of FP32 words given from word o/4 on. -/
def viewBytes (vs : List Nat) (o n : Nat) : List Byte := ((vs.flatMap fun v => natLe 4 v).drop (o % 4)).take n

/-- n slices whose values the spec leaves open. -/
def State.openSlices (s : State) (n : Nat) : List Slice :=
  (List.range n).map fun k => { v := (Config.freeWordAt s.tick k).setWidth 4, poison := true }

/-- What a computed load of one element's block brings: n slices; open ones where the block is malformed (R145). -/
def BlkRead.result (x : BlkRead) (s : State) (n : Nat) (f : PlaneBlk → List Slice) : CalcRes :=
  match x with
  | .ok b => .ok (f b) none
  | .poison kind a (some b) => .ok (f b) (some (kind, a))
  | .poison kind a none => .ok (s.openSlices n) (some (kind, a))
  | .miss a => .miss a
  | .bad a => .bad a

/-- PRFN's slices from the planes read (R273). -/
def refineSlices (e n : Nat) (x : W32) (t : Nat) (b : PlaneBlk) : List Slice :=
  let p := pblk b.word
  let a := Nat.min t p
  let h := Nat.min n p
  if a < h then
    let mh := recoverMag (fp32.decode x.toNat) a (b.word % 256) * 2 ^ (h - a) + magOf b.planes (e % 32)
    slicesOf 8 (fp32.convert .rne false (planeHeld (x.getLsbD 31) (b.word % 256) p mh h)).1 ++ slicesOf 1 n
  else slicesOf 8 x.toNat ++ slicesOf 1 n

/-- The bytes of a view from its elements. -/
def viewResult (o n : Nat) : (Elem × List Nat) × State → CalcRes × State
  | ((.val _ p, vs), s) => (.bytes (viewBytes vs o n) p, s)
  | ((.miss a, _), s) => (.miss a, s)
  | ((.bad a, _), s) => (.bad a, s)

/-- Computes a load from memory (R228, R272, R273). -/
def State.calc (s : State) (w : Who) (asid : Nat) (c : Calc) : CalcRes × State :=
  match c with
  | .plane r e n out rnd sat =>
    let (x, s) := s.readBlk w asid r (e / 512) (e % 512 / 32) 0 n true
    let f := poutFmt out
    (x.result s (f.bits / 4 + 1) fun b => slicesOf (f.bits / 4) (f.convert (rndOf rnd) sat (b.value (e % 32))).1 ++ slicesOf 1 n, s)
  | .refine r e n x t =>
    let (y, s) := s.readBlk w asid r (e / 512) (e % 512 / 32) t n false
    (y.result s 9 (refineSlices e n x t), s)
  | .view r h o n => viewResult o n (viewElems (viewPlane w asid r h) (List.range' (o / 4) ((o + n - 1) / 4 - o / 4 + 1)) s)
  | .mxview src aux ep o n => viewResult o n (viewElems (viewMx w asid src aux ep) (List.range' (o / 4) ((o + n - 1) / 4 - o / 4 + 1)) s)

/-- P_blk of a block as memory holds its exponent word. -/
def State.peekPblk (s : State) (asid a : Nat) : Nat :=
  match (s.xlate asid a).1 with
  | .ok pa _ _ _ => pblk (leNat (s.hbmSeen pa 2))
  | _ => 0

/-- The bytes of a block that reading its planes above lo up to hi fetches (R272, R273). -/
def State.blkReads (s : State) (asid : Nat) (r : PlaneRec) (e lo hi : Nat) (sign : Bool) : List (Nat × Nat) :=
  r.ranges e lo (Nat.min hi (s.peekPblk asid (r.expAt (e / 512) (e % 512 / 32)))) sign

/-- The bytes that a computed load fetches (R228, R272, R273). -/
def State.calcReads (s : State) (asid : Nat) : Calc → List (Nat × Nat)
  | .plane r e n _ _ _ => s.blkReads asid r e 0 n true
  | .refine r e n _ t => s.blkReads asid r e t n false
  | .view r h o n =>
    ((List.range' (o / 4) ((o + n - 1) / 4 - o / 4 + 1)).filter (· < 512 * r.stripes)).flatMap fun e => s.blkReads asid r e 0 h true
  | c => c.ranges

/-- A load of plane data goes through the core's L1, but for one through a window (R227, R272, R273). -/
def State.calcL1 (s : State) (w : Who) (asid : Nat) (c : Calc) (rs : List (Nat × Nat)) : State :=
  match c with
  | .plane .. | .refine .. => if w.fresh then s else rs.foldl (fun s x => s.fillL1 w.core asid x.1) s
  | _ => s

/-- Poison that a computed load met is logged; the counter moves past open values. -/
def State.calcPoison (s : State) (a : Acc) : Option (Nat × Nat) → State
  | some (k, u) => (s.logPoison a.thread a.iss (permInfo k u)).next
  | none => s

/-- Performs a computed load: a poisoned block marks every slice (R145). -/
def State.performCalc (s : State) (a : Acc) (c : Calc) : State :=
  let p := a.pend.getD 0
  let w := s.whoOf a.thread false a.chain
  let rs := s.calcReads a.owner c
  match s.calc { w with fresh := w.fresh || a.win } a.owner c with
  | (.ok vs pz, s) =>
    (((s.calcL1 w a.owner c rs).calcPoison a pz).onThread a.thread (·.land p (if pz.isSome then vs.map fun v => { v with poison := true } else vs))).dropAcc a.id
  | (.bytes bs pz, s) => ((s.calcPoison a pz).onAcc a.id fun a => { a with st := .done bs pz.isSome }).finishLoad a.thread p a.total
  | (.miss va, s) => s.accMiss a 0 va
  | (.bad va, s) => (s.dropAcc a.id).fatalAt a.thread a.chain 0x08 (permLate 0 va)

/-- Is a recorded store an ordinary one of a phase that has not ended? A strong read by none of its threads does not see it yet (R327). -/
def AccRec.unsettled (r : AccRec) : Bool :=
  r.store && !r.strong && match r.grid with | some g => r.opens.contains g | none => false

/-- A byte as the scheduler reads it at its home slice: without the ordinary stores of phases that have not ended (R327, R422). -/
def State.settledByte (s : State) (b : Nat) : Byte :=
  let st := s.recs.filter fun r => r.store && r.touches b
  match st.reverse.find? fun r => !r.unsettled with
  | some r => r.newByte b
  | none => sopByte s.hbm st b

/-- The value of a counter as the scheduler reads it. -/
def State.counterAt (s : State) (pa : Nat) : Nat :=
  leNat ((List.range 8).map fun k => if s.aliased pa then Config.freeByte s.tick k else s.settledByte (pa + k))

/-- The scheduler reads one counter of a launch at its home slice, as WAITV does (R422): an entry met once stays met. A read that takes a
translation fault waits for its replay, or is made again when the buffer refused it (R222); a counter that may not be read, or is
poisoned, is not met, and poison is logged (R143). -/
def State.depRead (s : State) (g k : Nat) (d : Nat × Nat × Bool) : State :=
  let asid := (s.grid g).lr.asid.toNat
  if d.2.2 || (s.grid g).depWait.any (·.1 == k) then s
  else match s.xlate asid d.1 with
    | (.ok pa true _ _, s) =>
      if s.hbm.pzIn pa 8 then s.logEvent 1 asid 511 (s.grid g).handle (permInfo 0 (d.1 / 32 * 32))
      else if d.2.1 ≤ s.counterAt pa then s.next.onGrid g fun gr => { gr with deps := gr.deps.set k (d.1, d.2.1, true) }
      else s.next
    | (.miss, s) =>
      let (s, e) := s.attach 256 asid 0 d.1 (.counter g k)
      s.onGrid g fun gr => { gr with depWait := gr.depWait ++ [(k, e)] }
    | (_, s) => s

/-- The scheduler reads the counters of a launch that the test selects. -/
def State.depsRead (s : State) (hit : Nat → Bool) (g : Nat) : State :=
  (List.range (s.grid g).deps.length).foldl (fun s k =>
    let d := (s.grid g).deps.getD k (0, 0, true)
    if hit d.1 then s.depRead g k d else s) s

/-- The read of a counter that waits so, on a fault-buffer entry or refused by a full buffer, is made again (R222, R223). -/
def State.depAgain (s : State) (g k : Nat) (e : Option Nat) : State :=
  if (s.grid g).depWait.contains (k, e) then
    let s := s.onGrid g fun gr => { gr with depWait := gr.depWait.filter (· != (k, e)) }
    if (s.grid g).ended then s else s.depRead g k ((s.grid g).deps.getD k (0, 0, true))
  else s

/-- Counters of an ASID's waiting launches are read again (R422). -/
def State.redeps (s : State) (asid : Nat) (hit : Nat → Bool) : State :=
  ((List.range s.grids.length).filter fun g =>
    !(s.grid g).ended && !(s.grid g).ready && (s.grid g).lr.asid.toNat == asid).foldl (State.depsRead · hit ·) s

/-- Performs an access (R238). -/
def State.perform (s : State) (a : Acc) : State :=
  match a.op with
  | .load => s.performLoad a
  | .calc c => s.performCalc a c
  | .store bs bad => (s.hitRings a).foldl (fun s x => s.spoilRing a.owner x) (s.performStore a bs bad)
  | .ring size prod ms => s.performRing a size prod ms
  | _ =>
    let s := s.performStrong a
    let s := s.rewatch fun x => x.id != a.id && x.space == a.space && x.owner == a.owner && overlap x.addr x.len a.addr a.len
    if a.space = .glob then s.redeps a.owner fun d => overlap d 8 a.addr a.len else s

end Machine
end Sys2Proof
end

