-- ==== Sys2Proof/Machine/Access.lean ====
section
/-! DEFINITION. Class G (09 R209–R237), the stash words SPILL and FILL (03 R81–R84, R95), and the events that perform
accesses and complete pending writes. -/

namespace Sys2Proof
namespace Machine
open Host

/-- The effective address of a format M word (R50). -/
def State.ea (s : State) (l : Nat) (a : Operand) (off : Int) (size : Nat) : Nat :=
  (wordOf ((s.src l a 64).toNat + off * size)).toNat

/-- Continues a lane's effect. -/
def LaneRes.bind (r : LaneRes) (f : State → LaneRes) : LaneRes :=
  match r with
  | .ok s => f s
  | r => r

/-- Folds a lane's effect over a list. -/
def LaneRes.fold {α : Type} (f : State → α → LaneRes) : List α → State → LaneRes
  | [], s => .ok s
  | a :: r, s => (f s a).bind (LaneRes.fold f r)

/-! ## Scratchpads and cluster memory -/

/-- The checks of an access outside global memory: R210, then the range locks (R235). -/
def State.localCheck (s : State) (sp : Space) (a n : Nat) (store : Bool) : Option (Nat × Word) :=
  if s.inSpace sp a n then
    match s.lockFault sp a n store with
    | some i => some (0x09, i)
    | none => none
  else some (0x08, permInfo sp.code a)

/-- LDS, LDC, LDX in one lane (R233). -/
def State.localLoad (sp : Space) (d a : Operand) (off : BitVec 12) (s : State) (l : Nat) : LaneRes :=
  let n := d.w.bits / 8
  let ea := s.ea l a off.toInt n
  match s.localCheck sp ea n false with
  | some (c, i) => .fault c i
  | none => .ok (s.issueLoad l sp (s.spaceOwner sp) (s.memAddr sp ea) n ((s.lt l).locate s.gs d d.w.slices) 0)

/-- STS, STC, STX in one lane (R233). -/
def State.localStore (sp : Space) (d a : Operand) (off : BitVec 12) (s : State) (l : Nat) : LaneRes :=
  let n := d.w.bits / 8
  let ea := s.ea l a off.toInt n
  match s.localCheck sp ea n true with
  | some (c, i) => .fault c i
  | none =>
    .ok (s.issueStore l sp (s.spaceOwner sp) (s.memAddr sp ea) (natLe n (s.src l d d.w.bits).toNat) false 0)

/-- LDS (R233). -/
def execLds (g : Guard) (d a : Operand) (off : BitVec 12) (s : State) : Outcome State Fault Refusal :=
  .next (s.lanes (.lds g d a off) offMem (State.localLoad .core d a off))

/-- LDC (R233). -/
def execLdc (g : Guard) (d a : Operand) (off : BitVec 12) (s : State) : Outcome State Fault Refusal :=
  .next (s.lanes (.ldc g d a off) offMem (State.localLoad .cluster d a off))

/-- LDX (R233). -/
def execLdx (g : Guard) (d a : Operand) (off : BitVec 12) (s : State) : Outcome State Fault Refusal :=
  .next (s.lanes (.ldx g d a off) offMem (State.localLoad .chip d a off))

/-- STS (R233). -/
def execSts (g : Guard) (d a : Operand) (off : BitVec 12) (s : State) : Outcome State Fault Refusal :=
  .next (s.lanes (.sts g d a off) offMem (State.localStore .core d a off))

/-- STC (R233). -/
def execStc (g : Guard) (d a : Operand) (off : BitVec 12) (s : State) : Outcome State Fault Refusal :=
  .next (s.lanes (.stc g d a off) offMem (State.localStore .cluster d a off))

/-- STX (R233). -/
def execStx (g : Guard) (d a : Operand) (off : BitVec 12) (s : State) : Outcome State Fault Refusal :=
  .next (s.lanes (.stx g d a off) offMem (State.localStore .chip d a off))

/-! ## Global memory -/

/-- The bytes of a transposed view: those of offsets o … o + n − 1 that lie in the extent, with their positions (R228). -/
def xposeBytes (p : Aper) (o n : Nat) : List (Nat × Nat) :=
  let e := 2 ^ p.ep
  let rows := p.aux / 2 ^ 16 % 2 ^ 16
  let cols := p.aux / 2 ^ 32 % 2 ^ 16
  (List.range n).filterMap fun k =>
    let q := (o + k) / e
    if o + k < rows * cols * e then some (k, p.src + (q % rows * cols + q / rows) * e + (o + k) % e) else none

/-- The checks of an access to global memory at issue: R210, the KV range (R362), then the range locks (R235). -/
def State.globCheck (s : State) (a n : Nat) (store : Bool) : Option (Nat × Word) :=
  let kv := (kvPage a).isSome && (store || (s.areg s.iasid 0x302).getLsbD 0 = false)
  if !s.inSpace .glob a n || kv then some (0x08, permInfo 0 a)
  else match s.lockFault .glob a n store with
    | some i => some (0x09, i)
    | none => none

/-- An access that hits a line whose recorded permission is missing faults at issue, unless the line has left (R214, R225). -/
def State.hitFault (s : State) (a : Nat) (store : Bool) : Bool × State :=
  match s.hitLine s.icore s.iasid a with
  | some (r, w) => if (if store then w else r) then (false, s) else (s.choose 2 = 0, s.next)
  | none => (false, s)

/-- The first of a list of addresses that faults so. -/
def State.hitFaults (s : State) (store : Bool) : List Nat → Option Nat × State
  | [] => (none, s)
  | a :: r => match s.hitFault a store with
    | (true, s) => (some a, s)
    | (false, s) => s.hitFaults store r

/-- Issues the accesses of an access at ea, unless one of the addresses faults on a hit (R225). The spec does not say which address TINFO
names when an access is split or goes through a window; DESIGN CHOICE: a precise fault names ea, an imprecise one the failing part's own
address, at its source behind a window, and of a precise one the space code is 0 (global) also when the line hit lies behind an aperture
window (log entry 52). -/
def State.unlessHit (s : State) (ea : Nat) (store : Bool) (as : List Nat) (f : State → State) : LaneRes :=
  match s.hitFaults store as with
  | (some _, _) => .fault 0x08 (permInfo 0 ea)
  | (none, s) => .ok (f s)

/-- The accesses that a step issued go through a window, and so not through L1 (R227). -/
def State.asWindow (s : State) (f : State → State) : State :=
  let t := f s
  { t with accs := t.accs.map fun a => if s.nextId ≤ a.id then { a with win := true } else a }

/-- One part of an LDG: through a window (R227, R228), or an ordinary load. The tensor record of a plane view is read at issue (R140), so a
thread whose record lies on a page that cannot be translated stalls at the word; the spec does not say whether it might go on (R222), and
this is the model's choice: DESIGN CHOICE, log entry 52. -/
def State.ldgPart (l p total ea : Nat) (s : State) (part : Nat × Nat × Nat) : LaneRes :=
  let (a, k, at_) := part
  let load (s : State) (a k at_ : Nat) : State := s.issueAcc l .glob s.iasid a k .load (some p) at_ total 0
  let view (s : State) (c : Calc) : LaneRes :=
    s.unlessHit ea false ((s.calcReads s.iasid c).map (·.1)) fun s =>
      s.asWindow fun s => s.issueAcc l .glob s.iasid a k (.calc c) (some p) at_ total 0
  match s.window s.iasid a with
  | some w =>
    let o := a - w.wbase
    if w.xf = 0 then
      let ps := splitAt128 (w.src + o) k
      s.unlessHit ea false (ps.map (·.1)) fun s => s.asWindow fun s => ps.foldl (fun s (x, m, j) => load s x m (at_ + j)) s
    else if w.xf = 1 then
      let ps := xposeBytes w o k
      s.unlessHit ea false (ps.map (·.2)) fun s => s.asWindow fun s => ps.foldl (fun s (j, x) => load s x 1 (at_ + j)) s
    else if w.xf = 2 then
      match s.readRec [l] l w.src with
      | (.ok r, s) => view s (.view r (w.aux % 16) o k)
      | (.fault c i, _) => .fault c i
      | (.stall va, _) => .stall va
    else view s (.mxview w.src w.aux w.ep o k)
  | none => s.unlessHit ea false [a] fun s => load s a k at_

/-- LDG in one lane (R233). -/
def State.ldgLane (d a : Operand) (off : BitVec 12) (s : State) (l : Nat) : LaneRes :=
  let n := d.w.bits / 8
  let ea := s.ea l a off.toInt n
  match s.globCheck ea n false with
  | some (c, i) => .fault c i
  | none =>
    let p := s.nextId
    let ps := (s.lt l).locate s.gs d d.w.slices
    let s := (s.onLane l (·.addPend { id := p, slices := ps, vals := [], known := false })).fresh
    (LaneRes.fold (State.ldgPart l p n ea) (splitAt128 ea n) s).bind fun s =>
      .ok (if s.accs.any (·.pend == some p) then s else s.finishLoad (s.ig.t0 + l) p n)

/-- One part of an STG (R227, R228). -/
def State.stgPart (l ea : Nat) (bs : List Byte) (s : State) (part : Nat × Nat × Nat) : LaneRes :=
  let (a, k, at_) := part
  let cut (j n : Nat) : List Byte := (bs.drop (at_ + j)).take n
  match s.window s.iasid a with
  | some w =>
    let o := a - w.wbase
    if w.xf = 0 then
      s.unlessHit ea true ((splitAt128 (w.src + o) k).map (·.1)) fun s =>
        s.asWindow fun s => s.issueStore l .glob s.iasid (w.src + o) (cut 0 k) false 0
    else if w.xf = 1 then
      s.unlessHit ea true ((xposeBytes w o k).map (·.2)) fun s =>
        s.asWindow fun s => (xposeBytes w o k).foldl (fun s (j, x) => s.issueStore l .glob s.iasid x (cut j 1) false 0) s
    else .fault 0x08 (permInfo 4 ea)
  | none => s.unlessHit ea true [a] fun s => s.issueStore l .glob s.iasid a (cut 0 k) false 0

/-- STG in one lane (R233). -/
def State.stgLane (d a : Operand) (off : BitVec 12) (s : State) (l : Nat) : LaneRes :=
  let n := d.w.bits / 8
  let ea := s.ea l a off.toInt n
  match s.globCheck ea n true with
  | some (c, i) => .fault c i
  | none => LaneRes.fold (State.stgPart l ea (natLe n (s.src l d d.w.bits).toNat)) (splitAt128 ea n) s

/-- LDG (R233); its hint changes timing only (R50). -/
def execLdg (g : Guard) (d a : Operand) (hint : BitVec 2) (off : BitVec 12) (s : State) : Outcome State Fault Refusal :=
  .next (s.lanes (.ldg g d a hint off) offMem (State.ldgLane d a off))

/-- STG (R233). -/
def execStg (g : Guard) (d a : Operand) (hint : BitVec 2) (off : BitVec 12) (s : State) : Outcome State Fault Refusal :=
  .next (s.lanes (.stg g d a hint off) offMem (State.stgLane d a off))

/-- PREF (R236): it changes timing only; its address operand faults as any operand does. -/
def execPref (g : Guard) (w : Width) (a : Operand) (hint : BitVec 2) (off : BitVec 12) (s : State) :
    Outcome State Fault Refusal :=
  .next (s.lanesOk (.pref g w a hint off) offMem fun s _ => s)

/-- A core drops L1 lines: what it may still return of older versions of their bytes ends (R237, R249). -/
def State.dropL1 (s : State) (core asid : Nat) (hit : Nat → Nat → Bool) : State :=
  let own (r : AccRec) : Bool :=
    (decide (kvBase ≤ r.pa) && hit r.pa r.len) ||
      s.lines.any fun n => n.asid == asid && [0, 128].any fun h => hit (n.la + h) 128 && overlap r.pa r.len (n.pa + h) 128
  { s with
    recs := s.recs.map fun r => if own r then { r with cut := core :: r.cut } else r
    l1 := s.l1.filter fun m => !(m.core == core && m.asid == asid && hit m.la 128) }

/-- L1INV over a range (R237): every line that overlaps the range of an executing lane. -/
def execL1inv (g : Guard) (len a : Operand) (off : BitVec 12) (s : State) : Outcome State Fault Refusal :=
  .next (s.lanesOk (.l1inv g len a off) offMem fun s l =>
    let n := (s.opRaw l len).toNat
    let ea := s.ea l a off.toInt 1
    let lo := ea / 128 * 128
    s.dropL1 s.icore s.iasid fun b k => overlap b k lo ((ea + n + 127) / 128 * 128 - lo) && decide (0 < n))

/-- L1INV.ALL (R237). -/
def execL1invAll (g : Guard) (s : State) : Outcome State Fault Refusal :=
  .next (s.lanesOk (.l1invAll g) offMem fun s _ => s.dropL1 s.icore s.iasid fun _ _ => true)

/-! ## LDT and STT (R230, R234) -/

/-- A layout word's fields (R230). -/
structure Layout where
  base : Nat
  s0 : Nat
  s1 : Nat
  s2 : Nat
  mode : Nat
  mbz : Nat
deriving DecidableEq, Repr

/-- n consecutive 32-bit operands of a lane from an operand on, as one number (R230, R266). -/
def State.wide32 (s : State) (l : Nat) (o : Operand) (n : Nat) : Nat :=
  (List.range n).foldr (fun k v => v * 2 ^ 32 +
    (sliceWord (((((s.lt l).locate s.gs o (8 * n)).drop (8 * k)).take 8).map (s.lt l).slice)).toNat) 0

/-- The layout word of a lane (R230). -/
def State.layout (s : State) (l : Nat) (o : Operand) : Layout :=
  let v := s.wide32 l o 3
  { base := field v 0 32, s0 := field v 32 16, s1 := field v 48 16, s2 := field v 64 16, mode := field v 80 4, mbz := field v 84 12 }

/-- perm(a, m) (R230). -/
def permAddr (a m : Nat) : Nat := if m = 0 then a else a ^^^ (a / 2 ^ (7 + m) % 64 * 4)

/-- The logical address of element j of lane l (R234). -/
def Layout.addr (y : Layout) (t l j : Nat) : Nat := y.base + t * y.s2 + l * y.s0 + j * y.s1

/-- The first fault of an LDT or STT in lane l (R210, R234, R235), the layout word being good. -/
def State.tileFault (s : State) (y : Layout) (t n bytes l : Nat) (store : Bool) : Option (Nat × Word) :=
  let as := (List.range n).map (y.addr t l)
  match as.find? fun a => !s.inSpace .core a bytes with
  | some a => some (0x08, permInfo 1 a)
  | none =>
    (as.filterMap fun a => s.lockConflict s.icore .core s.ig.team (permAddr a y.mode) bytes store).foldl
      (fun m (x, k) => match m with
        | some (c, i) => if x < (i.toNat % 2 ^ 57) then some (0x09, lockInfo x k) else some (c, i)
        | none => some (0x09, lockInfo x k)) none

/-- LDT and STT (R234): E is the set of lanes whose guard holds; a fault of any lane traps every lane of the issue set, with the cause and
TINFO of the lowest one. A lane's own faults come in the order marked slice (R72), layout word (R230, lane l0 alone), bounds, range lock. -/
def State.tileWord (s : State) (i : Instr) (d lay : Operand) (n t : Nat) (store : Bool)
    (act : State → Layout → Nat → Nat → State) : State :=
  let trap (s : State) (c : Nat) (info : Word) : State := s.faultAll 6 c info
  s.groupWord fun s =>
    let E := s.guarded i
    let l0 := E.headD 0
    let y := s.layout l0 lay
    let bytes := d.w.bits / 8
    let faultOf (l : Nat) : Option (Nat × Word) :=
      if (s.lowestMark l i.markedGuard).isSome then s.operandFault l i (i.uses.filter (!·.uni))
      else if !E.contains l then none
      else match s.operandFault l i (lowUses i.uses l l0) with
        | some f => some f
        | none => if l = l0 ∧ (8 ≤ y.mode ∨ y.mbz ≠ 0) then some (0x02, 0) else s.tileFault y t n bytes l store
    match s.issue.lanes.findSome? faultOf with
    | some (c, info) => trap s c info
    | none => E.foldl (fun s l => (List.range n).foldl (fun s j => act s y l j) s) s

/-- LDT (R234). -/
def execLdt (g : Guard) (d l : Operand) (n1 : BitVec 6) (t : BitVec 8) (s : State) : Outcome State Fault Refusal :=
  let n := n1.toNat + 1
  .next (s.tileWord (.ldt g d l n1 t) d l n t.toNat false fun s y ln j =>
    let ps := (((s.lt ln).locate s.gs d (n * d.w.slices)).drop (j * d.w.slices)).take d.w.slices
    s.issueLoad ln .core s.ig.team (permAddr (y.addr t.toNat ln j) y.mode) (d.w.bits / 8) ps 0)

/-- STT (R234): every later chain of the issue set's threads sees its writes. -/
def execStt (g : Guard) (d l : Operand) (n1 : BitVec 6) (t : BitVec 8) (s : State) : Outcome State Fault Refusal :=
  let n := n1.toNat + 1
  .next (s.tileWord (.stt g d l n1 t) d l n t.toNat true fun s y ln j =>
    let ps := (((s.lt ln).locate s.gs d (n * d.w.slices)).drop (j * d.w.slices)).take d.w.slices
    let v := sliceWord (ps.map (s.lt ln).slice)
    s.issueStore ln .core s.ig.team (permAddr (y.addr t.toNat ln j) y.mode) (natLe (d.w.bits / 8) v.toNat) false
      (laneSet s.issue.lanes))

/-! ## The stash (R81–R84, R95) -/

/-- The physical slices of chunk c of a range of n slices (R82). -/
def State.chunk (s : State) (l : Nat) (d : Operand) (n c : Nat) : List Nat :=
  (((s.lt l).locate s.gs d n).drop (64 * c)).take 64

/-- The bytes of a chunk's slices, zeros past the range (R82). -/
def chunkBytes (vs : List Slice) : List Byte :=
  (List.range 32).map fun b =>
    ((vs.getD (2 * b) default).v.setWidth 8) ||| (((vs.getD (2 * b + 1) default).v.setWidth 8) <<< 4)

/-- A chunk is done (R83, R95): the word runs again until the last one. SPR can be written by SYSWR, and the spec does not say what a
word does that finds SPR at or above its own number of chunks; DESIGN CHOICE (log entry 54): SPR counts on, modulo 16, and the word runs
again until SPR + 1 is that number. -/
def State.chunkDone (s : State) (l j k : Nat) (stp : Word) : State :=
  s.onLane l fun th =>
    { th with stp, spr := if j + 1 = k then 0 else BitVec.ofNat 4 (j + 1), pc := if j + 1 = k then th.pc else s.issue.pc }

/-- The checks of a stash access of 32 bytes (R84, R235). -/
def State.stashCheck (s : State) (a : Nat) (store : Bool) : (Option (Nat × Word)) × State :=
  match s.globCheck a 32 store with
  | some f => (some f, s)
  | none => match s.hitFault a store with
    | (true, s) => (some (0x08, permInfo 0 a), s)
    | (false, s) => (none, s)

/-- SPILL (R95): one chunk for each issue. A lane whose guard has become false since the word's first chunk goes on to the next chain
with SPR as it stands: R83 speaks of a guard that is false in the first issue only; DESIGN CHOICE (log entry 54). -/
def execSpill (g : Guard) (d : Operand) (n : BitVec 14) (s : State) : Outcome State Fault Refusal :=
  .next (s.lanes (.spill g d n) offMem fun s l =>
    let th := s.lt l
    let j := th.spr.toNat
    let k := (n.toNat + 63) / 64
    if th.stl.toNat < th.stp.toNat + 32 then .fault 0x06 (BitVec.ofNat 64 j)
    else match s.stashCheck th.stp.toNat true with
      | (some (c, i), _) => .fault c i
      | (none, s) =>
        let vs := (s.chunk l d n.toNat j).map th.slice
        let s := s.issueStore l .glob s.iasid th.stp.toNat (chunkBytes vs) (vs.any (·.poison)) 0
        .ok (s.chunkDone l j k (th.stp + 32)))

/-- FILL (R95): one chunk for each issue, the last chunk first. DESIGN CHOICE (log entry 54): where SPR is at or above the number of chunks,
the chunk filled is chunk 0; and a lane whose guard has become false since the first chunk goes on with SPR as it stands. -/
def execFill (g : Guard) (d : Operand) (n : BitVec 14) (s : State) : Outcome State Fault Refusal :=
  .next (s.lanes (.fill g d n) offMem fun s l =>
    let th := s.lt l
    let j := th.spr.toNat
    let k := (n.toNat + 63) / 64
    if th.stp.toNat < th.stb.toNat + 32 then .fault 0x06 (BitVec.ofNat 64 (16 + j))
    else match s.stashCheck (th.stp.toNat - 32) false with
      | (some (c, i), _) => .fault c i
      | (none, s) =>
        let s := s.issueLoad l .glob s.iasid (th.stp.toNat - 32) 32 (s.chunk l d n.toNat (k - 1 - j)) 0
        .ok (s.chunkDone l j k (th.stp - 32)))

/-! ## Events -/

/-- The access with an identifier, when it may be performed now. -/
def State.due (s : State) (id : Nat) (f : AccOp → Bool) : Option Acc :=
  match s.accs.find? fun a => a.id == id with
  | some a => if f a.op && s.eligible a then some a else none
  | none => none

/-- Is it a load into slices? -/
def AccOp.isLoad : AccOp → Bool
  | .load | .calc _ => true
  | _ => false

/-- Is it an ordinary store, or a ring's append? -/
def AccOp.isStore : AccOp → Bool
  | .store _ _ | .ring _ _ _ => true
  | _ => false

/-- Does the chain at the program counter of an access's thread wait for the slices that the access brings (R69, R221)? -/
def State.awaited (s : State) (a : Acc) : Bool :=
  let th := s.thread a.thread
  th.wait == .none && (match a.pend, s.fetchOf a.thread with
    | some p, .chain c =>
      (th.pend.filter (·.id == p)).any fun w => (c.words.filterMap decode).any fun i => (th.reads (s.recOf th.grp) i).any w.slices.contains
    | _, _ => false)

/-- Performs an access. A thread that its data takes out of the parked pool begins again with age 0 (R170, R221): one that waited for a
load in the fabric, or for a load of global memory if that missed in the LLC or waited on translation, which the spec leaves to timing. -/
def State.performAcc (s : State) (a : Acc) : State :=
  let t := s.perform a
  if s.awaited a && a.space != .core && t.accs.all (·.id != a.id) then
    if a.space != .glob || a.win || a.op.isLoad && t.choose 2 == 1 then t.next.onThread a.thread fun th => { th with age := 0 } else t.next
  else t

/-- Performs the access with an identifier, if it may be performed now. -/
def State.performDue (s : State) (id : Nat) (f : AccOp → Bool) : State :=
  match s.due id f with
  | some a => s.performAcc a
  | none => s

/-- LOAD_DATA_RETURN (R70, R222): a load is performed, and its value lands when its last part has been. -/
def execLoadDataReturn (id : Nat) (s : State) : Outcome State Fault Refusal := .next (s.performDue id AccOp.isLoad)

/-- STORE_PERFORMED (R238). -/
def execStorePerformed (id : Nat) (s : State) : Outcome State Fault Refusal :=
  .next (s.performDue id AccOp.isStore)

/-- STRONG_ACCESS_PERFORMED (R320). -/
def execStrongAccessPerformed (id : Nat) (s : State) : Outcome State Fault Refusal :=
  .next (s.performDue id AccOp.isStrong)


/-- Has a waiting access found no free watch: are the 256 watches of its home slice's engine held by older ones (R327)? -/
def State.unwatched (s : State) (a : Acc) : Bool :=
  decide (256 ≤ (s.accs.filter fun x => x.st == .watch && !x.parked && decide (x.id < a.id)).length) &&
    decide (256 ≤ (s.accs.filter fun x =>
      x.st == .watch && !x.parked && decide (x.id < a.id) && s.homeOf x.space x.owner x.addr == s.homeOf a.space a.owner a.addr).length)

/-- WAITV_REREAD (R327): an engine without a free watch re-reads the word of a waiting thread. -/
def execWaitvReread (t : Nat) (s : State) : Outcome State Fault Refusal :=
  .next (s.rewatch fun a => a.thread == t && s.unwatched a)

/-- SLICE_WRITE_COMPLETE (R69, R70): an arithmetic result lands. -/
def execSliceWriteComplete (t id : Nat) (s : State) : Outcome State Fault Refusal :=
  .next (s.onThread t fun th =>
    match th.pend.find? fun w => w.id == id with
    | some w => if w.known then th.land id w.vals else th
    | none => th)

end Machine
end Sys2Proof
end

