-- ==== Sys2Proof/Machine/SliceOps.lean ====
section
/-! DEFINITION. Class A without the stash transfers: moves, slice copies, frames, loops and index registers (03 R87–R96). -/

namespace Sys2Proof
namespace Machine
open Host

/-- A signed imm14 as an integer (R49). -/
def imm14 (i : BitVec 14) : Int := i.toInt

/-- The address off × 8 bytes from the word being executed (R51, R90). -/
def State.target (s : State) (off : Int) : Word := wordOf (s.issue.wordAddr.toNat + 8 * off)

/-- MOV (R87). -/
def execMov (g : Guard) (d a : Operand) (s : State) : Outcome State Fault Refusal :=
  .next (s.lanesVal (.mov g d a) d fun s l => s.src l a d.w.bits)

/-- MOVI (R87): the immediate sign-extended. -/
def execMovi (g : Guard) (d : Operand) (imm : BitVec 28) (s : State) : Outcome State Fault Refusal :=
  .next (s.lanesVal (.movi g d imm) d fun _ _ => imm.signExtend 64)

/-- MOVHI (R87): the immediate in the top 28 bits of D. -/
def execMovhi (g : Guard) (d : Operand) (imm : BitVec 28) (s : State) : Outcome State Fault Refusal :=
  .next (s.lanesVal (.movhi g d imm) d fun _ _ => imm.setWidth 64 <<< (d.w.bits - 28))

/-- SMOVE (R88): n slices with their poison marks, read before any is written. -/
def execSmove (g : Guard) (d a : Operand) (n : BitVec 14) (s : State) : Outcome State Fault Refusal :=
  .next (s.lanesOk (.smove g d a n) offNone fun s l =>
    let th := s.lt l
    offNone (s.writeSlices l (th.locate s.gs d n.toNat) ((th.locate s.gs a n.toNat).map th.slice)) l)

/-- SSET (R89): n slices set to one value, unmarked. -/
def execSset (g : Guard) (d : Operand) (v : BitVec 4) (n1 : BitVec 10) (s : State) : Outcome State Fault Refusal :=
  .next (s.lanesOk (.sset g d v n1) offNone fun s l =>
    offNone (s.writeSlices l ((s.lt l).locate s.gs d (n1.toNat + 1)) (List.replicate (n1.toNat + 1) { v, poison := false })) l)

/-- L − G, the greatest frame base (Table 3.4). -/
def State.fbMax (s : State) : Nat := s.ir.l.toNat - s.ir.g.toNat

/-- Bits [56:3] of an address, the part that LS, TPC and TNPC hold (Tables 3.6, 18.4). -/
def pcBits (a : Word) : Word := a &&& 0x01FFFFFFFFFFFFF8

/-- LOOP (R90): a zero count goes to the exit target; otherwise a level is pushed. -/
def execLoop (step : BitVec 14) (a : Operand) (off : BitVec 14) (s : State) : Outcome State Fault Refusal :=
  .next (s.lanes (.loop step a off) offNone fun s l =>
    let n := s.src l a 32
    let th := s.lt l
    let fb := th.fb.toNat + 8 * step.toNat
    if n = 0 then .ok (offNone (s.onLane l fun th => { th with pc := s.target (imm14 off) }) l)
    else if 4 ≤ th.lvl.toNat then .fault 0x18 12
    else if s.fbMax < fb then .fault 0x02 0
    else .ok (offNone (s.onLane l fun th =>
      { th with
        lc := th.lc.set th.lvl.toNat { step := step.setWidth 7, count := n.setWidth 32 }
        ls := th.ls.set th.lvl.toNat (pcBits s.issue.nextPc)
        fb := BitVec.ofNat 10 fb
        lvl := th.lvl + 1 }) l))

/-- The pop of R91, or none where FB would fall below 0. -/
def Thread.popLevel (th : Thread) : Option Thread :=
  let k := th.lvl.toNat - 1
  let c := th.lc.getD k default
  if th.fb.toNat < 8 * c.step.toNat then none
  else some { th with
    fb := BitVec.ofNat 10 (th.fb.toNat - 8 * c.step.toNat)
    lc := th.lc.set k { c with count := 0 }
    lvl := th.lvl - 1 }

/-- Pops m levels (R91). -/
def Thread.popLevels : Nat → Thread → Option Thread
  | 0, th => some th
  | m + 1, th => (th.popLevel).bind (Thread.popLevels m)

/-- ENDLOOP (R91): one iteration ends; the last one pops the level. -/
def execEndloop (s : State) : Outcome State Fault Refusal :=
  .next (s.lanes .endloop offNone fun s l =>
    let th := s.lt l
    if th.lvl = 0 then .fault 0x18 0
    else
      let k := th.lvl.toNat - 1
      let c := th.lc.getD k default
      if c.count - 1 = 0 then
        match th.popLevel with
        | none => .fault 0x02 0
        | some th' => .ok (offNone (s.onLane l fun _ => th') l)
      else .ok (offNone (s.onLane l fun th =>
        { th with lc := th.lc.set k { c with count := c.count - 1 }, pc := th.ls.getD k 0 }) l))

/-- ENDLOOP.BRK (R91): m levels are popped and the lane goes to the break target. -/
def execEndloopBrk (m1 off : BitVec 14) (s : State) : Outcome State Fault Refusal :=
  .next (s.lanes (.endloopBrk m1 off) offNone fun s l =>
    let th := s.lt l
    if th.lvl.toNat < m1.toNat + 1 then .fault 0x18 (th.lvl.setWidth 64)
    else match Thread.popLevels (m1.toNat + 1) th with
      | none => .fault 0x02 0
      | some th' => .ok (offNone (s.onLane l fun _ => { th' with pc := s.target (imm14 off) }) l))

/-- FRAMEADJ (R92). -/
def execFrameadj (delta : BitVec 14) (s : State) : Outcome State Fault Refusal :=
  .next (s.lanes (.frameadj delta) offNone fun s l =>
    let fb : Int := (s.lt l).fb.toNat + 8 * imm14 delta
    if fb < 0 ∨ s.fbMax < fb then .fault 0x02 0
    else .ok (offNone (s.onLane l fun th => { th with fb := BitVec.ofNat 10 fb.toNat }) l))

/-- The number of the index register an operand names. -/
def ixNum (o : Operand) : Nat := match o.sel with | .index n => n.val | _ => 0

/-- IXSET (R93). -/
def execIxset (g : Guard) (d x : Operand) (count : BitVec 14) (s : State) : Outcome State Fault Refusal :=
  .next (s.lanes (.ixset g d x count) offNone fun s l =>
    let base := ((s.lt l).locate s.gs d 1).headD 0
    let lim := base + count.toNat * d.w.slices
    if s.ir.l.toNat < lim then .fault 0x02 0
    else
      let r : IndexReg := { idx := 0, ew := d.w.code, lim := BitVec.ofNat 11 lim, base := BitVec.ofNat 10 base }
      .ok (offNone (s.onLane l fun th => { th with x := th.x.set (ixNum x) r }) l))

/-- IXSTEP (R94): the index register's index set to a value modulo 2^16. -/
def State.setIdx (s : State) (l n : Nat) (v : Int) : State :=
  s.onLane l fun th => { th with x := th.x.modify n fun r => { r with idx := BitVec.ofInt 16 v } }

/-- IXSTEP.ADD (R94). -/
def execIxstepAdd (g : Guard) (x a : Operand) (imm : BitVec 14) (s : State) : Outcome State Fault Refusal :=
  .next (s.lanesOk (.ixstepAdd g x a imm) offNone fun s l =>
    offNone (s.setIdx l (ixNum x)
      (((s.lt l).x.getD (ixNum x) default).idx.toNat + (s.src l a 64).toNat + imm14 imm)) l)

/-- IXSTEP.SET (R94). -/
def execIxstepSet (g : Guard) (x a : Operand) (imm : BitVec 14) (s : State) : Outcome State Fault Refusal :=
  .next (s.lanesOk (.ixstepSet g x a imm) offNone fun s l =>
    offNone (s.setIdx l (ixNum x) ((s.src l a 64).toNat + imm14 imm)) l)

/-- The value STASHQ writes at a width (R96). -/
def stashqVal (th : Thread) (q : BitVec 2) (w : Nat) : Word :=
  if q = 0 then BitVec.ofNat 64 (Nat.min ((th.stl.toNat - th.stp.toNat) / 32) (2 ^ w - 1))
  else if q = 1 then th.stp else if q = 2 then th.stl else th.stb

/-- STASHQ (R96). -/
def execStashq (g : Guard) (d : Operand) (q : BitVec 2) (s : State) : Outcome State Fault Refusal :=
  .next (s.lanesOk (.stashq g d q) offMem fun s l => s.dst l d (stashqVal (s.lt l) q d.w.bits))

end Machine
end Sys2Proof
end

