-- ==== Sys2Proof/Machine/Affine.lean ====
section
/-! DEFINITION. Class C: the affine registers of the group, their promoted and demoted forms, and the words that set, scale and
read them (04 R112–R121). -/

namespace Sys2Proof
namespace Machine
open Host

/-- The number of an affine operand. -/
def affNum (o : Operand) : Nat := match o.sel with | .affine n => n.val | _ => 0

/-- The lanes of the group that have not exited, in the domain of a lane (R112). -/
def State.domainLive (s : State) (l : Nat) : List Nat :=
  (List.range s.ig.w).filter fun k => affDomain s.ig.w k == affDomain s.ig.w l && !(s.lt k).exited

/-- Sets an affine register in a lane's domain. -/
def State.setAff (s : State) (l n : Nat) (r : AffReg) : State :=
  s.onIg fun g => { g with aff := g.aff.modify (affDomain g.w l) (·.set n r) }

/-- β of a register. -/
def AffReg.base : AffReg → Word
  | .promoted β _ => β
  | .demoted β _ => β

/-- A lane's offset: σ × l of a promoted register, its own of a demoted one (R114). -/
def AffReg.offset (r : AffReg) (l : Nat) : Int :=
  match r with
  | .promoted _ σ => σ.toInt * l
  | .demoted _ off => (off.getD (l % 32) 0).toInt

/-- Does a value fit 32 signed bits? -/
def fits32 (n : Int) : Bool := decide (-(2 ^ 31) ≤ n ∧ n < 2 ^ 31)

/-- What a class C write does to its register (R114): the new register, or the TINFO bit 4 of affine divergence. `vals` gives
n(l) for each executing lane of a group of width w, `pair` the pair of a pair result, `full` whether the write is full, `k` the backing count.
R114 does not order its two cases: where a write lacks backing and needs an offset out of range, TINFO[4] says that it lacks backing; DESIGN
CHOICE (log entry 13). -/
def affWrite (w : Nat) (r : AffReg) (n k : Nat) (full : Bool) (pair : Option (Word × BitVec 32)) (vals : List (Nat × Word)) :
    Except Word AffReg :=
  match full, pair with
  | true, some (β, σ) => .ok (.promoted β σ)
  | _, _ =>
    let β := if full then (match vals with | (_, v) :: _ => v | [] => r.base) else r.base
    if k ≤ n then .error (BitVec.ofNat 64 n)
    else
      let offs := (List.range (Nat.min w 32)).map fun j =>
        match vals.find? (fun p => p.1 % 32 == j) with
        | some (_, v) => (v - β).toInt
        | none =>
          -- a lane that does not execute keeps its v; a full write leaves only exited lanes here
          if full then 0 else r.offset (match vals with | (l, _) :: _ => (l / 32) * 32 + j | [] => j)
      if vals.all fun p => fits32 (p.2 - β).toInt then
        if offs.all fits32 then .ok (.demoted β (offs.map (BitVec.ofInt 32))) else .error (BitVec.ofNat 64 (16 + n))
      else .error (BitVec.ofNat 64 (16 + n))

/-- Splits lanes into those whose operand read faults and the rest. With a uniform operand only the lowest lane reads, so the
rest begins at the first lane that can (log entry 13). -/
def State.affLanes (s : State) (i : Instr) (uni : Bool) (ls : List Nat) : List (Nat × Nat × Word) × List Nat :=
  match ls with
  | [] => ([], [])
  | l :: r =>
    match s.operandFault l i i.uses with
    | some (c, info) => let (f, e) := s.affLanes i uni r; ((l, c, info) :: f, e)
    | none => if uni then ([], l :: r) else let (f, e) := s.affLanes i uni r; (f, l :: e)

/-- A class C word that writes an affine register (R114, R116): the latch records v(l) at width 64 after the chain. A lane that faults, in
this word or in another of its chain, has no effect and so counts as none of the executing lanes, for fullness and for l0; DESIGN CHOICE
(log entry 13). -/
def State.affWord (s : State) (i : Instr) (uni : Bool) (d : Operand)
    (pair : State → Nat → Option (Word × BitVec 32)) (val : State → Nat → Nat → Word) : Outcome State Fault Refusal :=
  let n := affNum d
  let marked := s.issue.lanes.filterMap fun l => (s.lowestMark l (guardSlices i.guard)).map fun p =>
    (l, 0x0B, markInfo ((s.lowestMark l (s.markReads l (if uni then [] else i.uses) (i.markedGuard ++ i.predRead))).getD p))
  let (bad, ex) := s.affLanes i uni (s.guarded i)
  let s1 := (marked ++ bad).foldl (fun s' f => s'.fault f.1 f.2.1 f.2.2) s
  let latchAll := fun (s' : State) => s'.issue.lanes.foldl (fun s'' l => s''.setLatch l (affValue (s''.ig.affReg l n) l) .w64) s'
  match ex with
  | [] => .next (latchAll s1).finish
  | l0 :: _ =>
    let full := (s.domainLive l0).all fun k => ex.contains k
    let vals := ex.map fun l => (l, val s l0 l)
    match affWrite s.ig.w (s.ig.affReg l0 n) n s.ir.aback.toNat full (pair s l0) vals with
    | .ok r => .next (latchAll (s1.setAff l0 n r)).finish
    | .error info => .next (ex.foldl (fun s l => s.fault l 0x17 info) s1).finish

/-- AMOV (R117): a line through the lowest executing lane's base and stride. -/
def execAmov (g : Guard) (d a b : Operand) (s : State) : Outcome State Fault Refusal :=
  s.affWord (.amov g d a b) true d
    (fun s l0 => some (s.src l0 a 64, (s.src l0 b 32).setWidth 32))
    (fun s l0 l => wordOf ((s.src l0 a 64).toNat + sval 32 (s.src l0 b 32) * l))

/-- v of a register in a lane of the issuing group. -/
def State.affVal (s : State) (l n : Nat) : Word := affValue (s.ig.affReg l n) l

/-- AADD (R118). -/
def execAadd (g : Guard) (d a b : Operand) (s : State) : Outcome State Fault Refusal :=
  s.affWord (.aadd g d a b) true d
    (fun s l0 => match s.ig.affReg l0 (affNum a) with
      | .promoted β σ => some (β + s.src l0 b 64, σ)
      | .demoted _ _ => none)
    (fun s l0 l => s.affVal l (affNum a) + s.src l0 b 64)

/-- AMUL (R118): the pair stands only where the scaled stride fits 32 signed bits. -/
def execAmul (g : Guard) (d a b : Operand) (s : State) : Outcome State Fault Refusal :=
  s.affWord (.amul g d a b) true d
    (fun s l0 => match s.ig.affReg l0 (affNum a) with
      | .promoted β σ =>
        let k := sval 32 (s.src l0 b 32)
        if fits32 (σ.toInt * k) then some (wordOf (β.toNat * k), BitVec.ofInt 32 (σ.toInt * k)) else none
      | .demoted _ _ => none)
    (fun s l0 l => wordOf ((s.affVal l (affNum a)).toNat * sval 32 (s.src l0 b 32)))

/-- AGET (R120). -/
def execAget (g : Guard) (d a : Operand) (q : AffQuery) (s : State) : Outcome State Fault Refusal :=
  .next (s.lanesVal (.aget g d a q) d fun s l =>
    match q, s.ig.affReg l (affNum a) with
    | .base, r => r.base
    | .stride, .promoted _ σ => σ.signExtend 64
    | .stride, .demoted _ _ => 0
    | .form, .promoted _ _ => 0
    | .form, .demoted _ _ => 1)

/-- AFROM (R119): never a pair. -/
def execAfrom (g : Guard) (d a : Operand) (s : State) : Outcome State Fault Refusal :=
  s.affWord (.afrom g d a) false d (fun _ _ => none) (fun s _ l => s.src l a 64)

/-- ALEA (R121). -/
def execAlea (g : Guard) (d a : Operand) (n : BitVec 4) (sc : BitVec 3) (s : State) : Outcome State Fault Refusal :=
  .next (s.lanesVal (.alea g d a n sc) d fun s l =>
    wordOf ((s.affVal l n.toNat).toNat + s.val l a 64 * 2 ^ sc.toNat))

end Machine
end Sys2Proof
end

