-- ==== Sys2Proof/Machine/Control.lean ====
section
/-! DEFINITION. Class E: branches, calls, join masks, EXIT, YIELD and NOP (07 R169–R194), and the end of a YIELD delay. -/

namespace Sys2Proof
namespace Machine
open Host

/-- An address with bits [2:0] cleared (R186). -/
def codeAddr (a : Word) : Word := a &&& ~~~7#64

/-- A lane's pc (R184). -/
def State.setPc (s : State) (l : Nat) (a : Word) : State := s.onLane l fun th => { th with pc := a }

/-- Changes join mask n of the issuing group. -/
def State.onMask (s : State) (n : Nat) (fm fa : Word → Word) : State :=
  s.onIg fun g => { g with m := g.m.modify n fm, a := g.a.modify n fa }

/-- A thread released at JWAIT on Jn continues after its chain, ready with age 0 (R170, R177); one whose chain also waits
elsewhere keeps that wait. -/
def Thread.release (n : Nat) (th : Thread) : Thread := if th.wait = .jwait n then { th with wait := .none, age := 0 } else th

/-- The release check of Jn (R177). -/
def State.check (s : State) (n : Nat) : State :=
  let a := s.ig.a.getD n 0
  if a ≠ 0 ∧ a = s.ig.m.getD n 0 then
    let s := (List.range s.ig.w).foldl (fun s l => if laneIn a l then s.onLane l (Thread.release n) else s) s
    s.onMask n id (fun _ => 0)
  else s

/-- Removes a lane from Jn (R185, R189). -/
def State.unmask (s : State) (l n : Nat) : State := s.onMask n (laneDel · l) (laneDel · l)

/-- BRA (R185). -/
def execBra (g : Guard) (off : BitVec 28) (s : State) : Outcome State Fault Refusal :=
  .next (s.lanesOk (.bra g off) offMem fun s l => s.setPc l (s.target off.toInt))

/-- BRA.LV (R185). -/
def execBraLv (g : Guard) (n : Fin 12) (off : BitVec 28) (s : State) : Outcome State Fault Refusal :=
  .next (s.lanesThen (.braLv g n off) offMem
    (fun s l => .ok ((s.unmask l n.val).setPc l (s.target off.toInt))) (·.check n.val))

/-- BRX (R186). -/
def execBrx (g : Guard) (a : Operand) (s : State) : Outcome State Fault Refusal :=
  .next (s.lanesOk (.brx g a) offMem fun s l => s.setPc l (codeAddr (s.src l a 64)))

/-- CALL (R187). -/
def execCall (g : Guard) (d : Operand) (off : BitVec 28) (s : State) : Outcome State Fault Refusal :=
  .next (s.lanesOk (.call g d off) (offResult d) fun s l =>
    (s.result l d s.issue.nextPc).setPc l (s.target off.toInt))

/-- CALLX (R187): A is read before D is written. -/
def execCallx (g : Guard) (d a : Operand) (s : State) : Outcome State Fault Refusal :=
  .next (s.lanesOk (.callx g d a) (offResult d) fun s l =>
    (s.result l d s.issue.nextPc).setPc l (codeAddr (s.src l a 64)))

/-- RET (R186). -/
def execRet (g : Guard) (a : Operand) (s : State) : Outcome State Fault Refusal :=
  .next (s.lanesOk (.ret g a) offMem fun s l => s.setPc l (codeAddr (s.src l a 64)))

/-- JOIN (R189). -/
def execJoin (g : Guard) (n : Fin 12) (s : State) : Outcome State Fault Refusal :=
  .next (s.lanesThen (.join g n) offMem (fun s l => .ok (s.onMask n.val (laneAdd · l) id)) (·.check n.val))

/-- LEAVE (R189). -/
def execLeave (g : Guard) (n : Fin 12) (s : State) : Outcome State Fault Refusal :=
  .next (s.lanesThen (.leave g n) offMem (fun s l => .ok (s.unmask l n.val)) (·.check n.val))

/-- JWAIT (R189). -/
def execJwait (g : Guard) (n : Fin 12) (s : State) : Outcome State Fault Refusal :=
  .next (s.lanesThen (.jwait g n) offMem
    (fun s l => .ok (if laneIn (s.ig.m.getD n.val 0) l then
        (if (s.lt l).wait = .none then (s.onMask n.val id (laneAdd · l)).waitLane l (.jwait n.val)
         else s.onMask n.val id (laneAdd · l)) else s))
    (·.check n.val))

/-- MGET (R190). -/
def execMget (g : Guard) (d : Operand) (arr : Bool) (n : Fin 12) (s : State) : Outcome State Fault Refusal :=
  .next (s.lanesVal (.mget g d arr n) d fun s _ => (if arr then s.ig.a else s.ig.m).getD n.val 0)

/-- MPUT (R191). -/
def execMput (g : Guard) (a : Operand) (n : Fin 12) (s : State) : Outcome State Fault Refusal :=
  .next (s.lanesThen (.mput g a n) offMem
    (fun s l => .ok (if (s.src l a a.w.bits).getLsbD l then s.onMask n.val (laneAdd · l) id
      else s.onMask n.val (laneDel · l) id))
    (·.check n.val))

/-- The drafter registrations of threads that end go with them (R401). -/
def State.dropDrafters (s : State) (gone : Nat → Bool) : State :=
  { s with seqs := s.seqs.map fun ((n, q) : Nat × Option Seq) => (n, q.map fun q =>
      match q.drafter with
      | some (t, _) => if gone t then { q with drafter := none } else q
      | none => q) }

/-- The thread ends and leaves every mask and the trap set (R192); its squash event is discarded (R403). -/
def State.exitLane (s : State) (l : Nat) : State :=
  let s := s.dropDrafters fun t => t == s.ig.t0 + l
  (s.onLane l fun th => { th with exited := true, ev := none }).onIg fun g =>
    { g with m := g.m.map (laneDel · l), a := g.a.map (laneDel · l), tset := laneDel g.tset l }

/-- After EXIT: the release check of every mask, and deferred threads wake when the trap set has emptied (R192, R444). -/
def State.afterExit (s : State) : State :=
  let s := (List.range 12).foldl State.check s
  if s.ig.tset = 0 then s.wakeDeferred s.issue.grp else s

/-- EXIT (R192). -/
def execExit (g : Guard) (s : State) : Outcome State Fault Refusal :=
  .next (s.lanesThen (.exit g) offMem (fun s l => .ok (s.exitLane l)) State.afterExit)

/-- YIELD (R193): a count of 0 does not delay the thread. -/
def execYield (g : Guard) (c : BitVec 13) (s : State) : Outcome State Fault Refusal :=
  .next (s.lanesOk (.yield g c) offMem fun s l =>
    s.onLane l fun th => { th with age := 0, wait := if c = 0 ∨ th.wait ≠ .none then th.wait else .yield s.issue.iss })

/-- NOP (R194): 0 to its latch, whatever its guard; a guard that reads a marked slice faults as any read does (R72). -/
def execNop (g : Guard) (s : State) : Outcome State Fault Refusal :=
  .next (s.lanesOk (.nop g) offNone offNone)

/-- YIELD_DELAY_END (R193): the delay of a thread runs out. -/
def execYieldDelayEnd (t : Nat) (s : State) : Outcome State Fault Refusal :=
  match (s.thread t).wait with
  | .yield k => .next { s with threads := s.threads.map fun th => if th.wait = .yield k then { th with wait := .none, age := 0 } else th }
  | _ => .next s

/-- TRAP_DECISION (R441, R442, R444, R445): the faults of the issue are decided. -/
def execTrapDecision (s : State) : Outcome State Fault Refusal := .next s.trapDecide

end Machine
end Sys2Proof
end

