-- ==== Sys2Proof/Machine/IntOps.lean ====
section
/-! DEFINITION. Class B: integer, logic, shift, bit-field and compare words (04 R97–R111). -/

namespace Sys2Proof
namespace Machine
open Host

/-- A result computed on exact integers from val of A and B (R98, R101). -/
def State.intOp (s : State) (i : Instr) (d a b : Operand) (f : Int → Int → Int) : Outcome State Fault Refusal :=
  .next (s.lanesVal i d fun s l => wordOf (f (s.val l a d.w.bits) (s.val l b d.w.bits)))

/-- A result computed bitwise from src of A and B (R106). -/
def State.bitOp (s : State) (i : Instr) (d a b : Operand) (f : Word → Word → Word) : Outcome State Fault Refusal :=
  .next (s.lanesVal i d fun s l => f (s.src l a d.w.bits) (s.src l b d.w.bits))

/-- IADD (R101). -/
def execIadd (g : Guard) (d a b : Operand) (s : State) : Outcome State Fault Refusal :=
  s.intOp (.iadd g d a b) d a b (· + ·)

/-- Saturation to the range that A's X bit chooses (R102). -/
def saturate (signed : Bool) (w : Nat) (e : Int) : Int :=
  let lo : Int := if signed then -(2 ^ (w - 1)) else 0
  let hi : Int := if signed then 2 ^ (w - 1) - 1 else 2 ^ w - 1
  if e < lo then lo else if hi < e then hi else e

/-- IADDS (R102). -/
def execIadds (g : Guard) (d a b : Operand) (s : State) : Outcome State Fault Refusal :=
  s.intOp (.iadds g d a b) d a b fun x y => saturate a.x d.w.bits (x + y)

/-- ISUB (R101). -/
def execIsub (g : Guard) (d a b : Operand) (s : State) : Outcome State Fault Refusal :=
  s.intOp (.isub g d a b) d a b (· - ·)

/-- ISUBS (R102). -/
def execIsubs (g : Guard) (d a b : Operand) (s : State) : Outcome State Fault Refusal :=
  s.intOp (.isubs g d a b) d a b fun x y => saturate a.x d.w.bits (x - y)

/-- IMUL (R101). -/
def execImul (g : Guard) (d a b : Operand) (s : State) : Outcome State Fault Refusal :=
  s.intOp (.imul g d a b) d a b (· * ·)

/-- IMULH (R103): the upper half of the exact product. -/
def execImulh (g : Guard) (d a b : Operand) (s : State) : Outcome State Fault Refusal :=
  s.intOp (.imulh g d a b) d a b fun x y => (x * y) / 2 ^ d.w.bits

/-- IMAD (R101): D is read as well. -/
def execImad (g : Guard) (d a b : Operand) (s : State) : Outcome State Fault Refusal :=
  .next (s.lanesVal (.imad g d a b) d fun s l =>
    wordOf ((s.dstVal l d).toNat + s.val l a d.w.bits * s.val l b d.w.bits))

/-- IMIN (R104). -/
def execImin (g : Guard) (d a b : Operand) (s : State) : Outcome State Fault Refusal :=
  s.intOp (.imin g d a b) d a b fun x y => if y < x then y else x

/-- IMAX (R104). -/
def execImax (g : Guard) (d a b : Operand) (s : State) : Outcome State Fault Refusal :=
  s.intOp (.imax g d a b) d a b fun x y => if x < y then y else x

/-- IABS (R105): the source counts as signed. -/
def execIabs (g : Guard) (d a : Operand) (s : State) : Outcome State Fault Refusal :=
  .next (s.lanesVal (.iabs g d a) d fun s l => wordOf ((sval d.w.bits (s.src l a d.w.bits)).natAbs))

/-- INEG (R105). -/
def execIneg (g : Guard) (d a : Operand) (s : State) : Outcome State Fault Refusal :=
  .next (s.lanesVal (.ineg g d a) d fun s l => wordOf (-(sval d.w.bits (s.src l a d.w.bits))))

/-- AND (R106). -/
def execAnd (g : Guard) (d a b : Operand) (s : State) : Outcome State Fault Refusal :=
  s.bitOp (.and g d a b) d a b (· &&& ·)

/-- OR (R106). -/
def execOr (g : Guard) (d a b : Operand) (s : State) : Outcome State Fault Refusal :=
  s.bitOp (.or g d a b) d a b (· ||| ·)

/-- XOR (R106). -/
def execXor (g : Guard) (d a b : Operand) (s : State) : Outcome State Fault Refusal :=
  s.bitOp (.xor g d a b) d a b (· ^^^ ·)

/-- ANDN (R106). -/
def execAndn (g : Guard) (d a b : Operand) (s : State) : Outcome State Fault Refusal :=
  s.bitOp (.andn g d a b) d a b fun x y => x &&& ~~~y

/-- NOT (R106). -/
def execNot (g : Guard) (d a : Operand) (s : State) : Outcome State Fault Refusal :=
  .next (s.lanesVal (.not g d a) d fun s l => ~~~(s.src l a d.w.bits))

/-- The amount of a shift (R107). -/
def State.amount (s : State) (l : Nat) (n : Amount) : Nat :=
  match n with
  | .imm k => k.toNat
  | .op sel => (s.src l { w := .w8, x := false, sel } 8).toNat

/-- SHL (R107). -/
def execShl (g : Guard) (d a : Operand) (n : Amount) (s : State) : Outcome State Fault Refusal :=
  .next (s.lanesVal (.shl g d a n) d fun s l => s.src l a d.w.bits <<< s.amount l n)

/-- SHR (R107). -/
def execShr (g : Guard) (d a : Operand) (n : Amount) (s : State) : Outcome State Fault Refusal :=
  .next (s.lanesVal (.shr g d a n) d fun s l => s.src l a d.w.bits >>> s.amount l n)

/-- SAR (R107). -/
def execSar (g : Guard) (d a : Operand) (n : Amount) (s : State) : Outcome State Fault Refusal :=
  .next (s.lanesVal (.sar g d a n) d fun s l => wordOf (sval d.w.bits (s.src l a d.w.bits) / 2 ^ s.amount l n))

/-- ROT (R107): rotate left by the amount modulo the width. -/
def execRot (g : Guard) (d a : Operand) (n : Amount) (s : State) : Outcome State Fault Refusal :=
  .next (s.lanesVal (.rot g d a n) d fun s l =>
    let k := s.amount l n % d.w.bits
    let v := s.src l a d.w.bits
    (v <<< k) ||| (v >>> (d.w.bits - k)))

/-- The number of 1 bits among the low w (R108). -/
def popCount : Nat → Word → Nat
  | 0, _ => 0
  | w + 1, v => popCount w v + (if v.getLsbD w then 1 else 0)

/-- POPC (R108), at the source's own width. -/
def execPopc (g : Guard) (d a : Operand) (s : State) : Outcome State Fault Refusal :=
  .next (s.lanesVal (.popc g d a) d fun s l => BitVec.ofNat 64 (popCount a.w.bits (s.src l a a.w.bits)))

/-- Leading zeros of the low w bits (R108). -/
def leadZeros : Nat → Word → Nat
  | 0, _ => 0
  | w + 1, v => if v.getLsbD w then 0 else leadZeros w v + 1

/-- CLZ (R108), at the source's own width. -/
def execClz (g : Guard) (d a : Operand) (s : State) : Outcome State Fault Refusal :=
  .next (s.lanesVal (.clz g d a) d fun s l => BitVec.ofNat 64 (leadZeros a.w.bits (s.src l a a.w.bits)))

/-- The low w bits in reverse order (R108). -/
def bitReverse : Nat → Word → Word
  | 0, _ => 0
  | w + 1, v => (bitReverse w (v >>> 1)) ||| (if v.getLsbD 0 then 1#64 <<< w else 0)

/-- BREV (R108). -/
def execBrev (g : Guard) (d a : Operand) (s : State) : Outcome State Fault Refusal :=
  .next (s.lanesVal (.brev g d a) d fun s l => bitReverse d.w.bits (s.src l a d.w.bits))

/-- BFX (R109). -/
def execBfx (g : Guard) (d a : Operand) (sx : Bool) (len1 pos : BitVec 6) (s : State) : Outcome State Fault Refusal :=
  .next (s.lanesVal (.bfx g d a sx len1 pos) d fun s l =>
    extendW sx (len1.toNat + 1) (s.src l a 64 >>> pos.toNat))

/-- BFI (R109): D's other bits stay. -/
def execBfi (g : Guard) (d a : Operand) (len1 pos : BitVec 6) (s : State) : Outcome State Fault Refusal :=
  .next (s.lanesVal (.bfi g d a len1 pos) d fun s l =>
    let m : Word := truncW (len1.toNat + 1) (BitVec.allOnes 64) <<< pos.toNat
    (s.dstVal l d &&& ~~~m) ||| ((s.src l a 64 <<< pos.toNat) &&& m))

/-- An ICMP condition at A's width (Table 4.5). -/
def icmp (c : ICond) (w : Nat) (x y : Word) : Bool :=
  match c with
  | .eq => x == y
  | .ne => x != y
  | .lt => decide (sval w x < sval w y)
  | .le => decide (sval w x ≤ sval w y)
  | .gt => decide (sval w y < sval w x)
  | .ge => decide (sval w y ≤ sval w x)
  | .ltu => decide (uval w x < uval w y)
  | .leu => decide (uval w x ≤ uval w y)
  | .gtu => decide (uval w y < uval w x)
  | .geu => decide (uval w y ≤ uval w x)
  | .tst => x &&& y != 0
  | .ntst => x &&& y == 0

/-- A compare's latch: the predicate slice after the chain, at width 4 (R110). -/
def offPred (p : PredBit) (s : State) (l : Nat) : State := s.setLatch l ((s.predSlice l p).setWidth 64) .w4

/-- Writes a compare's result to its predicate bit and latch (R110). -/
def State.predResult (s : State) (l : Nat) (p : PredBit) (m : PMode) (c : Bool) : State :=
  let v := predBitSet (s.predSlice l p) p m c
  (s.setPred l p v).setLatch l (v.setWidth 64) .w4

/-- ICMP (R111). -/
def execIcmp (g : Guard) (c : ICond) (m : PMode) (p : PredBit) (a b : Operand) (s : State) :
    Outcome State Fault Refusal :=
  .next (s.lanesOk (.icmp g c m p a b) (offPred p) fun s l =>
    s.predResult l p m (icmp c a.w.bits (s.src l a a.w.bits) (s.src l b a.w.bits)))

/-- SEL (R106): bits of A where B is 1, bits of D where B is 0. -/
def execSel (g : Guard) (d a b : Operand) (s : State) : Outcome State Fault Refusal :=
  .next (s.lanesVal (.sel g d a b) d fun s l =>
    let m := s.src l b d.w.bits
    (s.src l a d.w.bits &&& m) ||| (s.dstVal l d &&& ~~~m))

end Machine
end Sys2Proof
end

