-- ==== Sys2Proof/Machine/Real.lean ====
section
/-! DEFINITION. The reference rounding of the transcendental unit (R160–R162): each function is computed as an integer in
units of 2^-320 whose error is far below half a unit of F30, rounded to F30 to nearest even, and delivered. That 320 bits
decide every F30 rounding is DEDUCED (log entry 12). -/

namespace Sys2Proof
namespace Machine

/-- Fraction bits of the reference computation. -/
def prec : Nat := 320

/-- Sum of z^(2j+1)/(2j+1) for z in units of 2^-prec. -/
def atanhSum : Nat → Nat → Nat → Nat → Nat
  | 0, _, _, _ => 0
  | k + 1, j, zp, z2 => zp / (2 * j + 1) + atanhSum k (j + 1) (zp * z2 / 2 ^ prec) z2

/-- atanh z for 0 ≤ z ≤ 1/3, in units of 2^-prec. -/
def atanhFix (z : Nat) : Nat := atanhSum 110 0 z (z * z / 2 ^ prec)

/-- ln 2 in units of 2^-prec. -/
def ln2Fix : Nat := 2 * atanhFix (2 ^ prec / 3)

/-- Sum of t^k/k! from the term given. -/
def expSum : Nat → Nat → Nat → Nat → Nat
  | 0, _, _, _ => 0
  | n + 1, k, term, t => term + expSum n (k + 1) (term * t / 2 ^ prec / (k + 1)) t

/-- e^t for 0 ≤ t < 32, in units of 2^-prec. -/
def expFix (t : Nat) : Nat := expSum 200 0 (2 ^ prec) t

/-- The greatest r with r × r ≤ n, by the bits of r from 2^k down. -/
def isqrtBits : Nat → Nat → Nat → Nat
  | 0, _, r => r
  | k + 1, n, r => let c := r + 2 ^ k; isqrtBits k n (if c * c ≤ n then c else r)

/-- The integer square root. -/
def isqrt (n : Nat) : Nat := isqrtBits (Nat.log2 n / 2 + 1) n 0

/-- Rounds m × 2^e, which a true value exceeds by less than one unit when `sticky`, to F30 and then to FP32 (R161): NX is
raised exactly when the delivered word differs from the true value. -/
def deliverF30 (ftz neg : Bool) (m : Nat) (e : Int) (sticky : Bool) : W32 × FFlags :=
  let m' := 4 * m + (if sticky then 1 else 0)
  let e' := e - 2
  let q := ulpExp m' e' 30
  let (k, ix) := roundUnits .rne neg m' e' q
  let r := fp32.round .rne false neg k q
  let inexact := ix || r.inexact
  if ftz && r.tiny then (BitVec.ofNat 32 (fp32.pack neg 0 0), flUF)
  else (BitVec.ofNat 32 r.bits, if r.ovf then flOF else if inexact then (if r.tiny then flUF else flNX) else 0)

/-- A NaN result and the invalid flag if asked. -/
def nanRes (nv : Bool) : W32 × FFlags := (0x7FC00000, if nv then flNV else 0)

/-- An infinity with the flags given. -/
def infRes (neg : Bool) (fl : FFlags) : W32 × FFlags := (if neg then 0xFF800000 else 0x7F800000, fl)

/-- A zero of a sign. -/
def zeroRes (neg : Bool) : W32 × FFlags := (if neg then 0x80000000 else 0, 0)

/-- FRCP (R161, Table 6.6). -/
def fpRcp (ftz : Bool) (a : Fp) : W32 × FFlags :=
  match a with
  | .nan s => nanRes s
  | .inf s => zeroRes s
  | .fin s m e =>
    if m = 0 then infRes s flDZ
    else deliverF30 ftz s (2 ^ 128 / m) (-128 - e) (decide (2 ^ 128 % m ≠ 0))

/-- FRSQ (R161, Table 6.6): the square root of 2^n / m with n of the parity that makes the exponent even. -/
def fpRsq (ftz : Bool) (a : Fp) : W32 × FFlags :=
  match a with
  | .nan s => nanRes s
  | .inf s => if s then nanRes true else zeroRes false
  | .fin s m e =>
    if m = 0 then infRes s flDZ
    else if s then nanRes true
    else
      let m2 := if e % 2 = 0 then m else 2 * m
      let h := (if e % 2 = 0 then e else e - 1) / 2
      let n := 2 ^ 256 / m2
      let r := isqrt n
      deliverF30 ftz false r (-128 - h) (decide (r * r ≠ n) || decide (2 ^ 256 % m2 ≠ 0))

/-- FSQRT (R160, Table 6.6), correctly rounded in every mode. -/
def fpSqrt (md : Rnd) (ftz : Bool) (a : Fp) : W32 × FFlags :=
  match a with
  | .nan s => nanRes s
  | .inf s => if s then nanRes true else infRes false 0
  | .fin s m e =>
    if m = 0 then zeroRes s
    else if s then nanRes true
    else
      let m2 := (if e % 2 = 0 then m else 2 * m) * 2 ^ 128
      let h := (if e % 2 = 0 then e else e - 1) / 2 - 64
      let r := isqrt m2
      deliver md ftz (.fin false (4 * r + (if r * r = m2 then 0 else 1)) (h - 2))

/-- FEXP2 (R161, Table 6.6). -/
def fpExp2 (ftz : Bool) (a : Fp) : W32 × FFlags :=
  match a with
  | .nan s => nanRes s
  | .inf s => if s then zeroRes false else infRes false 0
  | .fin s m e =>
    if m = 0 then (0x3F800000, 0)
    else if 10 ≤ e + (Nat.log2 m : Int) then deliverF30 ftz false 1 (if s then -1024 else 1024) false
    else
      let x := Fp.units (-149) (.fin s m e)
      let n := x / 2 ^ 149
      let r := (x % 2 ^ 149).toNat
      if r = 0 then deliverF30 ftz false 1 n false
      else deliverF30 ftz false (expFix (r * 2 ^ (prec - 149) * ln2Fix / 2 ^ prec)) (n - prec) true

/-- FLOG2 (R161, Table 6.6). -/
def fpLog2 (ftz : Bool) (a : Fp) : W32 × FFlags :=
  match a with
  | .nan s => nanRes s
  | .inf s => if s then nanRes true else infRes false 0
  | .fin s m e =>
    if m = 0 then infRes true flDZ
    else if s then nanRes true
    else
      let l := Nat.log2 m
      let k := e + (l : Int)
      if m = 2 ^ l then
        (if k = 0 then zeroRes false else deliverF30 ftz (decide (k < 0)) k.natAbs 0 false)
      else
        let z := (m - 2 ^ l) * 2 ^ prec / (m + 2 ^ l)
        let f := 2 * atanhFix z * 2 ^ prec / ln2Fix
        let v : Int := k * 2 ^ prec + f
        deliverF30 ftz (decide (v < 0)) v.natAbs (-prec) true

/-- FTANH (R161, Table 6.6): a magnitude below 2^-40 differs from tanh by less than half a unit of F30; one of 12 or more
rounds to one. -/
def fpTanh (ftz : Bool) (a : Fp) : W32 × FFlags :=
  match a with
  | .nan s => nanRes s
  | .inf s => (if s then 0xBF800000 else 0x3F800000, 0)
  | .fin s m e =>
    if m = 0 then zeroRes s
    else if e + (Nat.log2 m : Int) < -40 then deliverF30 ftz s (m * 2 ^ 64 - 1) (e - 64) true
    else if 12 * 2 ^ 149 ≤ (Fp.units (-149) (.fin false m e)) then deliverF30 ftz s (2 ^ 64 - 1) (-64) true
    else
      let x := (Fp.units (-149) (.fin false m e)).toNat * 2 ^ (prec - 149)
      let ex := expFix (2 * x)
      deliverF30 ftz s ((ex - 2 ^ prec) * 2 ^ prec / (ex + 2 ^ prec)) (-prec) true

end Machine
end Sys2Proof
end

