-- ==== Sys2Proof/Machine/Float.lean ====
section
/-! DEFINITION. Class D: FP32 arithmetic, transcendentals, conversions and the MX block words (06 R146–R168), with the
exception flags (R147) and floating-point traps (R150, R151). -/

namespace Sys2Proof
namespace Machine
open Host

/-- FMODE.RND (Table 6.1). -/
def State.rnd (s : State) : Rnd := rndOf (s.ig.fmode.extractLsb' 0 2)

/-- FMODE.FTZ (Table 6.1). -/
def State.ftz (s : State) : Bool := s.ig.fmode.getLsbD 2

/-- The trap enables of FMODE in the order of Table 6.2. -/
def State.fpEnables (s : State) : FFlags := s.ig.fmode.extractLsb' 6 5

/-- fp(l, S): the FP32 value of a source after R149's input rule. -/
def State.fp (s : State) (l : Nat) (o : Operand) : Fp := fpIn s.ftz ((s.src l o 32).setWidth 32)

/-- ORs exceptions into a lane's FFLAGS (R147). -/
def State.raise (s : State) (l : Nat) (fl : FFlags) : State := s.onLane l fun th => { th with fflags := th.fflags ||| fl }

/-- The end of a class D word in a lane: a raised exception that is enabled traps (R150); otherwise the flags are ORed and the
word completes. -/
def State.fpEnd (s : State) (l : Nat) (fl : FFlags) (f : State → State) : LaneRes :=
  if fl &&& s.fpEnables ≠ 0 then .fault (fpCause (fl &&& s.fpEnables)) (fl.setWidth 64)
  else .ok (f (s.raise l fl))

/-- A class D word that delivers one value and its flags to D in each lane. -/
def State.fpVal (s : State) (i : Instr) (d : Operand) (f : State → Nat → Word × FFlags) : Outcome State Fault Refusal :=
  .next (s.lanes i (offResult d) fun s l => let (v, fl) := f s l; s.fpEnd l fl fun s => s.result l d v)

/-- An FP32 word and flags widened to a register value. -/
def wide (r : W32 × FFlags) : Word × FFlags := (r.1.setWidth 64, r.2)

/-- R148: an exact result and the flags of the operation, delivered. -/
def delivered (md : Rnd) (ftz : Bool) (r : Fp × FFlags) : Word × FFlags :=
  let d := deliver md ftz r.1
  (d.1.setWidth 64, r.2 ||| d.2)

/-- FADD (R153). -/
def execFadd (g : Guard) (d a b : Operand) (s : State) : Outcome State Fault Refusal :=
  s.fpVal (.fadd g d a b) d fun s l => delivered s.rnd s.ftz (fpAdd s.rnd (s.fp l a) (s.fp l b))

/-- FSUB (R153). -/
def execFsub (g : Guard) (d a b : Operand) (s : State) : Outcome State Fault Refusal :=
  s.fpVal (.fsub g d a b) d fun s l => delivered s.rnd s.ftz (fpAdd s.rnd (s.fp l a) (s.fp l b).negate)

/-- FMUL (R153). -/
def execFmul (g : Guard) (d a b : Operand) (s : State) : Outcome State Fault Refusal :=
  s.fpVal (.fmul g d a b) d fun s l => delivered s.rnd s.ftz (fpMul (s.fp l a) (s.fp l b))

/-- FFMA (R153): D is read as well. -/
def execFfma (g : Guard) (d a b : Operand) (s : State) : Outcome State Fault Refusal :=
  s.fpVal (.ffma g d a b) d fun s l =>
    delivered s.rnd s.ftz (fpFma s.rnd (s.fp l a) (s.fp l b) (fpIn s.ftz ((s.dstVal l d).setWidth 32)))

/-- FMIN (R154). -/
def execFmin (g : Guard) (d a b : Operand) (s : State) : Outcome State Fault Refusal :=
  s.fpVal (.fmin g d a b) d fun s l => delivered .rne false (fpMinMax false (s.fp l a) (s.fp l b))

/-- FMAX (R154). -/
def execFmax (g : Guard) (d a b : Operand) (s : State) : Outcome State Fault Refusal :=
  s.fpVal (.fmax g d a b) d fun s l => delivered .rne false (fpMinMax true (s.fp l a) (s.fp l b))

/-- FNEG (R155). -/
def execFneg (g : Guard) (d a : Operand) (s : State) : Outcome State Fault Refusal :=
  .next (s.lanesVal (.fneg g d a) d fun s l => s.src l a 32 ^^^ 0x80000000)

/-- FABS (R155). -/
def execFabs (g : Guard) (d a : Operand) (s : State) : Outcome State Fault Refusal :=
  .next (s.lanesVal (.fabs g d a) d fun s l => s.src l a 32 &&& 0x7FFFFFFF)

/-- FCMP (R158). -/
def execFcmp (g : Guard) (c : FCond) (m : PMode) (p : PredBit) (a b : Operand) (s : State) :
    Outcome State Fault Refusal :=
  .next (s.lanes (.fcmp g c m p a b) (offPred p) fun s l =>
    let (r, fl) := fpCmp c (s.fp l a) (s.fp l b)
    s.fpEnd l fl fun s => s.predResult l p m r)

/-- FCLASS (R159). -/
def execFclass (g : Guard) (d a : Operand) (s : State) : Outcome State Fault Refusal :=
  .next (s.lanesVal (.fclass g d a) d fun s l => 1#64 <<< fpClass ((s.src l a 32).setWidth 32))

/-- FRCP (R161). -/
def execFrcp (g : Guard) (d a : Operand) (s : State) : Outcome State Fault Refusal :=
  s.fpVal (.frcp g d a) d fun s l => wide (fpRcp s.ftz (s.fp l a))

/-- FRSQ (R161). -/
def execFrsq (g : Guard) (d a : Operand) (s : State) : Outcome State Fault Refusal :=
  s.fpVal (.frsq g d a) d fun s l => wide (fpRsq s.ftz (s.fp l a))

/-- FSQRT (R160). -/
def execFsqrt (g : Guard) (d a : Operand) (s : State) : Outcome State Fault Refusal :=
  s.fpVal (.fsqrt g d a) d fun s l => wide (fpSqrt s.rnd s.ftz (s.fp l a))

/-- FEXP2 (R161). -/
def execFexp2 (g : Guard) (d a : Operand) (s : State) : Outcome State Fault Refusal :=
  s.fpVal (.fexp2 g d a) d fun s l => wide (fpExp2 s.ftz (s.fp l a))

/-- FLOG2 (R161). -/
def execFlog2 (g : Guard) (d a : Operand) (s : State) : Outcome State Fault Refusal :=
  s.fpVal (.flog2 g d a) d fun s l => wide (fpLog2 s.ftz (s.fp l a))

/-- FTANH (R161). -/
def execFtanh (g : Guard) (d a : Operand) (s : State) : Outcome State Fault Refusal :=
  s.fpVal (.ftanh g d a) d fun s l => wide (fpTanh s.ftz (s.fp l a))

/-- FSCL (R156): the exponent is B's integer value at its own width. -/
def execFscl (g : Guard) (d a b : Operand) (s : State) : Outcome State Fault Refusal :=
  s.fpVal (.fscl g d a b) d fun s l => delivered s.rnd s.ftz (fpScale (s.fp l a) (s.val l b b.w.bits))

/-- FRND (R157). -/
def execFrnd (g : Guard) (d a : Operand) (m : RMode) (s : State) : Outcome State Fault Refusal :=
  s.fpVal (.frnd g d a m) d fun s l => delivered .rne false (fpRnd (rndOfMode m s.rnd) (s.fp l a))

/-- A format slot of the issuing grid (R141). -/
def State.slot (s : State) (k : Nat) : FmtSlot := s.ir.slot k

/-- The format of a plain-element floating-point slot (R163). -/
def FmtSlot.plainFp (f : FmtSlot) : Option Fmt := if f.logblk = 0 then fmtOf f.elem.toNat else none

/-- CVTF.TO (R163). -/
def execCvtfTo (g : Guard) (d a : Operand) (slot : BitVec 3) (s : State) : Outcome State Fault Refusal :=
  let k := s.slot slot.toNat
  match k.plainFp with
  | none => .next (s.faultAll 4 0x02 0).finish
  | some f =>
    if d.w.bits ≠ f.bits then .next (s.faultAll 4 0x02 0).finish
    else s.fpVal (.cvtfTo g d a slot) d fun s l =>
      let (b, fl) := fpCvtTo f (rndOf k.rnd) k.sat (fpIn false ((s.src l a 32).setWidth 32))
      (BitVec.ofNat 64 b, fl)

/-- CVTF.FROM (R163). -/
def execCvtfFrom (g : Guard) (d a : Operand) (slot : BitVec 3) (s : State) : Outcome State Fault Refusal :=
  match (s.slot slot.toNat).plainFp with
  | none => .next (s.faultAll 4 0x02 0).finish
  | some f =>
    if a.w.bits ≠ f.bits then .next (s.faultAll 4 0x02 0).finish
    else s.fpVal (.cvtfFrom g d a slot) d fun s l => wide (fpCvtFrom f (s.src l a a.w.bits).toNat)

/-- CVTFI (R164). -/
def execCvtfi (g : Guard) (d a : Operand) (sg : Bool) (m : RMode) (s : State) : Outcome State Fault Refusal :=
  s.fpVal (.cvtfi g d a sg m) d fun s l =>
    let (n, fl) := fpCvtInt (rndOfMode m s.rnd) sg d.w.bits (s.fp l a)
    (wordOf n, fl)

/-- CVTIF (R165). -/
def execCvtif (g : Guard) (d a : Operand) (m : RMode) (s : State) : Outcome State Fault Refusal :=
  s.fpVal (.cvtif g d a m) d fun s l => wide (fpCvtFromInt (rndOfMode m s.rnd) (s.val l a a.w.bits))

/-! ## Blocks (R166–R168) -/

/-- The element format of an MX slot (R166). -/
def FmtSlot.mx (f : FmtSlot) : Option Fmt :=
  if f.logblk = 5 ∧ f.scale = 1 ∧ 4 ≤ f.elem.toNat ∧ f.elem.toNat ≤ 6 then fmtOf f.elem.toNat else none

/-- The 32 lanes of the issuing block. -/
def State.blockLanes (s : State) : List Nat :=
  (List.range 32).map fun i => affDomain s.ig.w (s.issue.lanes.headD 0) * 32 + i

/-- The scale operand of QBLK and DQBLK (R166). -/
def scaleOp (sc : Sel) : Operand := { w := .w8, x := false, sel := sc }

/-- A block word (R166): the slot and width checks, then participation of the block, which groups of width 8 and 16 lack. -/
def State.blockWord (s : State) (slot : BitVec 3) (w : Nat) (f : Fmt → State → State) : Outcome State Fault Refusal :=
  match (s.slot slot.toNat).mx with
  | none => .next (s.faultAll 4 0x02 0).finish
  | some fm =>
    if w ≠ fm.bits then .next (s.faultAll 4 0x02 0).finish
    else if s.ig.w < 32 then .next (s.faultAll 5 0x04 0).finish
    else .next (s.groupWord (f fm))

/-- The value lane l of a block contributes: +0 from an exited lane; a lane whose operand faults leaves its value open. -/
def State.blockVal (s : State) (i : Instr) (a : Operand) (l : Nat) : Fp :=
  if (s.lt l).exited then .fin false 0 0
  else match s.operandFault l i i.uses with
    | some _ => fpIn false ((Config.freeWordAt s.tick l).setWidth 32)
    | none => fpIn false ((s.src l a 32).setWidth 32)

/-- QBLK (R167). -/
def execQblk (d a : Operand) (slot : BitVec 3) (sc : Sel) (s : State) : Outcome State Fault Refusal :=
  s.blockWord slot d.w.bits fun f s =>
    let i := Instr.qblk d a slot sc
    let vs := s.blockLanes.map (s.blockVal i a)
    let bad := vs.any fun v => !v.isFin
    let x := mxExp f vs
    let scale : Nat := if bad then 255 else (x + 127).toNat
    s.issue.lanes.foldl (fun s l => s.lane i i.uses (offResult d) (fun s l =>
      let (e, ix) := if bad then (0, false) else mxElem f x (vs.getD (l % 32) (.fin false 0 0))
      s.fpEnd l (if bad then flNV else if ix then flNX else 0) fun s =>
        (s.result l d (BitVec.ofNat 64 e)).dst l (scaleOp sc) (BitVec.ofNat 64 scale)) l) s.next

/-- DQBLK (R168): the scale is that of the lowest non-exited lane of the block. -/
def execDqblk (d a : Operand) (slot : BitVec 3) (sc : Sel) (s : State) : Outcome State Fault Refusal :=
  s.blockWord slot a.w.bits fun f s =>
    let k := s.slot slot.toNat
    let i := Instr.dqblk d a slot sc
    let l0 := s.domain.headD 0
    let scUse := rdOp .place (scaleOp sc) [.w8]
    let scale : Nat := match s.operandFault l0 i [scUse] with
      | some _ => (Config.freeWord s.tick).toNat % 256
      | none => (s.src l0 (scaleOp sc) 8).toNat
    s.issue.lanes.foldl (fun s l =>
      s.lane i (if l = l0 then i.uses else i.uses.filter fun u => !u.uni) (offResult d) (fun s l =>
        let (b, fl) := fp32.convert (rndOf k.rnd) k.sat (mxValue f scale (s.src l a a.w.bits).toNat)
        s.fpEnd l (if fl = flOF then flOF else 0) fun s => s.result l d (BitVec.ofNat 64 b)) l) s.next

end Machine
end Sys2Proof
end

