-- ==== Sys2Proof/Machine/Cross.lean ====
section
/-! DEFINITION. Class F: arrival at a cross-lane word, its completion once every participant waits there, and what each word
computes (08 R195–R208). -/

namespace Sys2Proof
namespace Machine
open Host

/-- The participant set (R196). -/
def Group.participants (g : Group) (exited : Nat → Bool) (p : PSet) : Word :=
  match p with
  | .mask n => g.m.getD n.val 0
  | .tset => g.tset
  | .all => laneSet ((List.range g.w).filter fun l => !exited l)

/-- The participant set of a class F word in the issuing group. -/
def State.pset (s : State) (p : PSet) : Word := s.ig.participants (fun l => (s.lt l).exited) p

/-- The destination of a class F word. -/
def crossDst : Instr → Operand
  | .shfl _ d _ _ | .shflup _ d _ _ | .shfldn _ d _ _ | .shflx _ d _ _ | .bcast _ d _ _ _ | .scan _ d _ _ _ | .reduce _ d _ _
  | .ballot _ d _ | .prank _ d _ _ | .sample _ d _ _ => d
  | _ => { w := .w4, x := true, sel := .zero }

/-- The slices that a class F word's result will go to, as the frame stands when it issues (R70, R77). -/
def State.crossDsts (s : State) (l : Nat) (i : Instr) : List Nat :=
  let d := crossDst i
  if d.x then [] else (s.lt l).locate s.gs d d.w.slices

/-- A class F word issues (R197, R198): a thread outside P goes on; a participant reads its operands and arrives. In a
handler a set other than the trap set is illegal (R446). -/
def State.arrive (s : State) (i : Instr) (p : PSet) (vals : State → Nat → List Word) : Outcome State Fault Refusal :=
  let P := s.pset p
  .next (s.issue.lanes.foldl (fun s l =>
    if laneIn s.ig.tset l && p != .tset then s.faultAt 4 l 0x02 0
    else if laneIn P l then
      match s.operandFault l i i.uses with
      | some (c, info) => s.fault l c info
      | none => s.waitLane l (.cross i (vals s l) (s.crossDsts l i))
    else s) s).finish

/-- SHFL arrives (R202). -/
def execShfl (p : PSet) (d a b : Operand) (s : State) : Outcome State Fault Refusal :=
  s.arrive (.shfl p d a b) p fun s l => [s.src l a d.w.bits, s.src l b b.w.bits]

/-- SHFLUP arrives (R202). -/
def execShflup (p : PSet) (d a : Operand) (n : BitVec 6) (s : State) : Outcome State Fault Refusal :=
  s.arrive (.shflup p d a n) p fun s l => [s.src l a d.w.bits]

/-- SHFLDN arrives (R202). -/
def execShfldn (p : PSet) (d a : Operand) (n : BitVec 6) (s : State) : Outcome State Fault Refusal :=
  s.arrive (.shfldn p d a n) p fun s l => [s.src l a d.w.bits]

/-- SHFLX arrives (R202). -/
def execShflx (p : PSet) (d a : Operand) (n : BitVec 6) (s : State) : Outcome State Fault Refusal :=
  s.arrive (.shflx p d a n) p fun s l => [s.src l a d.w.bits]

/-- BCAST arrives (R202). -/
def execBcast (p : PSet) (d a : Operand) (low : Bool) (n : BitVec 6) (s : State) : Outcome State Fault Refusal :=
  s.arrive (.bcast p d a low n) p fun s l => [s.src l a d.w.bits]

/-- SCAN arrives (R205). -/
def execScan (p : PSet) (d a : Operand) (op : ScanOp) (excl : Bool) (s : State) : Outcome State Fault Refusal :=
  s.arrive (.scan p d a op excl) p fun s l => [s.src l a d.w.bits]

/-- REDUCE arrives (R206). -/
def execReduce (p : PSet) (d a : Operand) (op : ScanOp) (s : State) : Outcome State Fault Refusal :=
  s.arrive (.reduce p d a op) p fun s l => [s.src l a d.w.bits]

/-- The predicate bit a lane brings to BALLOT or PRANK (R207). -/
def State.predBit (s : State) (l : Nat) (q : PredBit) : Word :=
  if (s.predSlice l q).getLsbD q.bit.toNat then 1 else 0

/-- BALLOT arrives (R207). -/
def execBallot (p : PSet) (d : Operand) (q : PredBit) (s : State) : Outcome State Fault Refusal :=
  s.arrive (.ballot p d q) p fun s l => [s.predBit l q]

/-- PRANK arrives (R207). -/
def execPrank (p : PSet) (d : Operand) (t : Bool) (q : PredBit) (s : State) : Outcome State Fault Refusal :=
  s.arrive (.prank p d t q) p fun s l => [s.predBit l q]

/-- SAMPLE arrives (R208). -/
def execSample (p : PSet) (d a b : Operand) (s : State) : Outcome State Fault Refusal :=
  s.arrive (.sample p d a b) p fun s l => [s.src l a 32, s.src l b 24]

/-! ## Completion -/

/-- The class F word a thread has arrived at, with the values it brought, the slices its result goes to, and its address. -/
def Thread.crossOf (th : Thread) : Option (Instr × List Word × List Nat × Word) :=
  match th.arrival with
  | some (.cross i vs ps, a) => some (i, vs, ps, a)
  | _ => none

/-- The operand k that participant j brought, or none outside P (R195). -/
def State.brought (s : State) (P : Word) (k j : Nat) : Option Word :=
  if j < s.ig.w ∧ laneIn P j = true then
    match (s.lt j).crossOf with
    | some (_, vs, _, _) => some (vs.getD k 0)
    | none => none
  else none

/-- A scan operator's identity at width w (Table 8.3). -/
def scanId (op : ScanOp) (w : Nat) (signed : Bool) : Word :=
  match op with
  | .add | .or | .xor => 0
  | .and => truncW w (BitVec.allOnes 64)
  | .min => if signed then truncW (w - 1) (BitVec.allOnes 64) else truncW w (BitVec.allOnes 64)
  | .max => if signed then BitVec.ofNat 64 (2 ^ (w - 1)) else 0
  | .fadd => 0x80000000
  | .fmin => 0x7F800000
  | .fmax => 0xFF800000

/-- A scan operator (Table 8.3, R204). -/
def scanOp (op : ScanOp) (w : Nat) (signed : Bool) (a b : Word) : Word :=
  let lt := fun (x y : Word) => if signed then decide (sval w x < sval w y) else decide (uval w x < uval w y)
  match op with
  | .add => truncW w (a + b)
  | .min => if lt b a then b else a
  | .max => if lt a b then b else a
  | .and => a &&& b
  | .or => a ||| b
  | .xor => a ^^^ b
  | .fadd => (fpAddRne (a.setWidth 32) (b.setWidth 32)).setWidth 64
  | .fmin => (fpMinMaxBits false (a.setWidth 32) (b.setWidth 32)).setWidth 64
  | .fmax => (fpMinMaxBits true (a.setWidth 32) (b.setWidth 32)).setWidth 64

/-- The Hillis–Steele steps from distance 2^d on (R205); the lower lane is the left operand. R204 makes every NaN result 0x7FC00000 and
R205 begins with s(0) := a(0); DESIGN CHOICE: a NaN that no operator touches (lane 0, or lane 1 of an exclusive scan) is delivered with
its own bits (log entry 59). -/
def scanSteps (f : Word → Word → Word) : Nat → Nat → List Word → List Word
  | 0, _, v => v
  | k + 1, d, v =>
    scanSteps f k (2 * d) ((List.range v.length).map fun j => if d ≤ j then f (v.getD (j - d) 0) (v.getD j 0) else v.getD j 0)

/-- The pairwise tree over adjacent lanes (R206). -/
def pairTree (f : Word → Word → Word) : List Word → List Word
  | a :: b :: r => f a b :: pairTree f r
  | r => r

/-- k levels of the tree (R206). -/
def reduceTree (f : Word → Word → Word) : Nat → List Word → List Word
  | 0, v => v
  | k + 1, v => reduceTree f k (pairTree f v)

/-- The value list of a scan or reduction: participants' values, the identity elsewhere (R203). -/
def State.scanVals (s : State) (P : Word) (op : ScanOp) (w : Nat) (signed : Bool) : List Word :=
  (List.range s.ig.w).map fun j => (s.brought P 0 j).getD (scanId op w signed)

/-- A SAMPLE weight (R208): zero outside P and for −0, a negative, a NaN or +∞. -/
def sampleWeight (x : W32) : W32 :=
  match fp32.decode x.toNat with
  | .fin false _ _ => x
  | _ => 0

/-- Does a participant's weight set `bad` (R208)? -/
def sampleBad (x : W32) : Bool :=
  match fp32.decode x.toNat with
  | .fin s m _ => s && m != 0
  | .inf _ => true
  | .nan _ => true

/-- SAMPLE's result (R208) from the participants' weights and the 24-bit uniform of the lowest one. -/
def sampleResult (ws : List (Option W32)) (u : Nat) : Word :=
  let w : List W32 := ws.map fun x => match x with | some x => sampleWeight x | none => (0 : W32)
  let bad := ws.any fun x => match x with | some x => sampleBad x | none => false
  let k := Nat.log2 ws.length
  let ps := (scanSteps (fun a b => (fpAddRne (a.setWidth 32) (b.setWidth 32)).setWidth 64) k 1 (w.map fun (x : W32) => x.setWidth 64)).map
    fun v => fpIn false (v.setWidth 32)
  let total := ps.getD (ws.length - 1) (.fin false 0 0)
  let t := if u = 0 then Fp.fin false 0 0 else fpIn false (deliver .rne false (fpMul (.fin false u (-24)) total).1).1
  let pos := fun j => w.getD j 0 != 0
  let cand := (List.range ws.length).filter fun j => pos j && fpLt t (ps.getD j (.fin false 0 0))
  let (c, found) : Nat × Bool :=
    if total.isZero then (0xFFFFFFFF, false)
    else match cand with
      | j :: _ => (j, true)
      | [] => (((List.range ws.length).filter pos).getLastD 0, true)
  BitVec.ofNat 64 (c + (if found then 2 ^ 32 else 0) + (if bad then 2 ^ 33 else 0))

/-- What participant l receives (R202, R205–R208). -/
def State.crossVal (s : State) (i : Instr) (P : Word) (l : Nat) : Word :=
  let v := fun (j : Int) => if j < 0 then 0#64 else (s.brought P 0 j.toNat).getD 0
  match i with
  | .shfl _ _ _ _ => v ((s.brought P 1 l).getD 0).toNat
  | .shflup _ _ _ n => v (l - n.toNat)
  | .shfldn _ _ _ n => v (l + n.toNat)
  | .shflx _ _ _ n => v (l ^^^ n.toNat : Nat)
  | .bcast _ _ _ low n => v (if low then ((List.range s.ig.w).filter (laneIn P)).headD 0 else n.toNat)
  | .scan _ d a op excl =>
    let id := scanId op d.w.bits a.x
    let r := scanSteps (scanOp op d.w.bits a.x) (Nat.log2 s.ig.w) 1 (s.scanVals P op d.w.bits a.x)
    if excl then (if l = 0 then id else r.getD (l - 1) 0) else r.getD l 0
  | .reduce _ d a op =>
    (reduceTree (scanOp op d.w.bits a.x) (Nat.log2 s.ig.w) (s.scanVals P op d.w.bits a.x)).headD 0
  | .ballot _ _ _ => laneSet ((List.range s.ig.w).filter fun j => (s.brought P 0 j).getD 0 != 0)
  | .prank _ _ t _ =>
    BitVec.ofNat 64 ((List.range s.ig.w).filter fun (j : Nat) => (t || decide (j < l)) && (s.brought P 0 j).getD 0 != 0).length
  | .sample _ _ _ _ =>
    let l0 := ((List.range s.ig.w).filter (laneIn P)).headD 0
    sampleResult ((List.range s.ig.w).map fun j => (s.brought P 0 j).map (·.setWidth 32)) ((s.brought P 1 l0).getD 0).toNat
  | _ => 0

/-- The class F word that some thread of a group waits at, at an address. -/
def State.crossAt (s : State) (grp : Nat) (addr : Word) : Option (Instr × PSet) :=
  (List.range (s.group grp).w).findSome? fun l =>
    match (s.thread ((s.group grp).t0 + l)).crossOf with
    | some (i, _, _, a) => if a = addr then i.pset.map fun p => (i, p) else none
    | none => none

/-- Is a thread waiting at a class F word at the address? -/
def Thread.crossing (th : Thread) (addr : Word) : Bool :=
  match th.crossOf with
  | some (_, _, _, a) => a == addr
  | none => false

/-- The participants of the class F word at an address, when every one of them waits there (R197). -/
def State.crossReady (s : State) (grp : Nat) (addr : Word) : Option (Instr × List Nat) :=
  match s.crossAt grp addr with
  | none => none
  | some (i, p) =>
    let g := s.group grp
    let P := g.participants (fun l => (s.thread (g.t0 + l)).exited) p
    let ls := (List.range g.w).filter (laneIn P)
    if ls ≠ [] ∧ (s.cluster (s.team g.team).cluster).out = false ∧ (ls.all fun l => (s.thread (g.t0 + l)).crossing addr) = true then some (i, ls) else none

/-- Makes a group the one that lane operations act on, outside any issue. -/
def State.atGroup (s : State) (grp : Nat) (ls : List Nat) : State :=
  { s with issue := { (default : Issue) with grp, lanes := ls } }

/-- A participant goes on once its class F word has completed, unless another wait of its chain holds it (R198). -/
def Thread.crossEnd (at_ : Option Nat) (th : Thread) : Thread :=
  match th.wait with
  | .cross _ _ _ => th.resume at_
  | _ => { th with held := none }

/-- A lane of the group that lane operations act on gets its class F result, in the slices found as it arrived, and goes on. -/
def State.crossLane (s : State) (i : Instr) (l : Nat) (v : Word) : State :=
  let d := crossDst i
  let ps := match (s.lt l).crossOf with | some (_, _, ps, _) => ps | none => []
  (if d.x then s else s.writeSlices l ps (sliceVals d.w.slices v)).onLane l fun th => th.crossEnd (s.ig.arrivedAt th.lane)

/-- The class F word at an address executes once for P and releases every participant, if all of them wait there (R197, R199). -/
def State.crossed (s : State) (grp : Nat) (addr : Word) : State :=
  match s.crossReady grp addr with
  | none => s
  | some (i, ls) =>
    let s := s.atGroup grp ls
    let vs := ls.map fun l => (l, s.crossVal i (laneSet ls) l)
    vs.foldl (fun s p => s.crossLane i p.1 p.2) s

/-- CROSS_LANE_COMPLETE (R197, R199). -/
def execCrossLaneComplete (grp : Nat) (addr : Word) (s : State) : Outcome State Fault Refusal := .next (s.crossed grp addr)

end Machine
end Sys2Proof
end

