-- ==== Sys2Proof/Machine/Gcm.lean ====
section
/-! DEFINITION. AES-256-GCM, which encrypts the blocks of UALink ports (14 R360): the spec names NIST SP 800-38D, and the cipher is that
of FIPS 197. PRESUMED: both are written from general knowledge of those standards, which are no part of the spec (log entry 57). -/

namespace Sys2Proof
namespace Machine

/-! ## AES-256 -/

/-- The substitution table of FIPS 197, byte 0 lowest. -/
def aesTable : Nat :=
  0x16BB54B00F2D99416842E6BF0D89A18CDF2855CEE9871E9B948ED9691198F8E19E1DC186B95735610EF6034866B53E708A8BBD4B1F74DDE8C6B4A61C2E2578BA08AE7A65EAF4566CA94ED58D6D37C8E779E4959162ACD3C25C2406490A3A32E0DB0B5EDE14B8EE4688902A22DC4F816073195D643D7EA7C41744975FEC130CCDD2F3FF1021DAB6BCF5389D928F40A351A89F3C507F02F94585334D43FBAAEFD0CF584C4A39BECB6A5BB1FC20ED00D153842FE329B3D63B52A05A6E1B1A2C830975B227EBE28012079A059618C323C7041531D871F1E5A534CCF73F362693FDB7C072A49CAFA2D4ADF04759FA7DC982CA76ABD7FE2B670130C56F6BF27B777C63

/-- The table's value of a byte. -/
def aesSub (b : Byte) : Byte := BitVec.ofNat 8 (aesTable >>> (8 * b.toNat))

/-- Multiplication by x in the field of AES. -/
def aesDouble (b : Byte) : Byte := if b.msb then (b <<< 1) ^^^ 0x1B else b <<< 1

/-- Two byte strings, byte by byte. -/
def xorBytes (a b : List Byte) : List Byte := List.zipWith (· ^^^ ·) a b

/-- The key schedule, newest word first: 8 words of the key, then 52. -/
def aesSchedule (key : List Byte) : List (List Byte) :=
  let first := (List.range 8).map fun i => (key.drop (4 * i)).take 4
  ((List.range' 8 52).foldl (fun (p : List (List Byte) × Byte) i =>
    let (ws, rcon) := p
    let t := ws.headD []
    let t := if i % 8 = 0 then
        match t.map aesSub with
        | a :: b :: c :: d :: _ => [b ^^^ rcon, c, d, a]
        | l => l
      else if i % 8 = 4 then t.map aesSub else t
    (xorBytes (ws.getD 7 []) t :: ws, if i % 8 = 0 then aesDouble rcon else rcon)) (first.reverse, (1 : Byte))).1

/-- The bytes of the 15 round keys. -/
def aesRoundKeys (key : List Byte) : List (List Byte) :=
  let ws := (aesSchedule key).reverse
  (List.range 15).map fun r => ((ws.drop (4 * r)).take 4).flatten

/-- The substitution and the shift of the rows; byte r + 4c of a block is in row r, column c. -/
def aesShift (b : List Byte) : List Byte :=
  (List.range 16).map fun i => aesSub (b.getD (i % 4 + 4 * ((i / 4 + i % 4) % 4)) 0)

/-- The mix of one column. -/
def aesMixColumn : List Byte → List Byte
  | [a, b, c, d] =>
    let t := a ^^^ b ^^^ c ^^^ d
    [a ^^^ t ^^^ aesDouble (a ^^^ b), b ^^^ t ^^^ aesDouble (b ^^^ c), c ^^^ t ^^^ aesDouble (c ^^^ d), d ^^^ t ^^^ aesDouble (d ^^^ a)]
  | l => l

/-- The mix of the columns. -/
def aesMix (b : List Byte) : List Byte := (List.range 4).flatMap fun c => aesMixColumn ((b.drop (4 * c)).take 4)

/-- One block encrypted under expanded round keys. -/
def aesEncrypt (ks : List (List Byte)) (b : List Byte) : List Byte :=
  let b := (List.range' 1 13).foldl (fun b r => xorBytes (aesMix (aesShift b)) (ks.getD r [])) (xorBytes b (ks.getD 0 []))
  xorBytes (aesShift b) (ks.getD 14 [])

/-! ## GCM -/

/-- Bytes as a number, the first byte highest. -/
def beNat (bs : List Byte) : Nat := bs.foldl (fun v b => 256 * v + b.toNat) 0

/-- A number as n bytes, the first byte highest. -/
def natBe (n v : Nat) : List Byte := (List.range n).map fun i => BitVec.ofNat 8 (v >>> (8 * (n - 1 - i)))

/-- The product of two 128-bit blocks in the field of GHASH. -/
def gcmMul (x y : Nat) : Nat :=
  ((List.range 128).foldl (fun (p : Nat × Nat) i =>
    (if x.testBit (127 - i) then p.1 ^^^ p.2 else p.1,
      if p.2 % 2 = 1 then (p.2 >>> 1) ^^^ (0xE1 <<< 120) else p.2 >>> 1)) (0, y)).1

/-- Byte strings in blocks of 16, the last one filled with zeros. -/
def gcmBlocks (bs : List Byte) : List Nat :=
  (List.range ((bs.length + 15) / 16)).map fun i =>
    let b := (bs.drop (16 * i)).take 16
    beNat (b ++ List.replicate (16 - b.length) 0)

/-- The cipher of a string under a 12-byte nonce, which is also its own inverse. -/
def gcmStream (key nonce bs : List Byte) : List Byte :=
  let ks := aesRoundKeys key
  (List.range ((bs.length + 15) / 16)).flatMap fun i =>
    xorBytes ((bs.drop (16 * i)).take 16) (aesEncrypt ks (nonce ++ natBe 4 (i + 2)))

/-- The 16-byte tag of additional data and ciphertext. -/
def gcmTag (key nonce aad cipher : List Byte) : List Byte :=
  let ks := aesRoundKeys key
  let h := beNat (aesEncrypt ks (List.replicate 16 0))
  let blocks := gcmBlocks aad ++ gcmBlocks cipher ++ [8 * aad.length * 2 ^ 64 + 8 * cipher.length]
  let y := blocks.foldl (fun y b => gcmMul (y ^^^ b) h) 0
  xorBytes (natBe 16 y) (aesEncrypt ks (nonce ++ natBe 4 1))

end Machine
end Sys2Proof
end

