-- ==== Sys2Proof/Machine/Link.lean ====
section
/-! DEFINITION. Link blocks (14 R358–R360): the choice of the port, compression, encryption, and what a receiver accepts. -/

namespace Sys2Proof
namespace Machine
open Host

/-! ## Compression (Table 14.15) -/

/-- The 4-byte words of a block's bytes. -/
def blockWords (bs : List Byte) : List (List Byte) := (List.range ((bs.length + 3) / 4)).map fun i => (bs.drop (4 * i)).take 4

/-- A block's payload under a method, if the method can carry it. -/
def payloadOf (method : Nat) (bs : List Byte) : Option (List Byte) :=
  let ws := blockWords bs
  let some_ (w : List Byte) : Bool := w.any (· != 0)
  match method with
  | 0 => some bs
  | 1 => if bs.all (· == 0) then some [] else none
  | 2 => if ws.all (· == ws.headD []) then some (ws.headD []) else none
  | _ =>
    let mask := (List.range ws.length).foldl (fun v i => if some_ (ws.getD i []) then v + 2 ^ i else v) 0
    some (natLe 8 mask ++ (ws.filter some_).flatten)

/-- The method with the shortest payload, the lower one of two that tie, and its payload (R359). -/
def compress (bs : List Byte) : Nat × List Byte :=
  [1, 2, 3].foldl (fun (b : Nat × List Byte) m => match payloadOf m bs with
    | some p => if p.length < b.2.length then (m, p) else b
    | none => b) (0, bs)

/-- A block's payload decompressed. -/
def linkBytes (method valid : Nat) (payload : List Byte) : List Byte :=
  if method = 0 then payload.take valid
  else if method = 1 then List.replicate valid 0
  else if method = 2 then ((List.range ((valid + 3) / 4)).flatMap fun _ => payload.take 4).take valid
  else
    let mask := leNat (payload.take 8)
    (((List.range ((valid + 3) / 4)).foldl (fun (p : List Byte × List Byte) i =>
      if mask / 2 ^ i % 2 = 1 then (p.1 ++ p.2.take 4, p.2.drop 4) else (p.1 ++ [0, 0, 0, 0], p.2))
      ([], payload.drop 8)).1).take valid

/-! ## Headers and encryption (Table 14.14, R360) -/

/-- A block's header. -/
def linkHeader (seq epoch method valid : Nat) : Word := BitVec.ofNat 64 (seq * 2 ^ 32 + epoch * 2 ^ 24 + method * 2 ^ 16 + valid)

/-- VALID. -/
def linkValid (h : Word) : Nat := h.toNat % 512

/-- Has a header a form that the table allows: its MBZ bits are 0 and VALID is a transfer's, 4 to 256 and a multiple of 4? -/
def linkForm (h : Word) : Bool :=
  decide (h.toNat / 2 ^ 18 % 64 = 0) && decide (h.toNat / 2 ^ 9 % 128 = 0) && decide (4 ≤ linkValid h) && decide (linkValid h ≤ 256) &&
    decide (linkValid h % 4 = 0)

/-- The nonce of a block: the sender's ACC and port, EPOCH and SEQ. -/
def linkNonce (acc port : Nat) (h : Word) : List Byte :=
  List.replicate 4 0 ++ natLe 2 acc ++ natLe 1 port ++ natLe 1 (h.toNat / 2 ^ 24) ++ natLe 4 (h.toNat / 2 ^ 32)

/-- A payload encrypted, or decrypted. -/
def linkCipher (key acc port : Nat) (h : Word) (payload : List Byte) : List Byte := gcmStream (natLe 32 key) (linkNonce acc port h) payload

/-- The tag of an encrypted payload. -/
def linkTag (key acc port : Nat) (h : Word) (cipher : List Byte) : List Byte :=
  gcmTag (natLe 32 key) (linkNonce acc port h) (natLe 8 h.toNat) cipher

/-- Does the receiver accept a block that a port of an accelerator sent, under a receive epoch of its port (R360)? -/
def Port.accepts (q : Port) (acc port : Nat) (h : Word) (cipher tag : List Byte) : Option Nat :=
  let seq := h.toNat / 2 ^ 32
  let ep := h.toNat / 2 ^ 24 % 256
  q.recv.findIdx? fun (e, key, last) =>
    e == ep && (linkTag key acc port h cipher == tag) && (match last with | some x => decide (x < seq) | none => true)

/-! ## Sending (R358, R359, R477) -/

/-- The port that blocks to an accelerator use: the first working one from its own on (R358). -/
def State.portFor (s : State) (acc : Nat) : Option Nat :=
  ((List.range 16).map fun k => (acc + k) % 16).find? fun p =>
    let q : Port := assocGet default s.ports p
    q.trained && q.send.isSome

/-- Block i of the bytes of a transfer, as a port sends it. -/
def linkBlock (acc port epoch key seq : Nat) (bs : List Byte) (i : Nat) : LinkBlock :=
  let b := (bs.drop (256 * i)).take 256
  let (m, p) := compress b
  let h := linkHeader (seq + i) epoch m b.length
  let c := linkCipher key acc port h p
  { port, header := h, cipher := c, tag := linkTag key acc port h c }

/-- How many blocks a port may still send under its epoch: one whose SEQ has reached 2^32 − 1 sends no more (R477). -/
def Port.room (q : Port) : Nat := 2 ^ 32 - 1 - q.seq

/-- Bytes of a transfer are sent by a port to an accelerator in blocks of 256 bytes, as far as its SEQ goes; the bytes left are given too
(R359, R477). -/
def State.transmit (s : State) (p : Nat) (bs : List Byte) : State × List Byte :=
  let q : Port := assocGet default s.ports p
  let n := Nat.min ((bs.length + 255) / 256) q.room
  let (epoch, key) := q.send.getD (0, 0)
  ({ s with wire := s.wire ++ (List.range n).map (linkBlock s.accid.toNat p epoch key q.seq bs)
            ports := assocSet default s.ports p { q with seq := q.seq + n } }, bs.drop (256 * n))

end Machine
end Sys2Proof
end

