-- ==== Sys2Proof/Machine/Engine.lean ====
section
/-! DEFINITION. Engine operations in general (R253–R256): starting one, its range-lock entries in issue order, its stalls and
its end; and group-level words with uniform operands (R268). -/

namespace Sys2Proof
namespace Machine
open Host

/-- An engine operation by its identifier. -/
def State.opOf (s : State) (id : Nat) : Option EngOp := s.ops.find? fun o => o.id == id

/-- Changes an engine operation. -/
def State.onOp (s : State) (id : Nat) (f : EngOp → EngOp) : State :=
  { s with ops := s.ops.map fun o => if o.id = id then f o else o }

/-- The party an operation's accesses are made by (R248: its issuing core). -/
def EngOp.who (o : EngOp) (strong : Bool) : Who :=
  { grid := some o.grid, core := o.core, thread := some o.thread, strong, chain := o.chain }

/-- Is it a transfer? -/
def OpKind.isXfer : OpKind → Bool
  | .xfer _ => true
  | _ => false

/-- The transfers of an operation that are counted against a core's 64 (R343). -/
def OpKind.flights : OpKind → Nat
  | .xfer x => x.left
  | _ => 0

/-- Transfers in flight on a core (R343); one held as a restart record is not (R347). -/
def State.inFlight (s : State) (core : Nat) : Nat :=
  s.ops.foldl (fun n o => if o.core = core ∧ o.st ≠ .locking ∧ o.parked = false then n + o.kind.flights else n) 0

/-- The local space of a transfer and its owner. -/
def EngOp.xferSpace (o : EngOp) (x : XferOp) : Space × Nat := if x.core then (.core, o.team) else (.glob, o.asid)

/-- The space a drain names. -/
def drainSpace : DSpace → Space
  | .glob => .glob
  | .core => .core
  | .chip => .chip

/-- The chunk size cb (R301). -/
def FmtSlot.chunkBytes (f : FmtSlot) : Nat :=
  if f.elem = 0x10 then 96 + 64 * f.planes.toNat else if f.isMx then (if f.elem = 6 then 544 else 528) else 512

/-- The ranges a WBLOAD reads: space, owner, address, length. -/
def EngOp.wbRanges (o : EngOp) (w : WbOp) : List (Space × Nat × Nat × Nat) :=
  if w.slot.elem = 0x10 then
    (.glob, o.asid, w.r.expAt w.c0 0, 32 * w.cnt) :: (.glob, o.asid, w.r.signAt w.c0 0, 64 * w.cnt) ::
      (List.range w.slot.planes.toNat).map fun k => (.glob, o.asid, w.r.planeAt w.c0 0 (k + 1), 64 * w.cnt)
  else [(if w.core then .core else .glob, if w.core then o.team else o.asid, w.src, w.cnt * w.slot.chunkBytes)]

/-- The ranges an operation reads. -/
def EngOp.sources (o : EngOp) : List (Space × Nat × Nat × Nat) :=
  match o.kind with
  | .xfer x => (if x.get then [] else [((o.xferSpace x).1, (o.xferSpace x).2, x.addr, x.len)]) ++
      (match x.list with | some a => [(.glob, o.asid, a, 8 * (x.cnt + 1))] | none => [])
  | .copy c => (.glob, o.asid, c.r.expAt c.t0 0, 32 * c.cnt) ::
      (if c.f = 0 then [(.glob, o.asid, c.r.signAt c.t0 0, 64 * c.cnt)] else []) ++
      ((List.range (c.n + 1)).filter fun k => 0 < k ∧ c.f ≤ k).map fun k => (.glob, o.asid, c.r.planeAt c.t0 0 k, 64 * c.cnt)
  | .pdrop r t0 cnt _ _ => (.glob, o.asid, r.expAt t0 0, 32 * cnt) ::
      (List.range r.p).map fun k => (.glob, o.asid, r.planeAt t0 0 (k + 1), 64 * cnt)
  | .wbload w => o.wbRanges w
  | _ => []

/-- The ranges an operation touches: those it locks, and its sources. -/
def EngOp.touched (o : EngOp) : List (Space × Nat × Nat × Nat) := (o.want.map fun (_, sp, owner, a, n) => (sp, owner, a, n)) ++ o.sources

/-- Does a range conflict with a range that an earlier operation on the core has locked (R253)? -/
def State.lockHeld (s : State) (core : Nat) (w : Bool × Space × Nat × Nat × Nat) : Bool :=
  let (dst, sp, owner, base, len) := w
  s.locks.any fun k => k.core == core && k.space == sp && k.owner == owner && (dst || k.dst) && overlap base len k.base k.len

/-- Does a range that an operation would lock, or a source of it, conflict so? -/
def State.lockBlocked (s : State) (o : EngOp) : Bool :=
  o.want.any (s.lockHeld o.core) || o.sources.any fun (sp, owner, a, n) => s.lockHeld o.core (false, sp, owner, a, n)

/-- Starts an operation for lanes of the issue set; they wait until it has its range-lock entries (R253). -/
def State.startOp (s : State) (l0 : Nat) (ls : List Nat) (kind : OpKind) (want : List (Bool × Space × Nat × Nat × Nat)) : State :=
  let th := s.lt l0
  let gap := decide (th.passed < th.arrived)
  let o : EngOp :=
    { id := s.nextId, thread := s.ig.t0 + l0, lanes := laneSet ls, team := s.ig.team, core := s.icore, asid := s.iasid,
      grid := s.gridOfGroup s.issue.grp, phase := th.passed, gap, chain := s.issue.runPc, tag := th.dtag, want, engine := false, stalled := false, first := false, parked := false, can := false,
      st := .locking, kind }
  let o := { o with st := if want = [] ∧ kind.isXfer = false ∧ s.lockBlocked o = false then OpSt.run else .locking }
  let s := { s with ops := s.ops ++ [o], nextId := s.nextId + 1 }
  if o.st = .run then s else ls.foldl (fun s l => s.waitLane l (.lock o.id)) s

/-- Takes one range-lock entry of a core; which free entry is not stated. -/
def State.takeLock (s : State) (core op : Nat) (w : Bool × Space × Nat × Nat × Nat) : State :=
  let (dst, space, owner, base, len) := w
  let free := freeIdx 32 fun i => s.locks.any fun k => k.core == core && k.idx == i
  let k : Lock := { core, idx := free.getD (s.choose free.length) 0, op, dst, space, owner, base, len }
  { s.next with locks := s.locks ++ [k] }

/-- Has an issuing thread an access issued before the operation that touches a range and is not performed (R212, R253)? -/
def State.opWaits (s : State) (o : EngOp) (sp : Space) (owner a n : Nat) : Bool :=
  let t0 := (s.group (s.thread o.thread).grp).t0
  s.accs.any fun x => decide (x.id < o.id) && !x.performed && x.space == sp && x.owner == owner &&
    (x.ranges.any fun (b, m) => overlap b m a n) &&
    ((List.range 64).any fun l => laneIn o.lanes l && s.precedes x (t0 + l))

/-- May an operation take all its entries now: enough are free, and none overlaps a locked range it conflicts with (R253); a
transfer also needs a place among the core's 64 (R343). Its source too must not overlap a locked destination. -/
def State.canLock (s : State) (o : EngOp) : Bool :=
  decide ((s.locks.filter fun k => k.core == o.core).length + o.want.length ≤ 32) &&
    (!o.kind.isXfer || decide (s.inFlight o.core + o.kind.flights ≤ 64)) && !s.lockBlocked o

/-- Does an operation wait for an access of those selected? -/
def State.opBehind (s : State) (o : EngOp) (p : Acc → Bool) : Bool :=
  let s := { s with accs := s.accs.filter p }
  o.touched.any fun (sp, owner, a, n) => s.opWaits o sp owner a n

/-- Are the issuing threads' earlier accesses to the bytes it locks performed (R212, R253)? -/
def State.opClear (s : State) (o : EngOp) : Bool := !(o.want.any fun (_, sp, owner, a, n) => s.opWaits o sp owner a n)

/-- Releases the range-lock entries of an operation. -/
def State.unlock (s : State) (id : Nat) : State := { s with locks := s.locks.filter fun k => k.op != id }

/-- An operation ends: its entries are released and threads waiting for it go on (R254, R317). -/
def State.endOp (s : State) (id : Nat) : State :=
  let s := { s.unlock id with ops := s.ops.filter fun o => o.id != id }
  (List.range s.threads.length).foldl (fun s t =>
    if (s.thread t).wait = .op id ∨ (s.thread t).wait = .lock id then s.endWait t else s) s

/-- A translation fault stalls an operation until replay (R222, R281). -/
def State.opMiss (s : State) (o : EngOp) (va : Nat) : State :=
  let (s, e) := s.attach o.core o.asid 3 va (.op o.id)
  s.onOp o.id fun o => { o with st := match e with | some e => .faulted e | none => .refused }

/-- A permission fault of an operation is grid-fatal and imprecise (R225, R281). -/
def State.opBad (s : State) (o : EngOp) (va : Nat) : State := s.fatalAt o.thread o.chain 0x08 (permLate 0 va)

/-- Is an operation of a gap still in its gap (R246)? -/
def State.opGap (s : State) (o : EngOp) : Bool := o.gap && decide ((s.grid o.grid).phase ≤ o.phase)

/-- One event entry for an operation that met poison (R143, R473). -/
def State.opLog (s : State) (o : EngOp) (info : Word) : State := s.logEvent 1 o.asid o.core (s.grid o.grid).handle info

/-! ## Group-level words with uniform operands (R268, R298) -/

/-- The lowest lane of the issue set, whether or not it executes the chain (R298). -/
def State.low (s : State) : Nat := s.issue.lead.getD (s.issue.lanes.headD 0)

/-- A group-level word whose operands are all uniform: a fault of the lowest lane's operands traps the whole issue set. -/
def State.uniWord (s : State) (i : Instr) (f : State → Nat → State) : Outcome State Fault Refusal :=
  .next (s.groupWord fun s =>
    match s.operandFault s.low i i.uses with
    | some (c, info) => s.faultAll 6 c info
    | none => f s s.low)

/-- The whole issue set takes the outcome of a read at issue. -/
def State.stallAll (s : State) (va : Option Nat) : State := s.issue.lanes.foldl (fun s l => s.stall l va) s

/-- A group-level word in which each lane of the issue set acts after common checks; uniform operands are the lowest lane's. -/
def State.eachLane (s : State) (i : Instr) (f : State → Nat → LaneRes) : State :=
  s.issue.lanes.foldl (fun s l =>
    match s.operandFault l i (lowUses i.uses l s.low) with
    | some (c, info) => s.fault l c info
    | none => match f s l with
      | .ok s' => s'
      | .fault c info => s.fault l c info
      | .stall va => s.stall l va) s

end Machine
end Sys2Proof
end

