-- ==== Sys2Proof/Machine/Planes.lean ====
section
/-! DEFINITION. Class I: plane loads, refinement and stores, plane copies and their barriers, demotion, gating and tile tags
(11 R266–R293), and the plane-copy engines' events. -/

namespace Sys2Proof
namespace Machine
open Host

/-! ## Plane references (R266, R271) -/

/-- A plane slot and its plane count n, or none where the slot does not hold plane blocks (R271). -/
def State.planeSlot (s : State) (slot : BitVec 3) (n : BitVec 4) (dflt : Bool) : Option (FmtSlot × Nat) :=
  let f := s.slot slot.toNat
  if f.elem = 0x10 then some (f, if dflt then f.planes.toNat else n.toNat) else none

/-- A word with a plane reference (R266, R271): slot, record and element index are checked for the whole issue set. -/
def State.planeWord (s : State) (i : Instr) (ref : Operand) (slot : BitVec 3) (n : BitVec 4) (dflt : Bool)
    (f : State → FmtSlot → Nat → PlaneRec → Nat → State) : State :=
  s.groupWord fun s =>
    match s.planeSlot slot n dflt with
    | none => s.faultAll 6 0x02 0
    | some (fs, n) =>
      match s.operandFault s.low i (i.uses.filter (·.uni)) with
      | some (c, info) => s.faultAll 6 c info
      | none =>
        let v := s.wide32 s.low ref 3
        let n0 := v / 2 ^ 64
        match s.readRec s.issue.lanes s.low (v % 2 ^ 64) with
        | (.fault c info, s) => s.faultAll 6 c info
        | (.stall va, s) => s.stallAll va
        | (.ok r, s) =>
          if n0 % Nat.min s.ig.w 32 ≠ 0 ∨ 512 * r.stripes < n0 + s.ig.w then s.faultAll 6 0x02 0 else f s fs n r n0

/-- The range-lock check of a list of global ranges: the lowest conflict (R235). -/
def State.lockRanges (s : State) (rs : List (Nat × Nat)) (store : Bool) : Option Word :=
  (rs.foldl (fun m (a, n) => match s.lockConflict s.icore .glob s.iasid a n store, m with
    | some (x, k), some (y, j) => if x < y then some (x, k) else some (y, j)
    | some c, none => some c
    | none, m => m) none).map fun (x, k) => lockInfo x k

/-- Issues a computed load whose result goes to slices of a lane. -/
def State.issueCalc (s : State) (l : Nat) (c : Calc) (ps : List Nat) : State :=
  let p := s.nextId
  let s := (s.onLane l (·.addPend { id := p, slices := ps, vals := [], known := false })).fresh
  s.issueAcc l .glob s.iasid ((c.ranges.headD (0, 0)).1) 2 (.calc c) (some p) 0 0 0

/-- Issues a computed load of a lane after its checks: range locks (R235), and lines hit without permission (R225). R225 speaks of class G;
that plane words fault on a hit as its words do is DEDUCED (log entry 52). -/
def State.calcLane (s : State) (l : Nat) (c : Calc) (ps : List Nat) : LaneRes :=
  match s.lockRanges c.ranges false with
  | some info => .fault 0x09 info
  | none => match s.hitFaults false ((s.calcReads s.iasid c).map (·.1)) with
    | (some a, _) => .fault 0x08 (permInfo 0 a)
    | (none, s) => .ok (s.issueCalc l c ps)

/-- PLD (R272). -/
def execPld (d r : Operand) (slot : BitVec 3) (n : BitVec 4) (dflt : Bool) (out : POut) (s : State) :
    Outcome State Fault Refusal :=
  let i : Instr := .pld d r slot n dflt out
  .next (s.planeWord i r slot n dflt fun s fs n rec n0 =>
    s.eachLane i fun s l =>
      s.calcLane l (.plane rec (n0 + l) n out fs.rnd fs.sat) ((s.lt l).locate s.gs d (d.w.slices + 1)))

/-- PRFN (R273): a lane that holds n planes already does nothing. -/
def execPrfn (d r : Operand) (slot : BitVec 3) (n : BitVec 4) (dflt : Bool) (s : State) : Outcome State Fault Refusal :=
  let i : Instr := .prfn d r slot n dflt
  .next (s.planeWord i r slot n dflt fun s _ n rec n0 =>
    s.eachLane i fun s l =>
      let ps := (s.lt l).locate s.gs d 9
      let vs := ps.map (s.lt l).slice
      let t := ((vs.getD 8 default).v).toNat
      if n ≤ t then .ok s
      else s.calcLane l (.refine rec (n0 + l) n ((sliceWord (vs.take 8)).setWidth 32) t) ps)

/-- The magnitude of R136 step 3 and whether it is inexact (R274). -/
def planeMagNx (p e : Nat) (v : Fp) : Nat × Bool :=
  match v with
  | .fin _ m x =>
    let (k, nx) := roundUnits .rne false m x ((e : Int) - 126 - p)
    (Nat.min k (2 ^ p - 1), nx || decide (2 ^ p - 1 < k))
  | _ => (0, false)

/-- Bits of 32 elements as a number, element 0 lowest. -/
def bitsOf (bs : List Bool) : Nat := bs.foldr (fun b v => 2 * v + (if b then 1 else 0)) 0

/-- The bytes of a plane block formed from 32 values with p of P planes, as (address, bytes) (R136, R274). -/
def planeStores (r : PlaneRec) (e : Nat) (p : Nat) (vs : List Fp) : List (Nat × List Byte) :=
  let t := e / 512
  let j := e % 512 / 32
  let ex := planeExp vs
  let ms := vs.map fun v => (planeMagNx p ex v).1
  let plane (k : Nat) : List Byte := natLe 4 (if k ≤ p then bitsOf (ms.map fun m => m / 2 ^ (p - k) % 2 = 1) else 0)
  (r.expAt t j, natLe 2 (ex + 256 * p)) :: (r.signAt t j, natLe 4 (bitsOf (vs.map (·.neg)))) ::
    (List.range r.p).map fun k => (r.planeAt t j (k + 1), plane (k + 1))

/-- PST (R274): one block from 32 lanes; a fault of any lane traps them all. A store that hits a line without W faults precisely, as
R225 has it of class G: DEDUCED (log entry 52). -/
def execPst (a r : Operand) (slot : BitVec 3) (n : BitVec 4) (dflt : Bool) (s : State) : Outcome State Fault Refusal :=
  let i : Instr := .pst a r slot n dflt
  if s.ig.w < 32 then .next (s.faultAll 5 0x04 0).finish
  else .next (s.planeWord i r slot n dflt fun s _ p rec n0 =>
    if p = 0 ∨ rec.p < p then s.faultAll 6 0x02 0
    else match s.issue.lanes.findSome? fun l => s.operandFault l i (lowUses i.uses l s.low) with
      | some (c, info) => s.faultAll 6 c info
      | none =>
        let base := s.low / 32 * 32
        let raw (l : Nat) : Fp := if s.issue.lanes.contains l then fpIn false ((s.src l a 32).setWidth 32) else .fin false 0 0
        let vs := (List.range 32).map fun k => planeInput (raw (base + k))
        let st := planeStores rec (n0 + base) p vs
        match s.lockRanges (st.map fun (x, b) => (x, b.length)) true with
        | some info => s.faultAll 6 0x09 info
        | none =>
          match st.find? fun (x, _) => (kvPage x).isSome with
          | some (x, _) => s.faultAll 6 0x08 (permInfo 0 x)
          | none => match s.hitFaults true (st.map (·.1)) with
          | (some x, _) => s.faultAll 6 0x08 (permInfo 0 x)
          | (none, s) =>
            let ex := planeExp vs
            let s := s.issue.lanes.foldl (fun s l =>
              let v := raw l
              let nv := if v.isNan || !v.isFin then flNV else 0
              let nx := if (planeMagNx p ex (planeInput v)).2 then flNX else 0
              s.raise l (nv ||| nx)) s
            let all := laneSet s.issue.lanes
            st.foldl (fun s (x, b) => s.issueStore s.low .glob s.iasid x b false all) s)

/-! ## Barrier objects (R283–R285) -/

/-- A barrier object. -/
def State.barObj (s : State) (team off : Nat) : Nat := leNat ((s.team team).scratch.read off 16)

/-- Writes a barrier object. -/
def State.setBarObj (s : State) (team off v : Nat) : State := s.onMem .core team fun m => m.write off (natLe 16 v) false

/-- Replaces n bits of a number from bit lo. -/
def setField (v lo n x : Nat) : Nat := v - field v lo n * 2 ^ lo + x % 2 ^ n * 2 ^ lo

/-- A malformed object (R283): an MBZ bit, or ARM and BUSY both 1. -/
def barObjBad (v : Nat) : Bool :=
  decide (field v 0 8 ≠ 0) || decide (field v 21 43 ≠ 0) || decide (field v 123 5 ≠ 0) ||
    (decide (field v 17 1 = 1) && decide (field v 18 1 = 1))

/-- Is the level n reached (R285)? -/
def barLevel (v n : Nat) : Bool := decide (field v 16 1 = 1) && decide (n ≤ field v 8 4)

/-- Does PBWAIT's condition hold (R285)? -/
def barDone (v n : Nat) : Bool :=
  barLevel v n || decide (field v 19 1 = 1) || decide (field v 20 1 = 1) ||
    (decide (field v 17 1 = 0) && decide (field v 18 1 = 0))

/-- The offset checks of PBINIT, PBWAIT and PBTEST (R284, R285). -/
def State.barOff (s : State) (off : Nat) : Option (Nat × Word) :=
  if off % 16 ≠ 0 then some (0x02, 0)
  else if s.inSpace .core off 16 then none else some (0x08, permInfo 1 off)

/-- PBINIT (R284). -/
def execPbinit (bar : Operand) (s : State) : Outcome State Fault Refusal :=
  .next (s.lanes (.pbinit bar) offMem fun s l =>
    let off := (s.src l bar 32).toNat
    match s.barOff off with
    | some (c, i) => .fault c i
    | none => match s.lockFault .core off 16 true with
      | some i => .fault 0x09 i
      | none => .ok (s.issueStore l .core s.ig.team off (natLe 16 (2 ^ 17)) false 0))

/-- Sets a predicate bit of a lane, the slice's other bits unchanged (R110, R285). -/
def State.putPred (s : State) (l : Nat) (q : PredBit) (c : Bool) : State := s.setPred l q (predBitSet (s.predSlice l q) q .set c)

/-- Sets a predicate bit of a lane in its slice as it was read before the word wrote anything (R9). -/
def State.putPredOver (s : State) (l : Nat) (q : PredBit) (old : BitVec 4) (c : Bool) : State := s.setPred l q (predBitSet old q .set c)

/-- PBWAIT (R285). -/
def execPbwait (q : PredBit) (bar : Operand) (n : BitVec 4) (s : State) : Outcome State Fault Refusal :=
  .next (s.lanes (.pbwait q bar n) offMem fun s l =>
    let off := (s.src l bar 32).toNat
    match s.barOff off with
    | some (c, i) => .fault c i
    | none =>
      if s.ownPending (s.ig.t0 + l) .core s.ig.team off 16 then .stall none
      else
        match s.corePoison s.ig.team off 16 with
        | some i => .fault 0x0B i
        | none =>
        let v := s.barObj s.ig.team off
        if barObjBad v then .fault 0x02 0
        else if barDone v n.toNat then .ok (s.putPred l q (barLevel v n.toNat))
        else .ok (s.waitLane l (.pbwait q off n.toNat)))

/-- PBTEST (R285). -/
def execPbtest (d bar : Operand) (hi : Bool) (s : State) : Outcome State Fault Refusal :=
  .next (s.lanes (.pbtest d bar hi) offMem fun s l =>
    let off := (s.src l bar 32).toNat
    match s.barOff off with
    | some (c, i) => .fault c i
    | none =>
      if s.ownPending (s.ig.t0 + l) .core s.ig.team off 16 then .stall none
      else match s.corePoison s.ig.team off 16 with
        | some i => .fault 0x0B i
        | none => .ok (s.dst l d (BitVec.ofNat 64 (s.barObj s.ig.team off / (if hi then 2 ^ 64 else 1)))))

/-! ## Plane copies (R275–R282) -/

/-- espan of s stripes (R275). -/
def espan (n : Nat) : Nat := (32 * n + 255) / 256 * 256
/-- span of s stripes (R275). -/
def span (n : Nat) : Nat := (64 * n + 255) / 256 * 256

/-- The offset of a region in a tile of n stripes, the end of plane k's region being that of region k + 1 (Table 11.5). -/
def regionOff (n k : Nat) : Nat := if k = 0 then 0 else espan n + k * span n

/-- The descriptor's fields (Table 11.6): record, first stripe, tile, stripe count, must-be-zero bits. -/
structure CopyDesc where
  rec_ : Nat
  t0 : Nat
  tile : Nat
  cnt : Nat
  mbz : Nat
deriving DecidableEq, Repr

/-- The copy descriptor of a lane (R277). -/
def State.copyDesc (s : State) (l : Nat) (o : Operand) : CopyDesc :=
  let v := s.wide32 l o 5
  { rec_ := field v 0 64, t0 := field v 64 32, tile := field v 96 32, cnt := field v 128 16, mbz := field v 144 16 }

/-- PCOPY and PCOPYX (R277, R278): the checks of Table 11.7, the barrier object not poisoned (R145), then the two entries. -/
def State.copyWord (s : State) (i : Instr) (chip : Bool) (desc bar : Operand) (n f : BitVec 4) : Outcome State Fault Refusal :=
  s.uniWord i fun s l =>
    let y := s.copyDesc l desc
    let off := (s.src l bar 32).toNat
    let sp : Space := if chip then .chip else .core
    if f ≠ 0 ∧ n < f then s.faultAll 6 0x01 0
    else match s.readRec s.issue.lanes l y.rec_ with
      | (.fault c info, s) => s.faultAll 6 c info
      | (.stall va, s) => s.stallAll va
      | (.ok r, s) =>
        let last := y.tile + regionOff y.cnt (n.toNat + 1)
        if y.mbz ≠ 0 ∨ y.cnt = 0 ∨ r.stripes < y.t0 + y.cnt ∨ r.p < n.toNat ∨ y.tile % 256 ≠ 0 ∨ off % 16 ≠ 0 then
          s.faultAll 6 0x02 0
        else if s.lanePending s.issue.lanes .core s.ig.team off 16 then s.stallAll none
        else if s.inSpace .core off 16 && (s.corePoison s.ig.team off 16).isSome then
          s.faultAll 6 0x0B ((s.corePoison s.ig.team off 16).getD 0)
        else if s.inSpace .core off 16 && barObjBad (s.barObj s.ig.team off) then s.faultAll 6 0x02 0
        else if s.spaceSize sp < last then s.faultAll 6 0x08 (permInfo sp.code y.tile)
        else if !s.inSpace .core off 16 then s.faultAll 6 0x08 (permInfo 1 off)
        else
          let start := y.tile + regionOff y.cnt f.toNat
          let c : CopyOp := { chip, tile := y.tile, r, t0 := y.t0, cnt := y.cnt, f := f.toNat, n := n.toNat, bar := off,
                              words := none, reg := f.toNat, done := 0 }
          s.startOp l s.issue.lanes (.copy c)
            [(true, sp, s.spaceOwner sp, s.memAddr sp start, last - start), (true, .core, s.ig.team, off, 16)]

/-- PCOPY (R277, R278). -/
def execPcopy (desc bar : Operand) (n f : BitVec 4) (s : State) : Outcome State Fault Refusal :=
  s.copyWord (.pcopy desc bar n f) false desc bar n f

/-- PCOPYX (R277, R278). -/
def execPcopyx (desc bar : Operand) (n f : BitVec 4) (s : State) : Outcome State Fault Refusal :=
  s.copyWord (.pcopyx desc bar n f) true desc bar n f

/-- Where a copy's tile lies: its space, owner and address. -/
def State.copyTile (s : State) (o : EngOp) (c : CopyOp) : Space × Nat × Nat :=
  if c.chip then (.chip, o.asid, s.cswBase o.asid + c.tile) else (.core, o.team, c.tile)

/-- A line tag (R276). -/
def State.tag (s : State) (sp : Space) (owner a : Nat) : BitVec 4 :=
  assocGet 0 (if sp = .chip then s.chipTags else (s.team owner).tags) (a / 256)

/-- Sets a line tag (R276). -/
def State.setTag (s : State) (sp : Space) (owner a : Nat) (v : BitVec 4) : State :=
  if sp = .chip then { s with chipTags := assocSet 0 s.chipTags (a / 256) v }
  else s.onTeam owner fun t => { t with tags := assocSet 0 t.tags (a / 256) v }

/-- The first step of a copy (R278): the barrier object and the tile tag. -/
def State.copyFirst (s : State) (o : EngOp) (c : CopyOp) : State :=
  let v := s.barObj o.team c.bar
  let h := c.f - 1
  let v := setField (setField (setField (setField v 17 1 0) 18 1 1) 19 1 0) 20 1 0
  let v := setField (setField (setField v 12 4 c.n) 16 1 (if c.f = 0 then 0 else 1)) 8 4 h
  let s := s.setBarObj o.team c.bar v
  let (sp, owner, a) := s.copyTile o c
  s.setTag sp owner a (BitVec.ofNat 4 h)

/-- The units of a region in the order of R279: source, destination offset in the region, length, stripe, first block. -/
def CopyOp.units (c : CopyOp) (r : Nat) : List (Nat × Nat × Nat × Nat × Nat) :=
  (List.range c.cnt).flatMap fun k =>
    let t := c.t0 + k
    if r = 0 then
      [(c.r.expAt t 0, 32 * k, 32, k, 0), (c.r.signAt t 0, espan c.cnt + 64 * k, 32, k, 0),
       (c.r.signAt t 0 + 32, espan c.cnt + 64 * k + 32, 32, k, 8)]
    else [(c.r.planeAt t 0 r, 64 * k, 32, k, 0), (c.r.planeAt t 0 r + 32, 64 * k + 32, 32, k, 8)]

/-- What is left of the units of the region being delivered (R279). -/
def CopyOp.left (c : CopyOp) : List (Nat × Nat × Nat × Nat × Nat) :=
  match (c.units c.reg).drop (c.done / 32) with
  | (a, x, n, k, j) :: r => (a + c.done % 32, x + c.done % 32, n - c.done % 32, k, j) :: r
  | [] => []

/-- How a region's delivery ends. -/
inductive RegionEnd
  | done
  | poison (a : Nat)
  | miss (a : Nat)
  | bad (a : Nat)
deriving DecidableEq, Repr

/-- Reads the units of a region up to the first that poisons a covered block (R280). -/
def copyUnits (w : Who) (asid : Nat) (bad : Nat → Nat → Bool) :
    List (Nat × Nat × Nat × Nat × Nat) → State → List (Nat × List Byte) × RegionEnd × State
  | [], s => ([], .done, s)
  | (a, o, n, k, j) :: r, s =>
    match s.gload w asid a n with
    | (.miss va, s) => ([], .miss va, s)
    | (.bad va, s) => ([], .bad va, s)
    | (.ok bs pz, s) =>
      if pz.isSome && bad k j then ([], .poison (a / 32 * 32), s)
      else
        let (l, e, s) := copyUnits w asid bad r s
        ((o, bs) :: l, e, s)

/-- What a copy's next act is. -/
inductive CopyAct
  | region (l : List (Nat × List Byte)) (ps : List Nat)
  | poison (kind a : Nat) (l : List (Nat × List Byte))
  | miss (a : Nat)
  | bad (a : Nat)
deriving DecidableEq, Repr

/-- The exponent words of a copy's stripes, with the first unit that is poisoned. -/
def State.copyWords (s : State) (o : EngOp) (c : CopyOp) : Got × State :=
  s.gload (o.who false) o.asid (c.r.expAt c.t0 0) (32 * c.cnt)

/-- The 16-bit words of bytes. -/
def words16 : List Byte → List Nat
  | a :: b :: r => (a.toNat + 256 * b.toNat) :: words16 r
  | _ => []

/-- Works out a copy's delivery of units (R279, R280): its exponent words before any region, of which the first malformed word or poisoned
unit counts, then the units. -/
def State.copyUnitsAct (s : State) (o : EngOp) (c : CopyOp) (us : List (Nat × Nat × Nat × Nat × Nat)) : CopyAct × State :=
  let go (ps : List Nat) (s : State) : CopyAct × State :=
    let bad (k j : Nat) : Bool := c.reg = 0 || ((ps.drop (16 * k + j)).take 8).any fun p => decide (c.reg ≤ p)
    match copyUnits (o.who false) o.asid bad us s with
    | (l, .done, s) => (.region l ps, s)
    | (l, .poison a, s) => (.poison 0 a l, s)
    | (_, .miss a, s) => (.miss a, s)
    | (_, .bad a, s) => (.bad a, s)
  match c.words with
  | some ps => go ps s
  | none =>
    match s.copyWords o c with
    | (.miss a, s) => (.miss a, s)
    | (.bad a, s) => (.bad a, s)
    | (.ok bs pz, s) =>
      let ws := words16 bs
      let word (k : Nat) : Nat := c.r.expAt c.t0 0 + 2 * k
      match (ws.findIdx? fun w => planeBad w c.r.p).filter fun k => pz.all (word k < ·), pz with
      | some k, _ => (.poison 1 (word k) [], s)
      | none, some u => if c.f = 0 then go (ws.map pblk) s else (.poison 0 u [], s)
      | none, none => go (ws.map pblk) s

/-- Works out a copy's next act: the rest of its region. -/
def State.copyAct (s : State) (o : EngOp) (c : CopyOp) : CopyAct × State := s.copyUnitsAct o c c.left

/-- Does a copy wait for the issuing thread's earlier accesses to its source (R253)? -/
def State.copyHeld (s : State) (o : EngOp) (c : CopyOp) : Bool :=
  s.opWaits o .glob o.asid (c.r.expAt c.t0 0) (32 * c.cnt) || s.opWaits o .glob o.asid (c.r.signAt c.t0 0) (64 * c.cnt) ||
    (List.range (c.n + 1)).any fun k => s.opWaits o .glob o.asid (c.r.planeAt c.t0 0 k) (64 * c.cnt)

/-- Writes delivered bytes of a region into the tile. -/
def State.copyPut (s : State) (o : EngOp) (c : CopyOp) (l : List (Nat × List Byte)) : State :=
  let (sp, owner, a) := s.copyTile o c
  l.foldl (fun s (x, bs) => s.onMem sp owner (·.write (a + regionOff c.cnt c.reg + x) bs false)) s

/-- Changes fields of a copy's barrier object. -/
def State.copyBar (s : State) (o : EngOp) (c : CopyOp) (f : Nat → Nat) : State :=
  s.setBarObj o.team c.bar (f (s.barObj o.team c.bar))

/-- The tile entry shrinks to start at the next region (R279). -/
def State.copyShrink (s : State) (o : EngOp) (c : CopyOp) : State :=
  let (sp, _, a) := s.copyTile o c
  let start := a + regionOff c.cnt (c.reg + 1)
  { s with locks := s.locks.map fun k =>
      if k.op = o.id ∧ k.space = sp ∧ a ≤ k.base ∧ k.len ≠ 16 then { k with base := start, len := k.base + k.len - start } else k }

/-- What a copy has left to deliver of its region. -/
def OpKind.copyLeft : OpKind → List (Nat × Nat × Nat × Nat × Nat)
  | .copy c => c.left
  | _ => []

/-- A running copy or demotion, by identifier, that may take its next step. -/
def State.copyRun (s : State) (id : Nat) : Option EngOp :=
  match s.opOf id with
  | some o => if o.engine && o.st == .run then some o else none
  | none => none

/-- COPY_ENGINE_START (R278, R289): the oldest copy or demotion of a core that waits gains one of its two engines; one held as a restart
record does not wait (R454). -/
def execCopyEngineStart (id : Nat) (s : State) : Outcome State Fault Refusal :=
  let eng (o : EngOp) : Bool := match o.kind with | .copy _ | .pdrop .. => true | _ => false
  .next (match s.opOf id with
    | some o =>
      let mine := s.ops.filter fun x => x.core == o.core && eng x && !x.parked
      if eng o && o.st == .run && o.first && !o.engine && decide ((mine.filter (·.engine)).length < 2) &&
          !(mine.any fun x => decide (x.id < id) && !x.engine) then
        s.onOp id fun o => { o with engine := true }
      else s
    | none => s)

/-- A copy delivers the next bytes of its region, up to as many as its 32-byte unit has left (R279); a unit that it cannot deliver is left
to the events that end or stall the copy. -/
def State.copyMove (s : State) (id : Nat) : State :=
  match s.copyRun id with
  | some o => match o.kind, o.kind.copyLeft with
    | .copy c, (a, x, n, k, j) :: _ =>
      if s.copyHeld o c then s
      else
        let m := 1 + s.choose n
        match s.copyUnitsAct o c [(a, x, m, k, j)] with
        | (.region l ps, u) =>
          (u.next.copyPut o c l).onOp id fun o => { o with kind := .copy { c with words := some ps, done := c.done + m } }
        | _ => s
    | _, _ => s
  | none => s

/-- COPY_REGION_COMPLETE (R279): the rest of the next region is delivered and announced; the last one ends the copy. -/
def execCopyRegionComplete (id : Nat) (s : State) : Outcome State Fault Refusal :=
  .next (match s.copyRun id with
    | some o => match o.kind with
      | .copy c =>
        if s.copyHeld o c then s
        else match s.copyAct o c with
          | (.miss a, s) => s.opMiss o a
          | (.bad a, s) => (s.opBad o a).endOp id
          | (.poison _ _ _, _) => s
          | (.region l ps, s) =>
            let s := s.copyPut o c l
            let s := s.copyBar o c fun v => if c.reg = 0 then setField v 16 1 1 else setField v 8 4 c.reg
            let (sp, owner, a) := s.copyTile o c
            let s := if c.reg = 0 then s else s.setTag sp owner a (BitVec.ofNat 4 c.reg)
            if c.reg = c.n then (s.copyBar o c fun v => setField v 18 1 0).endOp id
            else (s.copyShrink o c).onOp id fun o => { o with kind := .copy { c with words := some ps, reg := c.reg + 1, done := 0 } }
      | _ => s
    | none => s)

/-- COPY_POISON_END (R280): a copy that meets a poisoned block ends. -/
def execCopyPoisonEnd (id : Nat) (s : State) : Outcome State Fault Refusal :=
  .next (match s.copyRun id with
    | some o => match o.kind with
      | .copy c =>
        if s.copyHeld o c then s
        else match s.copyAct o c with
          | (.poison kind a l, s) =>
            let s := s.copyPut o c l
            let s := s.copyBar o c fun v =>
              setField (setField (setField (setField v 19 1 1) 121 2 kind) 64 57 a) 18 1 0
            (s.opLog o (permInfo kind a)).endOp id
          | _ => s
      | _ => s
    | none => s)

/-! ## Demotion (R288, R289) -/

/-- PDROP (R288, R289). Whether Table 11.7's check of n against P applies to h is not said; DESIGN CHOICE: it does not, since a demotion to
h > P planes changes nothing, and the entries are those of planes 1 … h as R289 says (log entry 56). -/
def execPdrop (desc : Operand) (h : BitVec 4) (s : State) : Outcome State Fault Refusal :=
  s.uniWord (.pdrop desc h) fun s l =>
    let y := s.copyDesc l desc
    match s.readRec s.issue.lanes l y.rec_ with
    | (.fault c info, s) => s.faultAll 6 c info
    | (.stall va, s) => s.stallAll va
    | (.ok r, s) =>
      if y.mbz ≠ 0 ∨ y.cnt = 0 ∨ r.stripes < y.t0 + y.cnt ∨ y.tile ≠ 0 ∨ r.dem = false then s.faultAll 6 0x02 0
      else s.startOp l s.issue.lanes (.pdrop r y.t0 y.cnt h.toNat none)
        ((true, .glob, s.iasid, r.expAt y.t0 0, 32 * y.cnt) ::
          (List.range h.toNat).map fun k => (true, .glob, s.iasid, r.planeAt y.t0 0 (k + 1), 64 * y.cnt))

/-- A magnitude of p planes demoted to h (R288): rne(M / 2^(p − h)), at most 2^h − 1. -/
def demoteMag (p h m : Nat) : Nat := Nat.min (roundUnits .rne false m 0 ((p : Int) - h)).1 (2 ^ h - 1)

/-- The planes 1 … h of a block read in full, demoted to h planes (R288). -/
def demotePlanes (b : PlaneBlk) (h : Nat) : List Nat :=
  let ms := (List.range 32).map fun i => demoteMag b.planes.length h (magOf b.planes i)
  (List.range h).map fun k => bitsOf (ms.map fun m => m / 2 ^ (h - 1 - k) % 2 = 1)

/-- Writes of a demotion of one block, or none where the block keeps its planes; a poisoned one is left as it is, and the lowest address of
them all is logged once (R143; DEDUCED, log entry 20). The planes are read of a block that changes only, and its sign bytes not at all (R144, R288, R289). -/
def State.demoteBlk (s : State) (o : EngOp) (r : PlaneRec) (h t j : Nat) : Got × List (Nat × List Byte) × State :=
  let bad (s : State) (k a : Nat) : Got × List (Nat × List Byte) × State := (.ok [] none, [], s.logPoison o.thread o.id (permInfo k a))
  match s.gload (o.who false) o.asid (r.expAt t j) 2 with
  | (.miss a, s) => (.miss a, [], s)
  | (.bad a, s) => (.bad a, [], s)
  | (.ok _ (some u), s) => bad s 0 u
  | (.ok eb none, s) =>
    if planeBad (leNat eb) r.p then bad s 1 (r.expAt t j)
    else if pblk (leNat eb) ≤ h then (.ok [] none, [], s)
    else match s.readBlk (o.who false) o.asid r t j 0 15 false with
      | (.miss a, s) => (.miss a, [], s)
      | (.bad a, s) => (.bad a, [], s)
      | (.poison k a _, s) => bad s k a
      | (.ok b, s) =>
        let ps := demotePlanes b h
        (.ok [] none, ((List.range h).map fun k => (r.planeAt t j (k + 1), natLe 4 (ps.getD k 0))) ++
          [(r.expAt t j, natLe 2 (b.word % 256 + 256 * h))], s)

/-- Demotes blocks one after another; the writes are collected, so that a stall repeats the whole. -/
def State.demoteBlks (o : EngOp) (r : PlaneRec) (h : Nat) : List (Nat × Nat) → State → Got × List (Nat × List Byte) × State
  | [], s => (.ok [] none, [], s)
  | (t, j) :: q, s =>
    match s.demoteBlk o r h t j with
    | (.ok _ _, l, s) =>
      match State.demoteBlks o r h q s with
      | (.ok _ _, m, s) => (.ok [] none, l ++ m, s)
      | g => g
    | g => g

/-- Stores a list of pieces as ordinary stores of an operation's core (R254): none before every one can be translated. -/
def State.opStores (s : State) (o : EngOp) (l : List (Nat × List Byte)) : Got × State :=
  match gplaces o.asid false true (l.flatMap fun (a, bs) => unitParts a bs.length) s with
  | (.ok _ _, ps, s) =>
    (.ok [] none, gstoreParts (o.who false) o.asid (l.flatMap fun (a, bs) => storeParts a bs fun _ => false) ps s)
  | (g, _, s) => (g, s)

/-- Does an LLC line lie wholly within the bytes of a plane above h for the stripes of a demotion (R288)? -/
def PlaneRec.above (r : PlaneRec) (t0 cnt h : Nat) (la : Nat) : Bool :=
  (List.range' (h + 1) (r.p - h)).any fun k => decide (r.planeAt t0 0 k ≤ la) && decide (la + 256 ≤ r.planeAt t0 0 k + 64 * cnt)

/-- An LLC line leaves without write-back (R288). Which of its dirty words HBM4 holds already is not stated, so each then holds any
value. -/
def State.discard (s : State) (n : Line) : State :=
  let hbm := (List.range 64).foldl (fun m k =>
    if n.mask.getLsbD k then Mem.write m (n.pa + 4 * k) ((List.range 4).map fun j => Config.freeByte s.tick (4 * k + j)) false else m) s.hbm
  { s.next with hbm, lines := s.lines.filter (· != n) }

/-- The LLC lines of the planes that a demotion gives up are discarded (R288). -/
def State.discards (s : State) (asid : Nat) (r : PlaneRec) (t0 cnt h : Nat) : State :=
  (s.lines.filter fun n => n.asid == asid && r.above t0 cnt h n.la).foldl State.discard s

/-- The writes of a demotion are stored, the lines of the planes given up leave, and the entries are released (R288, R289). -/
def State.dropStore (s : State) (o : EngOp) (r : PlaneRec) (t0 cnt h : Nat) (l : List (Nat × List Byte)) : State :=
  match s.opStores o l with
  | (.miss a, s) => s.opMiss o a
  | (.bad a, s) => (s.opBad o a).endOp o.id
  | (.ok _ _, s) => (s.discards o.asid r t0 cnt h).endOp o.id

/-- PDROP_COMPLETE (R288, R289): the blocks are demoted. Issued in a gap, a demotion reads its blocks in the gap's phase, and writes in the
next one (R246). -/
def execPdropComplete (id : Nat) (s : State) : Outcome State Fault Refusal :=
  .next (match s.copyRun id with
    | some o => match o.kind with
      | .pdrop r t0 cnt h (some l) => if s.opGap o then s else s.dropStore o r t0 cnt h l
      | .pdrop r t0 cnt h none =>
        if s.opWaits o .glob o.asid (r.expAt t0 0) (32 * cnt) || s.opWaits o .glob o.asid (r.signAt t0 0) (64 * cnt) ||
            (List.range 16).any (fun k => s.opWaits o .glob o.asid (r.planeAt t0 0 k) (64 * cnt)) then s
        else match State.demoteBlks o r h ((List.range cnt).flatMap fun k => (List.range 16).map fun j => (t0 + k, j)) s with
          | (.miss a, _, s') => { s' with pzMet := s.pzMet }.opMiss o a
          | (.bad a, _, s) => (s.opBad o a).endOp id
          | (.ok _ _, l, s) =>
            if s.opGap o then s.onOp id fun o => { o with kind := .pdrop r t0 cnt h (some l) } else s.dropStore o r t0 cnt h l
      | _ => s
    | none => s)

/-! ## Gating and audit (R290–R292) -/

/-- Does a candidate survive by score alone (R291)? A NaN survives; the comparison is exact. -/
def gateSurvives (bnd : Bool) (m r t : Fp) : Bool :=
  if m.isNan || r.isNan || t.isNan then true
  else
    let sum := (fpAdd .rne m (if r.neg then r.negate else r)).1
    if sum.isNan then true
    else if bnd then !fpLt sum t else !fpLt m t

/-- Counts a rejected candidate in AUDCNT.REJ; the sampled ones survive (R291). -/
def State.gateReject (s : State) : Bool × State :=
  let rej := s.ig.audcnt.extractLsb' 32 16 + 1
  let k := (s.ig.audctl.extractLsb' 12 4).toNat
  let s := s.onIg fun g =>
    { g with audcnt := (g.audcnt &&& ~~~(0xFFFF#64 <<< 32)) ||| (rej.setWidth 64 <<< 32) }
  (decide (k ≠ 0) && decide (rej.toNat % 2 ^ k = 0), s)

/-- PGATE (R291). -/
def execPgate (d pair : Operand) (est : Bool) (thr : Sel) (s : State) : Outcome State Fault Refusal :=
  let i : Instr := .pgate d pair est thr
  .next (s.groupWord fun s =>
    if est && s.ig.audctl.getLsbD 16 && s.ig.audcnt.getLsbD 63 then s.faultAll 6 0x1A s.ig.audcnt
    else s.eachLane i fun s l =>
      let p := s.src l pair 64
      let fp (w : Word) : Fp := fpIn false (w.setWidth 32)
      let m := fp p
      let r := fp (p >>> 32)
      let t := fp (s.src l { w := .w32, x := false, sel := thr } 32)
      if gateSurvives (!est) m r t then .ok (s.dst l d 1)
      else if est then
        let (aud, s) := s.gateReject
        .ok (s.dst l d (if aud then 3 else 0))
      else .ok (s.dst l d 0))

/-- AUDCNT with a sample counted and its window closed when full (R292). -/
def auditCount (ctl cnt : Word) (missed : Bool) : Word :=
  let samp := field cnt.toNat 16 16 + 1
  let miss := if missed then Nat.min (field cnt.toNat 0 16 + 1) 65535 else field cnt.toNat 0 16
  let wlog := field ctl.toNat 8 4
  let bound := field ctl.toNat 0 8
  let full := samp = 2 ^ wlog
  let v := setField (setField cnt.toNat 16 16 (if full then 0 else samp)) 0 16 (if full then 0 else miss)
  BitVec.ofNat 64 (if full ∧ bound < miss then setField v 63 1 1 else v)

/-- PAUDIT (R292). -/
def execPaudit (d e : Operand) (thr : Sel) (s : State) : Outcome State Fault Refusal :=
  let i : Instr := .paudit d e thr
  .next (s.groupWord fun s =>
    s.eachLane i fun s l =>
      let g := (s.src l d 4).setWidth 4
      if g.getLsbD 1 then
        let x := fpIn false ((s.src l e 32).setWidth 32)
        let t := fpIn false ((s.src l { w := .w32, x := false, sel := thr } 32).setWidth 32)
        let missed := !x.isNan && !t.isNan && !fpLt x t
        let s := s.onIg fun g => { g with audcnt := auditCount g.audctl g.audcnt missed }
        .ok (s.dst l d ((g &&& ~~~2#4).setWidth 64))
      else .ok s)

/-! ## Tile tags (R293) -/

/-- PTAG's check of a tile offset. -/
def State.tagOff (s : State) (chip : Bool) (a : Nat) : Option (Nat × Word) :=
  let sp : Space := if chip then .chip else .core
  if s.inSpace sp a 1 then none else some (0x08, permInfo sp.code a)

/-- PTAG.GET (R293). -/
def execPtagGet (d t : Operand) (chip : Bool) (s : State) : Outcome State Fault Refusal :=
  .next (s.lanes (.ptagGet d t chip) offMem fun s l =>
    let sp : Space := if chip then .chip else .core
    let a := (s.src l t 32).toNat
    match s.tagOff chip a with
    | some (c, i) => .fault c i
    | none => .ok (s.dst l d ((s.tag sp (s.spaceOwner sp) (s.memAddr sp a)).setWidth 64)))

/-- PTAG.SET (R293): a line in a locked destination conflicts. -/
def execPtagSet (t : Operand) (chip : Bool) (v : BitVec 4) (s : State) : Outcome State Fault Refusal :=
  .next (s.lanes (.ptagSet t chip v) offMem fun s l =>
    let sp : Space := if chip then .chip else .core
    let a := (s.src l t 32).toNat
    match s.tagOff chip a with
    | some (c, i) => .fault c i
    | none =>
      let x := s.memAddr sp a
      match s.lockFault sp (a / 256 * 256) 256 false with
      | some i => .fault 0x09 i
      | none => .ok (s.setTag sp (s.spaceOwner sp) x v))

end Machine
end Sys2Proof
end

