-- ==== Sys2Proof/Machine/Matrix.lean ====
section
/-! DEFINITION. Class J: the matrix units' claims, tokens, weight entries and passes, MMA and MMAP, WBLOAD, DRAIN (12 R294–R318),
and the events MATRIX_PASS, WBLOAD_COMPLETE and DRAIN_COMPLETE. The sums S of a pass are formed when its word issues, from the
entry as it then stands (R296); its rows are written when the unit performs the pass. -/

namespace Sys2Proof
namespace Machine
open Host

/-! ## The unit -/

/-- A partition's matrix unit. -/
def State.mxu (s : State) (u : Nat) : Mxu := assocGet default s.mxus u

/-- Changes a matrix unit. -/
def State.onMxu (s : State) (u : Nat) (f : Mxu → Mxu) : State := { s with mxus := assocSet default s.mxus u (f (s.mxu u)) }

/-- The issuing group's unit. -/
def State.unit (s : State) : Nat := s.icore * 4 + s.ig.partition

/-- A unit at the claim: every tile zero and unit-owned, every entry invalid (R294). -/
def Mxu.fresh (team : Nat) : Mxu :=
  { claim := some team, tiles := List.replicate 32 { owner := none, words := List.replicate 512 0 },
    wb := List.replicate 16 default, passes := [] }

/-- Has every thread of a group exited? -/
def State.groupEnded (s : State) (g : Nat) : Bool :=
  (List.range (s.group g).w).all fun l => (s.thread ((s.group g).t0 + l)).exited

/-- The group that holds a tile's token; a group that has ended has passed it to the unit (R295). -/
def State.tokenOf (s : State) (u n : Nat) : Option Nat :=
  match ((s.mxu u).tiles.getD n default).owner with
  | some g => if s.groupEnded g then none else some g
  | none => none

/-- Is a pass on a tile still to be applied? -/
def Mxu.busy (m : Mxu) (n : Nat) : Bool := m.passes.any fun p => p.tile == n

/-- A class J word (R294, R295): it does not issue while another team claims the unit; the first one claims it. A word that
stalls has not issued. -/
def State.jWord (s : State) (f : State → State) : State :=
  match (s.mxu s.unit).claim with
  | some t => if t = s.ig.team then f s else s.stallAll none
  | none =>
    let s' := f (s.onMxu s.unit fun _ => Mxu.fresh s.ig.team)
    if s'.issue.stalls.length = s.issue.stalls.length then s' else { s' with mxus := s.mxus }

/-- A group-level class J word (R298). -/
def State.jGroup (s : State) (f : State → State) : Outcome State Fault Refusal := .next (s.groupWord (·.jWord f))

/-- TINFO of accumulator ownership (R297). -/
def tokenInfo (tile : BitVec 5) : Word := tile.setWidth 64

/-- A word on a tile that the issuing group must hold (Table 12.1); it waits for the tile's passes in issue order (R296). -/
def State.ownTile (s : State) (tile : BitVec 5) (f : State → State) : State :=
  if s.tokenOf s.unit tile.toNat ≠ some s.issue.grp then s.faultAll 6 0x0A (tokenInfo tile)
  else if (s.mxu s.unit).busy tile.toNat then s.stallAll none
  else f s

/-- Changes a tile of the issuing group's unit. -/
def State.onTile (s : State) (u n : Nat) (f : Tile → Tile) : State := s.onMxu u fun m => { m with tiles := m.tiles.modify n f }

/-- The row of a lane (R308, R313). -/
def tileRow (rb : BitVec 2) (l : Nat) : Nat := 8 * ((l / 8 % 4 + rb.toNat) % 4) + l % 8

/-! ## Formats (R299–R301) -/

/-- A format class of Table 12.2: its number, k, and the bits of an element. -/
structure MClass where
  cls : Nat
  k : Nat
  bits : Nat
deriving DecidableEq, Repr

/-- The class of a plain or MX slot (Table 12.2). -/
def FmtSlot.mclass (f : FmtSlot) : Option MClass :=
  match f.elem.toNat with
  | 6 => some ⟨4, 64, 4⟩
  | 4 | 5 => some ⟨8, 32, 8⟩
  | 2 | 3 => some ⟨16, 16, 16⟩
  | 8 => some ⟨1, 32, 8⟩
  | 9 => some ⟨2, 64, 4⟩
  | _ => none

/-- The class of a B slot: a PB entry is of class F8 (Table 12.2). -/
def FmtSlot.bclass (f : FmtSlot) : Option MClass := if f.elem = 0x10 then some ⟨8, 32, 8⟩ else f.mclass

/-- An element of a plain slot (R124, Table 5.1). -/
def elemFp (code x : Nat) : Fp :=
  if code = 8 then (if x < 128 then .fin false x 0 else .fin true (256 - x) 0)
  else if code = 9 then (if x < 8 then .fin false x 0 else .fin true (16 - x) 0)
  else match fmtOf code with
    | some f => f.decode x
    | none => .fin false 0 0

/-- An element of a slot, with its block's scale byte if the slot is MX (R300). -/
def FmtSlot.elemVal (f : FmtSlot) (scale x : Nat) : Fp :=
  if f.isMx then (match fmtOf f.elem.toNat with | some m => mxValue m scale x | none => .fin false 0 0)
  else elemFp f.elem.toNat x

/-- The values b(c, i, j) of one plain or MX chunk, by column, then row (R301). -/
def chunkVals (f : FmtSlot) (m : MClass) (bs : List Byte) : List Fp :=
  let v := leNat bs
  (List.range 16).flatMap fun j => (List.range m.k).map fun i =>
    let scale := v / 2 ^ (8 * (16 * m.k * m.bits / 8 + j * (m.k / 32) + i / 32)) % 256
    f.elemVal scale (v / 2 ^ ((j * m.k + i) * m.bits) % 2 ^ m.bits)

/-! ## Summation (R302–R304) -/

/-- The products of a row and a column. -/
def products (a b : List Fp) : List Fp := (a.zip b).map fun (x, y) => (fpMul x y).1

/-- The exact sum of values, with R304's special values; a zero sum is −0 only if every addend is. -/
def exactSum : List Fp → Fp
  | [] => .fin false 0 0
  | a :: r => r.foldl (fun x y => (fpAdd .rne x y).1) a

/-- A product truncated towards zero to a multiple of 2^q (R303). -/
def truncFp (q : Int) : Fp → Fp
  | .fin s m e => if q ≤ e then .fin s m e else .fin s (m / 2 ^ (q - e).toNat) q
  | v => v

/-- S of a pass of class H16 (R303): the tree keeps every sum exact, so the order of the additions is immaterial. -/
def sumH16 (ps : List Fp) : Fp :=
  match blockExp ps with
  | none => exactSum ps
  | some x => exactSum (ps.map (truncFp (x - 47)))

/-- The sixteen sums S of one row. -/
def rowSums (m : MClass) (a b : List Fp) : List Fp :=
  (List.range 16).map fun j =>
    let ps := products a ((b.drop (j * m.k)).take m.k)
    if m.cls = 16 then sumH16 ps else exactSum ps

/-- rne(C + S, FP32) with R304's special values. -/
def accum (c : W32) (sum : Fp) : W32 := (deliver .rne false (fpAdd .rne (fpIn false c) sum).1).1

/-- Applies a pass to the words of its tile (R302). -/
def applyRows (rows : List (Nat × List Fp)) (ws : List W32) : List W32 :=
  rows.foldl (fun ws (r, ss) => (List.range 16).foldl (fun ws j =>
    ws.set (16 * r + j) (accum (ws.getD (16 * r + j) 0) (ss.getD j (.fin false 0 0)))) ws) ws

/-- MATRIX_PASS (R296, R302): the unit's oldest pass is applied to its tile. -/
def execMatrixPass (unit : Nat) (s : State) : Outcome State Fault Refusal :=
  .next (match (s.mxu unit).passes with
    | p :: _ => (s.onTile unit p.tile fun t => { t with words := applyRows p.rows t.words }).onMxu unit fun m =>
        { m with passes := m.passes.drop 1 }
    | [] => s)

/-! ## MMA and MMAP (R298, R305–R309) -/

/-- Does the issue set hold every non-exited lane of each of its quarters, outside a handler (R298)? -/
def State.quarters (s : State) : Bool :=
  (s.live.all fun l => s.issue.lanes.contains l || !(s.issue.lanes.any fun k => k / 8 == l / 8)) &&
    s.issue.lanes.all fun l => !laneIn s.ig.tset l

/-- A pass over an entry (R296, R305, R308): it waits while the entry loads or eight passes are queued; then the checks of the
entry and the tile, and `rows` gives the A rows of the lanes that do not fault. -/
def State.passWord (s : State) (tile : BitVec 5) (rb : BitVec 2) (e chunk : BitVec 4) (ok : State → WbEnt → Bool)
    (rows : State → WbEnt → State × List (Nat × List Fp)) : Outcome State Fault Refusal :=
  if !s.issue.sure && !s.quarters then .next (s.faultAll 5 0x04 0).finish
  else .next (s.jWord fun s =>
    let m := s.mxu s.unit
    let w := m.wb.getD e.toNat default
    if w.loading.isSome || decide (8 ≤ m.passes.length) then s.stallAll none
    else if !w.valid || decide (w.cnt ≤ chunk.toNat) || !ok s w then s.faultAll 6 0x02 0
    else if (s.tokenOf s.unit tile.toNat).isSome then s.faultAll 6 0x0A (tokenInfo tile)
    else match w.poison with
      | some info => s.faultLogged info
      | none =>
        match w.slot.bclass with
        | none => s.faultAll 6 0x02 0
        | some c =>
          let b := (w.vals.drop (chunk.toNat * 16 * c.k)).take (16 * c.k)
          let (s, as) := rows s w
          let p : Pass := { tile := tile.toNat, rows := as.map fun (l, a) => (tileRow rb l, rowSums c a b) }
          if as = [] then s else s.onMxu s.unit fun m => { m with passes := m.passes ++ [p] }).finish

/-- Is the scale operand legal at issue (R300)? -/
def State.scaleOk (s : State) (f : FmtSlot) (sc : BitVec 10) : Bool :=
  if f.scaleSlices = 0 then sc == 0
  else (List.range f.scaleSlices).all fun k => decide (sc.toNat + k < 960) &&
    decide ((s.lt s.low).phys s.gs (sc.toNat + k) < s.ir.l.toNat)

/-- The A row of a lane (R300). -/
def State.aRow (s : State) (l : Nat) (f : FmtSlot) (m : MClass) (a : Operand) (sc : BitVec 10) : List Fp :=
  let num (ps : List Nat) : Nat := ps.foldr (fun p v => 16 * v + ((s.lt l).slice p).v.toNat) 0
  let v := num ((s.lt l).locate s.gs a 64)
  let w := num ((List.range f.scaleSlices).map fun k => (s.lt l).phys s.gs (sc.toNat + k))
  (List.range m.k).map fun i => f.elemVal (w / 2 ^ (8 * (i / 32)) % 256) (v / 2 ^ (i * m.bits) % 2 ^ m.bits)

/-- MMA (R308). A lane's fault names the lowest marked slice of its A row and its scale operand (R72). -/
def execMma (tile : BitVec 5) (rb : BitVec 2) (e : BitVec 4) (slot : BitVec 3) (a : Operand) (chunk : BitVec 4) (sc : BitVec 10)
    (s : State) : Outcome State Fault Refusal :=
  let i : Instr := .mma tile rb e slot a chunk sc
  let f := s.slot slot.toNat
  s.passWord tile rb e chunk (fun s w => s.scaleOk f sc && f.mclass.isSome && decide (f.mclass = w.slot.bclass)) fun s _ =>
    s.issue.lanes.foldl (fun (s, r) l =>
      let reads := s.markReads l i.uses ((List.range f.scaleSlices).map fun k => (s.lt l).phys s.gs (sc.toNat + k))
      match s.lowestMark l reads, f.mclass with
      | some p, _ => (s.fault l 0x0B (markInfo p), r)
      | none, some m => (s, r ++ [(l, s.aRow l f m a sc)])
      | none, none => (s, r)) (s, [])

/-- Block b of a plane tile of n stripes at T, read at tag h: the exponent word's offset, the sign bytes' and the planes'. -/
def tileBlk (T n h b : Nat) (pb : Nat) : Nat × Nat × List Nat :=
  let t := b / 16
  let j := b % 16
  (T + 32 * t + 2 * j, T + espan n + 64 * t + 4 * j,
    (List.range (Nat.min h pb)).map fun k => T + espan n + (k + 1) * span n + 64 * t + 4 * j)

/-- What a lane of MMAP finds. -/
inductive TileRead
  | row (a : List Fp)
  | lock (info : Word)
  | poison (kind a : Nat)
deriving DecidableEq, Repr

/-- Reads the row of a lane of MMAP (R309). -/
def State.tileRead (s : State) (T n h b : Nat) : TileRead :=
  let m := (s.team s.ig.team).scratch
  let (ea, sa, _) := tileBlk T n h b 0
  let w := leNat (m.read ea 2)
  let pb := pblk w
  let (_, _, pa) := tileBlk T n h b pb
  let parts := (ea, 2) :: (sa, 4) :: pa.map fun a => (a, 4)
  match (parts.filterMap fun (a, k) => s.lockConflict s.icore .core s.ig.team a k false) with
  | (x, k) :: _ => .lock (lockInfo x k)
  | [] =>
    match parts.find? fun (a, k) => m.pzIn a k with
    | some (a, _) => .poison 0 (a / 32 * 32)
    | none =>
      if w / 4096 ≠ 0 ∨ pb = 0 ∨ w % 256 = 255 then .poison 1 ea
      else
        let blk : PlaneBlk := { word := w, sign := leNat (m.read sa 4), planes := pa.map fun a => leNat (m.read a 4) }
        .row ((List.range 32).map blk.value)

/-- MMAP (R309): the checks of its reference and of every lane's block before any lane's row. -/
def execMmap (tile : BitVec 5) (rb : BitVec 2) (e : BitVec 4) (r : Operand) (chunk : BitVec 4) (idx : Sel) (s : State) :
    Outcome State Fault Refusal :=
  let i : Instr := .mmap tile rb e r chunk idx
  let io : Operand := { w := .w16, x := false, sel := idx }
  s.passWord tile rb e chunk (fun _ w => decide (w.slot.bclass.map (·.cls) = some 8)) fun s _ =>
    match s.operandFault s.low i (i.uses.filter (·.uni)) with
    | some (c, info) => (s.faultAll 6 c info, [])
    | none =>
      let v := (s.src s.low r 64).toNat
      let T := field v 0 32
      let n := field v 32 16
      let h := (s.tag .core s.ig.team T).toNat
      let good := s.issue.lanes.filter fun l => (s.operandFault l i (lowUses i.uses l s.low)).isNone
      let b (l : Nat) : Nat := (s.src l io 16).toNat
      let last := T + espan n + (h + 1) * span n
      if v / 2 ^ 48 ≠ 0 ∨ n = 0 ∨ T % 256 ≠ 0 ∨ (good.any fun l => decide (16 * n ≤ b l)) = true then (s.faultAll 6 0x02 0, [])
      else if s.spaceSize .core < last then (s.faultAll 6 0x08 (permInfo 1 T), [])
      else if s.lanePending s.issue.lanes .core s.ig.team T (last - T) then (s.stallAll none, [])
      else
        let rs := good.map fun l => (l, s.tileRead T n h (b l))
        let bads := rs.filterMap fun (_, x) => match x with | .poison k a => some (k, a) | _ => none
        match bads with
        | (k, a) :: q =>
          let (k, a) := q.foldl (fun (k, a) (k', a') => if a' < a then (k', a') else (k, a)) (k, a)
          (s.faultAll 6 0x0B (permInfo k a), [])
        | [] =>
          s.issue.lanes.foldl (fun (s, out) l =>
            match s.operandFault l i (lowUses i.uses l s.low), rs.find? fun (k, _) => k == l with
            | some (c, info), _ => (s.fault l c info, out)
            | none, some (_, .lock info) => (s.fault l 0x09 info, out)
            | none, some (_, .row a) => (s, out ++ [(l, a)])
            | none, _ => (s, out)) (s, [])

/-! ## Weight entries (R301, R310, R311) -/

/-- Changes a weight entry. -/
def State.onWb (s : State) (u e : Nat) (f : WbEnt → WbEnt) : State := s.onMxu u fun m => { m with wb := m.wb.modify e f }

/-- WBLOAD (R310). -/
def execWbload (e c1 : BitVec 4) (slot : BitVec 3) (sp : Bool) (src b : Operand) (s : State) : Outcome State Fault Refusal :=
  let i : Instr := .wbload e c1 slot sp src b
  let f := s.slot slot.toNat
  let pb := f.elem = 0x10
  let cnt := c1.toNat + 1
  let bu := stripeUses b
  let zero : Operand := { w := .w4, x := false, sel := .slice 0 }
  s.jGroup fun s =>
    let l := s.low
    if ¬ pb ∧ b ≠ zero then s.faultAll 6 0x01 0
    else if pb ∧ bu.any ((s.lt l).illegalUse s.gs s.ir.l.toNat s.issue.latched) = true then s.faultAll 6 0x02 0
    else match s.operandFault l i (i.uses ++ if pb then bu else []) with
      | some (c, info) => s.faultAll 6 c info
      | none =>
        let a := (s.src l src 64).toNat
        let c0 := if pb then (s.src l b 32).toNat else 0
        let start (s : State) (r : PlaneRec) : State :=
          let w : WbOp := { unit := s.unit, entry := e.toNat, cnt, slot := f, core := sp, src := a, c0, r }
          let id := s.nextId
          let want := if sp then [(false, Space.core, s.ig.team, a, cnt * f.chunkBytes)] else []
          (s.startOp l s.issue.lanes (.wbload w) want).onWb s.unit e.toNat fun x => { x with loading := some id, drop := false }
        if f.bclass = none ∨ 4096 < cnt * f.chunkBytes ∨ a % 64 ≠ 0 ∨ (pb ∧ sp = true) then s.faultAll 6 0x02 0
        else if pb then
          match s.readRec s.issue.lanes l a with
          | (.fault c info, s) => s.faultAll 6 c info
          | (.stall va, s) => s.stallAll va
          | (.ok r, s) => if r.stripes < c0 + cnt then s.faultAll 6 0x02 0 else start s r
        else if !s.inSpace (if sp then .core else .glob) a (cnt * f.chunkBytes) then
          s.faultAll 6 0x08 (permInfo (if sp then 1 else 0) a)
        else start s default

/-- An entry is dropped (R311): at once, or when the load under way completes. -/
def WbEnt.dropped (w : WbEnt) : WbEnt := if w.loading.isSome then { w with drop := true } else default

/-- WBDROP (R311); earlier passes have taken what they need of the entry as they issued. -/
def execWbdrop (e : BitVec 4) (s : State) : Outcome State Fault Refusal :=
  s.jGroup fun s => s.onWb s.unit e.toNat WbEnt.dropped

/-- What a WBLOAD's source holds: the values, and TINFO of the first poison met. -/
inductive WbRead
  | ok (vals : List Fp) (poison : Option Word)
  | miss (a : Nat)
  | bad (a : Nat)
deriving DecidableEq, Repr

/-- Reads the blocks of a PB source (R301), by chunk and column. -/
def wbBlocks (o : EngOp) (w : WbOp) : List Nat → State → WbRead × State
  | [], s => (.ok [] none, s)
  | k :: q, s =>
    match s.readBlk (o.who false) o.asid w.r (w.c0 + k / 16) (k % 16) 0 w.slot.planes.toNat true with
    | (.miss a, s) => (.miss a, s)
    | (.bad a, s) => (.bad a, s)
    | (.poison kind a _, s) => (.ok [] (some (permInfo kind a)), s)
    | (.ok b, s) =>
      match wbBlocks o w q s with
      | (.ok vs p, s) => (.ok ((List.range 32).map b.value ++ vs) p, s)
      | r => r

/-- Reads a WBLOAD's source (R310 step 4). -/
def State.wbRead (s : State) (o : EngOp) (w : WbOp) : WbRead × State :=
  let n := w.cnt * w.slot.chunkBytes
  let vals (bs : List Byte) : List Fp :=
    match w.slot.mclass with
    | none => []
    | some m => (List.range w.cnt).flatMap fun c => chunkVals w.slot m ((bs.drop (c * w.slot.chunkBytes)).take w.slot.chunkBytes)
  if w.slot.elem = 0x10 then wbBlocks o w (List.range (16 * w.cnt)) s
  else if w.core then
    let m := (s.team o.team).scratch
    (.ok (vals (m.read w.src n)) (((unitsOf w.src n).find? m.unitPz).map fun u => permInfo 0 (32 * u)), s)
  else match s.gload (o.who false) o.asid w.src n with
    | (.miss a, s) => (.miss a, s)
    | (.bad a, s) => (.bad a, s)
    | (.ok bs pz, s) => (.ok (vals bs) (pz.map (permInfo 0)), s)

/-- Does an earlier load of the same entry still run? Loads of one entry complete in issue order (R310, R311). -/
def State.wbEarlier (s : State) (id : Nat) (w : WbOp) : Bool :=
  s.ops.any fun x => decide (x.id < id) && match x.kind with | .wbload y => y.unit == w.unit && y.entry == w.entry | _ => false

/-- WBLOAD_COMPLETE (R310 step 5): the source is read and the entry becomes valid, unless a later word dropped or reloaded it. -/
def execWbloadComplete (id : Nat) (s : State) : Outcome State Fault Refusal :=
  .next (match s.opOf id with
    | some o => match o.kind with
      | .wbload w =>
        if o.st ≠ .run ∨ s.wbEarlier id w = true ∨ ((o.wbRanges w).any fun (sp, ow, a, n) => s.opWaits o sp ow a n) = true then s
        else match s.wbRead o w with
          | (.miss a, s) => s.opMiss o a
          | (.bad a, s) => (s.opBad o a).endOp id
          | (.ok vals p, s) =>
            let s := match p with | some info => s.opLog o info | none => s
            (s.onWb w.unit w.entry fun x =>
              if x.loading = some id ∧ x.drop = true then default
              else if x.loading = some id then { valid := true, loading := none, drop := false, poison := p, slot := w.slot, cnt := w.cnt, vals }
              else x).endOp id
      | _ => s
    | none => s)

/-! ## Tokens and accumulator moves (R312–R314) -/

/-- ACQ (R312): it waits until the tile's earlier passes have written it. -/
def execAcq (tile : BitVec 5) (s : State) : Outcome State Fault Refusal :=
  s.jGroup fun s =>
    let t := s.tokenOf s.unit tile.toNat
    if t ≠ none ∧ t ≠ some s.issue.grp then s.faultAll 6 0x0A (tokenInfo tile)
    else
      let grp := s.issue.grp
      let s := s.onTile s.unit tile.toNat fun x => { x with owner := some grp }
      if (s.mxu s.unit).busy tile.toNat then
        s.issue.lanes.foldl (fun s l => s.waitLane l (.acq s.unit tile.toNat)) s
      else s

/-- REL (R312). -/
def execRel (tile : BitVec 5) (s : State) : Outcome State Fault Refusal :=
  s.jGroup fun s => s.ownTile tile fun s => s.onTile s.unit tile.toNat fun x => { x with owner := none }

/-- First column and column count (Table 12.4). -/
def colSpan : Cols → Nat × Nat
  | .all => (0, 16)
  | .lo => (0, 8)
  | .hi => (8, 8)

/-- ACCRD (R313). -/
def execAccrd (tile : BitVec 5) (rb : BitVec 2) (cols : Cols) (d : Operand) (s : State) : Outcome State Fault Refusal :=
  s.jGroup fun s => s.ownTile tile fun s =>
    let (j0, n) := colSpan cols
    s.issue.lanes.foldl (fun s l =>
      let ws := ((((s.mxu s.unit).tiles.getD tile.toNat default).words.drop (16 * tileRow rb l + j0)).take n)
      s.writeSlices l ((s.lt l).locate s.gs d cols.slices) (ws.flatMap fun w => sliceVals 8 (w.setWidth 64))) s

/-- ACCWR (R313): a marked slice of any lane leaves every row as it was. -/
def execAccwr (tile : BitVec 5) (rb : BitVec 2) (cols : Cols) (a : Operand) (s : State) : Outcome State Fault Refusal :=
  let i : Instr := .accwr tile rb cols a
  s.jGroup fun s => s.ownTile tile fun s =>
    let (j0, n) := colSpan cols
    if s.issue.lanes.any fun l => (s.operandFault l i i.uses).isSome then s.eachLane i fun s _ => .ok s
    else
      let put (ws : List W32) (l : Nat) : List W32 :=
        let vs := ((s.lt l).locate s.gs a cols.slices).map (s.lt l).slice
        (List.range n).foldl (fun ws m =>
          ws.set (16 * tileRow rb l + j0 + m) ((sliceWord ((vs.drop (8 * m)).take 8)).setWidth 32)) ws
      s.onTile s.unit tile.toNat fun t => { t with words := s.issue.lanes.foldl put t.words }

/-- ACCZ (R314). -/
def execAccz (tile : BitVec 5) (s : State) : Outcome State Fault Refusal :=
  s.jGroup fun s => s.ownTile tile fun s => s.onTile s.unit tile.toNat fun t => { t with words := List.replicate 512 0 }

/-! ## DRAIN (R315–R317) -/

/-- DRAIN (R315, R316): the snapshot is taken as the word issues. -/
def execDrain (tile : BitVec 5) (mode : DMode) (space : DSpace) (w z : Bool) (a stride : Operand) (s : State) :
    Outcome State Fault Refusal :=
  let i : Instr := .drain tile mode space w z a stride
  s.jGroup fun s =>
    let l := s.low
    let sp := drainSpace space
    match s.operandFault l i i.uses with
    | some (c, info) => s.faultAll 6 c info
    | none =>
      let x := (s.src l a 64).toNat
      let d := (s.src l stride 32).toNat
      let n := 31 * d + 64
      if d % 4 ≠ 0 ∨ d < 64 ∨ 2 ^ 24 - 4 < d ∨ (x % 4 ≠ 0 ∧ mode = .store) then s.faultAll 6 0x02 0
      else if x % 4 ≠ 0 then s.faultAll 6 0x07 (permInfo sp.code x)
      else if !s.inSpace sp x n then s.faultAll 6 0x08 (permInfo sp.code x)
      else s.ownTile tile fun s =>
        let ws := ((s.mxu s.unit).tiles.getD tile.toNat default).words
        let id := s.nextId
        let addr := s.memAddr sp x
        let o : DrainOp := { grp := s.issue.grp, mode, space, addr, stride := d, snap := ws }
        let s := s.startOp l s.issue.lanes (.drain o) [(true, sp, s.spaceOwner sp, addr, n)]
        let s := if w then s.issue.lanes.foldl (fun s l => s.waitLane l (.op id)) s else s
        if z then s.onTile s.unit tile.toNat fun t => { t with words := List.replicate 512 0 } else s

/-- The rows of a drain: address and words. -/
def DrainOp.rows (d : DrainOp) : List (Nat × List W32) :=
  (List.range 32).map fun i => (d.addr + i * d.stride, (d.snap.drop (16 * i)).take 16)

/-- A word of an add or max drain as a strong access (R316, R317, R321). -/
def drainAcc (o : EngOp) (d : DrainOp) (sp : Space) (owner addr : Nat) (x : W32) : Acc :=
  { id := o.id, thread := o.thread, lanes := 0, iss := o.id, space := sp, owner, addr, len := 4,
    op := .atomf (if d.mode = .add then .fadd else .fmax) (x.setWidth 64), phase := o.phase, gap := o.gap, pend := none,
    pos := 0, total := 0, chain := o.chain, word := 0, win := false, st := .ready, parked := false }

/-- Performs words of an add or max drain at their places, one after another; no other access comes between. -/
def State.drainWords (s : State) (o : EngOp) (d : DrainOp) (sp : Space) (owner : Nat) : List (Nat × W32) → List Nat → State
  | (a, x) :: r, pa :: l =>
    let acc := drainAcc o d sp owner a x
    let s := if (s.mem sp owner).pzIn pa 4 then s.logPoison o.thread o.id (permInfo 0 (a / 32 * 32)) else s.strongAt acc pa
    let s := s.rewatch fun y => y.space == sp && y.owner == owner && overlap y.addr y.len a 4
    let s := if sp = .glob then s.redeps owner fun c => overlap c 8 a 4 else s
    s.drainWords o d sp owner r l
  | _, _ => s

/-- The words of a drain: address and value. -/
def DrainOp.words (d : DrainOp) : List (Nat × W32) :=
  d.rows.flatMap fun (a, ws) => (List.range 16).map fun j => (a + 4 * j, ws.getD j 0)

/-- DRAIN_COMPLETE (R316, R317): drains of one group complete in issue order; every word is written in this one step. -/
def execDrainComplete (id : Nat) (s : State) : Outcome State Fault Refusal :=
  .next (match s.opOf id with
    | some o => match o.kind with
      | .drain d =>
        let sp := drainSpace d.space
        let owner := match d.space with | .core => o.team | _ => o.asid
        let earlier := s.ops.any fun x => decide (x.id < id) && match x.kind with | .drain y => y.grp == d.grp | _ => false
        if o.st ≠ .run ∨ earlier = true ∨ s.opWaits o sp owner d.addr (31 * d.stride + 64) = true ∨
            (sp = .glob ∧ d.mode = .store ∧ s.opGap o = true) then s
        else if d.mode = .store then
          let bytes (ws : List W32) : List Byte := ws.flatMap fun w => natLe 4 w.toNat
          if sp = .glob then
            match s.opStores o (d.rows.map fun (a, ws) => (a, bytes ws)) with
            | (.miss a, s) => s.opMiss o a
            | (.bad a, s) => (s.opBad o a).endOp id
            | (.ok _ _, s) => s.endOp id
          else (d.rows.foldl (fun s (a, ws) => s.onMem sp owner (·.write a (bytes ws) false)) s).endOp id
        else if sp = .glob then
          match gplaces o.asid true true (d.words.map fun (a, _) => (a, 4)) s with
          | (.miss a, _, s) => s.opMiss o a
          | (.bad a, _, s) => (s.opBad o a).endOp id
          | (.ok _ _, l, s) => (s.drainWords o d sp owner d.words l).endOp id
        else (s.drainWords o d sp owner d.words (d.words.map (·.1))).endOp id
      | _ => s
    | none => s)

end Machine
end Sys2Proof
end

