-- ==== Sys2Proof/Machine/Order.lean ====
section
/-! DEFINITION. Class H: fences, barriers and phases (10 R242–R250, R260–R265), and the events that complete an episode, a team's
arrival and a boundary. -/

namespace Sys2Proof
namespace Machine
open Host

/-! ## Fences (R242, R262) -/

/-- Does a scope set cover the access (Table 10.2)? -/
def covers (sc : BitVec 3) (a : Acc) : Bool :=
  match a.space with
  | .core => sc.getLsbD (match a.op with | .ring _ _ _ => 1 | _ => 0)
  | .glob => sc.getLsbD (if a.op.isStrong then 2 else 0)
  | .cluster => sc.getLsbD 1
  | .chip => sc.getLsbD 2

/-- Does a ring access carry a message of the thread? -/
def Acc.sends (a : Acc) (t : Nat) : Bool :=
  match a.op with
  | .ring _ _ ms => ms.any fun m => m.1 == t
  | _ => false

/-- Has every access of a thread in the covered spaces been performed (R262)? -/
def State.fenceOk (s : State) (t : Nat) (sc : BitVec 3) : Bool :=
  !(s.accs.any fun a => (a.thread == t || a.sends t) && covers sc a && !a.performed)

/-- FENCE (R262). -/
def execFence (sc : BitVec 3) (s : State) : Outcome State Fault Refusal :=
  .next (s.lanesOk (.fence sc) offMem fun s l =>
    if s.fenceOk (s.ig.t0 + l) sc then s else s.waitLane l (.fence sc))

/-! ## Barriers (R244, R264) -/

/-- BART: the index, then arrival (R264). -/
def execBart (n : BitVec 4) (s : State) : Outcome State Fault Refusal :=
  if Nat.max s.ir.nbar.toNat 1 ≤ n.toNat then .next (s.faultAll 6 0x02 0).finish
  else .next (s.lanesOk (.bart n) offMem fun s l => s.waitLane l (.barrier false n.toNat none false))

/-- Threads of a team as launched (R264). -/
def State.teamSize (s : State) : Nat := (s.team s.ig.team).ng * s.ig.w

/-- BART.N: the issue set's count is its lowest lane's (R264). -/
def execBartN (n : BitVec 4) (a : Operand) (s : State) : Outcome State Fault Refusal :=
  let i : Instr := .bartN n a
  if Nat.max s.ir.nbar.toNat 1 ≤ n.toNat then .next (s.faultAll 6 0x02 0).finish
  else match s.operandFault s.low i i.uses with
    | some (c, info) => .next (s.faultAll 6 c info).finish
    | none =>
      let c := (s.src s.low a a.w.bits).toNat
      if c = 0 ∨ s.teamSize < c then .next (s.faultAll 6 0x02 0).finish
      else .next (s.issue.lanes.foldl (fun s l => s.waitLane l (.barrier false n.toNat (some c) false)) s).finish

/-- BARC (R264). -/
def execBarc (n : BitVec 2) (s : State) : Outcome State Fault Refusal :=
  .next (s.lanesOk (.barc n) offMem fun s l => s.waitLane l (.barrier true n.toNat none false))

/-- The threads of a team. -/
def State.teamThreads (s : State) (t : Nat) : List Nat :=
  let m := s.team t
  (List.range m.ng).flatMap fun k => let g := s.group (m.g0 + k); (List.range g.w).map (g.t0 + ·)

/-- The threads of a cluster. -/
def State.clusterThreads (s : State) (c : Nat) : List Nat :=
  let m := s.cluster c
  (List.range m.nt).flatMap fun k => s.teamThreads (m.t0 + k)

/-- A barrier of a team or a cluster. -/
def State.bar (s : State) (cluster : Bool) (owner n : Nat) : Bar :=
  (if cluster then (s.cluster owner).bars else (s.team owner).bars).getD n default

/-- Changes a barrier. -/
def State.onBar (s : State) (cluster : Bool) (owner n : Nat) (f : Bar → Bar) : State :=
  if cluster then s.onCluster owner fun c => { c with bars := c.bars.modify n f }
  else s.onTeam owner fun t => { t with bars := t.bars.modify n f }

/-- A thread arrives at an episode; the first arrival fixes its mode and count (R264). -/
def Bar.arrive (b : Bar) (t : Nat) (cnt : Option Nat) : Bar :=
  if b.started then { b with arrived := b.arrived ++ [t] } else { started := true, count := cnt, arrived := b.arrived ++ [t] }

/-- The threads an episode releases once it is complete (R244, R264). -/
def State.barReady (s : State) (cluster : Bool) (owner n : Nat) : Option (List Nat) :=
  let b := s.bar cluster owner n
  if !b.started || (s.cluster (if cluster then owner else (s.team owner).cluster)).out then none
  else match b.count with
    | some c => if c ≤ b.arrived.length then some (b.arrived.take c) else none
    | none =>
      let live := (if cluster then s.clusterThreads owner else s.teamThreads owner).filter fun t => !(s.thread t).exited
      if b.arrived ≠ [] ∧ (live.all fun t => b.arrived.contains t) = true then some b.arrived else none

/-- The count that a thread waiting at a barrier brought. -/
def Wait.count : Wait → Option Nat
  | .barrier _ _ c _ => c
  | _ => Option.none

/-- BARRIER_EPISODE_COMPLETE (R244, R264): the threads of the episode are released; further arrivals start the next one. -/
def execBarrierEpisodeComplete (cluster : Bool) (owner n : Nat) (s : State) : Outcome State Fault Refusal :=
  .next (match s.barReady cluster owner n with
    | none => s
    | some ts =>
      let rest := (s.bar cluster owner n).arrived.drop ts.length
      let b : Bar := match rest with
        | [] => default
        | t :: _ => { started := true, count := (s.thread t).wait.count, arrived := rest }
      ts.foldl State.endWait (s.onBar cluster owner n fun _ => b))

/-! ## Phases (R246, R247, R263) -/

/-- Is the thread in a gap? -/
def Thread.inGap (th : Thread) : Bool := decide (th.passed < th.arrived)

/-- PHASEA (R263). -/
def execPhasea (s : State) : Outcome State Fault Refusal :=
  .next (s.lanesOk .phasea offMem fun s l =>
    if (s.lt l).inGap then s.waitLane l (.phase true false) else s.onLane l fun th => { th with arrived := th.arrived + 1 })

/-- PHASEW (R263). -/
def execPhasew (s : State) : Outcome State Fault Refusal :=
  .next (s.lanesOk .phasew offMem fun s l =>
    let s := if (s.lt l).inGap then s else s.onLane l fun th => { th with arrived := th.arrived + 1 }
    s.waitLane l (.phase false false))

/-- PHASE (R263): PHASEA, then PHASEW, as one word. -/
def execPhase (s : State) : Outcome State Fault Refusal :=
  .next (s.lanesOk .phase offMem fun s l =>
    if (s.lt l).inGap then s.waitLane l (.phase true true)
    else (s.onLane l fun th => { th with arrived := th.arrived + 1 }).waitLane l (.phase false false))

/-- A thread that waits at a phase instruction passes its boundary once that has completed (R246, R263). -/
def State.phaseStep (s : State) (t : Nat) : State :=
  let th := s.thread t
  match th.wait with
  | .phase arrive again =>
    if th.inGap && decide (th.passed < s.gridPhase t) then
      let s := s.onThread t fun th =>
        { th with passed := th.passed + 1, arrived := if arrive then th.arrived + 1 else th.arrived,
                  wait := if again then .phase false false else th.wait }
      if again then s else s.endWait t
    else s
  | _ => s

/-- Has every thread of a team exited? -/
def State.teamEnded (s : State) (t : Nat) : Bool := (s.teamThreads t).all fun t => (s.thread t).exited

/-- Does something of phase p, issued in a gap or not, hold back the arrival at boundary k (R247)? -/
def holdsBack (k p : Nat) (gap : Bool) : Bool := decide (p < k) || (decide (p = k) && !gap)

/-- Does a team meet R247's conditions for its next boundary? -/
def State.teamArrives (s : State) (t : Nat) : Bool :=
  let k := (s.team t).arrived
  let ts := s.teamThreads t
  decide (k = (s.grid (s.cluster (s.team t).cluster).grid).phase) && !s.teamEnded t &&
    (ts.all fun u => (s.thread u).exited || decide (k < (s.thread u).arrived)) &&
    !(s.accs.any fun a => ts.contains a.thread && !a.performed && holdsBack k a.phase a.gap) &&
    !(s.ops.any fun o => o.team == t && holdsBack k o.phase o.gap) &&
    !(s.reqs.any fun r => ts.contains r.thread && holdsBack k r.phase r.gap)

/-- TEAM_PHASE_ARRIVAL (R247). -/
def execTeamPhaseArrival (team : Nat) (s : State) : Outcome State Fault Refusal :=
  .next (if s.teamArrives team then s.onTeam team fun t => { t with arrived := t.arrived + 1 } else s)

/-- The teams of a grid that have started. -/
def State.gridTeams (s : State) (g : Nat) : List Nat :=
  (List.range s.teams.length).filter fun t => (s.cluster (s.team t).cluster).grid == g

/-- The accesses of a list, in order of issue, that a store of a phase above k holds back (R212, R246): they follow it. -/
def State.behindNext (s : State) (k : Nat) : List Acc → List Acc → List Acc
  | stuck, [] => stuck
  | stuck, a :: r => s.behindNext k (if decide (k < a.phase) || stuck.any (s.before · a) then a :: stuck else stuck) r

/-- Has an operation of phase k or before still an access of that phase to make (R246): one that has its entries, and is no transfer that
has read its source, nor one of a gap that has only the ordinary stores of the next phase left? -/
def EngOp.stillIn (o : EngOp) (k : Nat) : Bool :=
  decide (o.phase ≤ k) && o.st != .locking && match o.kind with
    | .xfer x => if x.get then !o.gap else !x.sent
    | .drain d => !(o.gap && d.mode == .store && d.space == .glob)
    | .pdrop _ _ _ _ got => !(o.gap && got.isSome)
    | .mask _ => false
    | _ => true

/-- Are the accesses of a grid's phase k and of those before it performed (R246, R247): those of a team that has exited, and the loads,
strong accesses, engines' reads and requests of a gap among them? What follows its thread's own store of the gap goes with that store; a
WAITV that its engine watches has been performed as often as it could. -/
def State.phaseDone (s : State) (g k : Nat) : Bool :=
  let mine := s.accs.filter fun a => !a.performed && a.st != .watch && s.gridOfGroup (s.thread a.thread).grp == g
  let stuck := s.behindNext k [] mine
  (mine.all fun a => stuck.any (·.id == a.id)) &&
    !(s.ops.any fun o => o.grid == g && o.stillIn k && !s.opBehind o fun a => stuck.any (·.id == a.id)) &&
    !(s.reqs.any fun r => r.grid == g && decide (r.phase ≤ k))

/-- Has every team of a grid arrived at the boundary that ends its phase, and is every access of the phase performed (R247)? -/
def State.boundaryReady (s : State) (g : Nat) : Bool :=
  let gr := s.grid g
  let ts := s.gridTeams g
  !gr.ended && decide (ts.length = gr.lr.ncl.toNat * gr.lr.tpc.toNat) && !(ts.all s.teamEnded) &&
    (ts.all fun t => s.teamEnded t || decide (gr.phase < (s.team t).arrived)) && s.phaseDone g gr.phase

/-- Do the records make a byte raced among themselves (R248)? -/
def racedAmong (rs : List AccRec) (b : Nat) : Bool :=
  let rs := rs.filter (·.touches b)
  rs.any fun o => o.store && !o.strong && rs.any fun r => if r.strong then r.thread != o.thread else r.core != o.core

/-- Stores that no later store of the same thread in the list follows. -/
def lastStores : List AccRec → List AccRec
  | [] => []
  | r :: q => if q.any fun x => x.thread == r.thread && x.core == r.core then lastStores q else r :: lastStores q

/-- A raced byte ends a phase with the value of one of the phase's stores (R248). -/
def State.settleByte (rs : List AccRec) (s : State) (b : Nat) : State :=
  if racedAmong rs b then
    let last := lastStores (rs.filter fun r => r.store && r.touches b)
    match last[s.choose last.length]? with
    | some r => { s.next with hbm := { s.hbm with bytes := memSet s.hbm.bytes b (r.newByte b) } }
    | none => s
  else s

/-- A unit with a raced byte ends a phase with the poison bit of some order of the phase's stores (R143). -/
def State.settleUnit (rs : List AccRec) (s : State) (u : Nat) : State :=
  if (List.range 32).any fun k => racedAmong rs (32 * u + k) then
    let st := rs.filter fun r => r.store && (unitsOf r.pa r.len).contains u
    let last := lastStores st
    match last[s.choose last.length]? with
    | some r =>
      let base := sopPz s.hbm rs u
      let v := r.pzStep u ((st.filter (· != r)).foldl (fun b x => x.pzStep u b) base)
      { s.next with hbm := { s.hbm with pz := assocSet false s.hbm.pz u v } }
    | none => s
  else s

/-- The bytes that stores of a list of records touch. -/
def storedBytes (rs : List AccRec) : List Nat :=
  ((rs.filter (·.store)).flatMap fun r => (List.range r.len).map (r.pa + ·)).eraseDups

/-- The units that stores of a list of records touch. -/
def storedUnits (rs : List AccRec) : List Nat := ((rs.filter (·.store)).flatMap fun r => unitsOf r.pa r.len).eraseDups

/-- The end of a grid's phase in memory: raced bytes and units settle, and its records close (R143, R248). -/
def State.settle (s : State) (g : Nat) : State :=
  let rs := s.openRecs (some g)
  let s := (storedUnits rs).foldl (State.settleUnit rs) s
  let s := (storedBytes rs).foldl (State.settleByte rs) s
  { s with recs := (s.recs.map fun r => { r with opens := r.opens.filter (· != g) }).filter fun r => r.opens != [] }

/-- ORDDBG comes into force for a grid (R258). -/
def State.latchDbg (s : State) (g : Nat) : State :=
  let v := s.areg (s.grid g).lr.asid.toNat 0x301
  s.onGrid g fun gr => { gr with race := v.getLsbD 0, mix := v.getLsbD 1 }

/-- PHASE_BOUNDARY_COMPLETE (R247): every access of the phase counts as performed; the cores of the grid drop its ASID's L1
lines; threads are released as R246 says. -/
def execPhaseBoundaryComplete (grid : Nat) (s : State) : Outcome State Fault Refusal :=
  .next (if s.boundaryReady grid then
      let s := s.settle grid
      let cores := ((s.gridTeams grid).map fun t => (s.team t).core).eraseDups
      let s := cores.foldl (fun s c => s.dropL1 c (s.grid grid).lr.asid.toNat fun _ _ => true) s
      let s := (s.onGrid grid fun gr => { gr with phase := gr.phase + 1 }).latchDbg grid
      (s.rewatch fun a => s.gridOfGroup (s.thread a.thread).grp == grid).redeps (s.grid grid).lr.asid.toNat fun _ => true
    else s)

end Machine
end Sys2Proof
end

