-- ==== Sys2Proof/Machine/Sync.lean ====
section
/-! DEFINITION. Class K: strong accesses, the cores' deques and tasks (13 R319–R336). -/

namespace Sys2Proof
namespace Machine
open Host

/-! ## Strong instructions (R319, R324–R327) -/

/-- The issue-time checks of a strong access of n bytes (R319), at the address a program names. -/
def State.strongCheck (s : State) (sp : Space) (a n : Nat) : Option (Nat × Word) :=
  if a % n ≠ 0 then some (0x07, permInfo sp.code a)
  else if !s.inSpace sp a n then some (0x08, permInfo sp.code a)
  else if sp = .glob ∧ (s.windowHit s.iasid a n).isSome = true then some (0x08, permInfo 4 a)
  else if sp = .glob ∧ (kvPage a).isSome = true then some (0x08, permInfo 0 a)
  else match s.lockFault sp a n true with
    | some i => some (0x09, i)
    | none => none

/-- Issues a strong access of a lane; its old value goes to the slices given, if any. -/
def State.issueStrong (s : State) (l : Nat) (sp : Space) (a n : Nat) (op : AccOp) (ret : Option (List Nat)) : State :=
  match ret with
  | none => s.issueAcc l sp (s.spaceOwner sp) (s.memAddr sp a) n op none 0 n 0
  | some ps =>
    let p := s.nextId
    let s := (s.onLane l (·.addPend { id := p, slices := ps, vals := [], known := false })).fresh
    s.issueAcc l sp (s.spaceOwner sp) (s.memAddr sp a) n op (some p) 0 n 0

/-- The space an address operand's X bit selects (R319). -/
def strongSpace (a : Operand) : Space := if a.x then .chip else .glob

/-- Does a strong access hit an LLC line that lacks a permission it needs, which it finds at issue (R214, R225)? -/
def State.strongHit (s : State) (sp : Space) (a : Nat) (op : AccOp) : Bool × State :=
  let (r, w) := op.needs
  if sp = .glob then
    match if r then s.hitFault a false else (false, s) with
    | (true, s) => (true, s)
    | (false, s) => if w then s.hitFault a true else (false, s)
  else (false, s)

/-- A lane makes a strong access after its checks (R319), and goes on. -/
def State.strongThen (s : State) (sp : Space) (a n : Nat) (op : AccOp) (f : State → LaneRes) : LaneRes :=
  match s.strongCheck sp a n with
  | some (c, i) => .fault c i
  | none => match s.strongHit sp a op with
    | (true, _) => .fault 0x08 (permInfo sp.code a)
    | (false, s) => f s

/-- A strong word in one lane. -/
def State.strongLane (s : State) (l : Nat) (d a : Operand) (off : Int) (op : AccOp) (ret : Bool) : LaneRes :=
  let n := d.w.bits / 8
  let sp := strongSpace a
  let ea := s.ea l a off n
  s.strongThen sp ea n op fun s =>
    .ok (s.issueStrong l sp ea n op (if ret then some ((s.lt l).locate s.gs d d.w.slices) else none))

/-- ATOM (R324). -/
def execAtom (g : Guard) (d a : Operand) (op : AtomOp) (n : Bool) (off : BitVec 8) (s : State) : Outcome State Fault Refusal :=
  .next (s.lanes (.atom g d a op n off) offMem fun s l =>
    s.strongLane l d a off.toInt (.atom op (s.src l d d.w.bits)) (!n))

/-- CAS (R325). -/
def execCas (g : Guard) (d a b : Operand) (s : State) : Outcome State Fault Refusal :=
  .next (s.lanes (.cas g d a b) offMem fun s l =>
    s.strongLane l d a 0 (.cas (s.src l d d.w.bits) (s.src l b d.w.bits)) true)

/-- ATOMF (R326). -/
def execAtomf (g : Guard) (d a : Operand) (op : AtomFOp) (n : Bool) (off : BitVec 8) (s : State) :
    Outcome State Fault Refusal :=
  .next (s.lanes (.atomf g d a op n off) offMem fun s l =>
    s.strongLane l d a off.toInt (.atomf op (s.src l d 32)) (!n))

/-- The lane waits at the strong access it has just made. -/
def State.waitStrong (s : State) (l : Nat) : State := s.waitLane l (.strong (s.nextId - 1))

/-- WAITV (R327). -/
def execWaitv (g : Guard) (d a : Operand) (c : WCond) (off : BitVec 8) (s : State) : Outcome State Fault Refusal :=
  .next (s.lanes (.waitv g d a c off) offMem fun s l =>
    (s.strongLane l d a off.toInt (.waitv c (s.src l d d.w.bits)) true).bind fun s => .ok (s.waitStrong l))

/-! ## Deques (R328–R333) -/

/-- A word whose executing lanes first wait as a FENCE (R333, R335): none issues until all of them may. -/
def State.fenced (s : State) (i : Instr) (sc : BitVec 3) (f : State → State) : Outcome State Fault Refusal :=
  .next (if (s.executing i).all fun l => s.fenceOk (s.ig.t0 + l) sc then f s else (s.stallAll none).finish)

/-- Entries on a core's deque. -/
def State.dqCount (s : State) (core : Nat) : Nat := (s.deques.filter fun e => e.core == core).length

/-- Pushes an entry of the issuing grid on the issuing core (R330). -/
def State.push (s : State) (w0 w1 w2 : Word) (need : Option (Nat × Nat)) : State :=
  { s with deques := s.deques ++ [{ core := s.icore, grid := s.gridOfGroup s.issue.grp, w0, w1, w2, need }] }

/-- DQPUSH (R330, R333): the lane whose entry would be the 513th, and every later one, pushes nothing. -/
def execDqpush (g : Guard) (w0 w1 w2 : Operand) (s : State) : Outcome State Fault Refusal :=
  let i : Instr := .dqpush g w0 w1 w2
  s.fenced i 5 fun s => s.lanes i offMem fun s l =>
    if 512 ≤ s.dqCount s.icore then .fault 0x19 512
    else .ok (s.push (s.src l w0 64) (s.src l w1 64) (s.src l w2 64) none)

/-- May an entry be taken by a grid from a core: has its FORK pushed it (R328, R334)? -/
def takeable (core grid : Nat) (e : DqEntry) : Bool := e.core == core && e.grid == grid && e.need.isNone

/-- Removes one element, the last or the first that a test accepts. -/
def takeOne {α : Type} (last : Bool) (p : α → Bool) (l : List α) : Option (α × List α) :=
  match if last then (l.reverse.findIdx? p).map (l.length - 1 - ·) else l.findIdx? p with
  | some k => match l[k]? with
    | some x => some (x, l.eraseIdx k)
    | none => none
  | none => none

/-- Gives a lane the entry it took, or a false predicate bit (R331, R332). -/
def State.deliverEntry (s : State) (l : Nat) (d : Operand) (q : PredBit) (e : Option DqEntry) : State :=
  match e with
  | none => s.putPred l q false
  | some e =>
    let old := s.predSlice l q
    let s := s.writeSlices l ((s.lt l).locate s.gs d 48) (sliceVals 16 e.w0 ++ sliceVals 16 e.w1 ++ sliceVals 16 e.w2)
    s.putPredOver l q old true

/-- DQPOP (R331). -/
def execDqpop (g : Guard) (d : Operand) (q : PredBit) (s : State) : Outcome State Fault Refusal :=
  .next (s.lanesOk (.dqpop g d q) offMem fun s l =>
    match takeOne true (takeable s.icore (s.gridOfGroup s.issue.grp)) s.deques with
    | some (e, r) => { s with deques := r }.deliverEntry l d q (some e)
    | none => s.deliverEntry l d q none)

/-- The torus neighbours of a core in the order of R332. -/
def neighbours (c : Nat) : List Nat :=
  let x := c % 16
  let y := c / 16
  [16 * y + (x + 1) % 16, 16 * ((y + 1) % 16) + x, 16 * y + (x + 15) % 16, 16 * ((y + 15) % 16) + x]

/-- DQSTEAL (R332). -/
def execDqsteal (g : Guard) (d : Operand) (q : PredBit) (s : State) : Outcome State Fault Refusal :=
  .next (s.lanesOk (.dqsteal g d q) offMem fun s l =>
    match (neighbours s.icore).findSome? fun c => takeOne false (takeable c (s.gridOfGroup s.issue.grp)) s.deques with
    | some (e, r) => { s with deques := r }.deliverEntry l d q (some e)
    | none => s.deliverEntry l d q none)

/-! ## Tasks (R334–R336) -/

/-- FORK (R334): the increment comes before the entry can be taken. -/
def execFork (g : Guard) (ctr entry arg : Operand) (s : State) : Outcome State Fault Refusal :=
  let i : Instr := .fork g ctr entry arg
  s.fenced i 5 fun s => s.lanes i offMem fun s l =>
    let c := s.src l ctr 64
    s.strongThen .glob c.toNat 8 (.atom .add 1) fun s =>
      if 512 ≤ s.dqCount s.icore then .fault 0x19 512
      else
        let id := s.nextId
        .ok ((s.issueStrong l .glob c.toNat 8 (.atom .add 1) none).push (s.src l entry 64) (s.src l arg 64) c (some (s.issue.iss, id)))

/-- TEND (R335). -/
def execTend (g : Guard) (ctr : Operand) (s : State) : Outcome State Fault Refusal :=
  let i : Instr := .tend g ctr
  s.fenced i 7 fun s => s.lanes i offMem fun s l =>
    let c := (s.src l ctr 64).toNat
    s.strongThen .glob c 8 (.atom .add (BitVec.allOnes 64)) fun s =>
      .ok (s.issueStrong l .glob c 8 (.atom .add (BitVec.allOnes 64)) none)

/-- TJOIN (R336). -/
def execTjoin (g : Guard) (ctr : Operand) (s : State) : Outcome State Fault Refusal :=
  .next (s.lanes (.tjoin g ctr) offMem fun s l =>
    let c := (s.src l ctr 64).toNat
    s.strongThen .glob c 8 (.waitv .eq 0) fun s => .ok ((s.issueStrong l .glob c 8 (.waitv .eq 0) none).waitStrong l))

end Machine
end Sys2Proof
end

