-- ==== Sys2Proof/Machine/Remote.lean ====
section
/-! DEFINITION. Class L: windows, send counters, transfers, their arrivals and rings (14 R337–R360), and the events of windows,
arrivals, transfers and link blocks. -/

namespace Sys2Proof
namespace Machine
open Host

/-! ## Windows (R337–R340) -/

/-- An entry of the window table. -/
def State.win (s : State) (i : Nat) : Win := assocGet default s.wins i

/-- Changes an entry of the window table. -/
def State.onWin (s : State) (i : Nat) (f : Win → Win) : State := { s with wins := assocSet default s.wins i (f (s.win i)) }

/-- The entry a handle of this module names, with a matching GEN (R337). -/
def State.winOf (s : State) (h : W32) : Option Nat :=
  let i := h.toNat / 2 ^ 11 % 4096
  let w := s.win i
  if h.toNat / 2 ^ 23 = s.accid.toNat ∧ h.toNat % 2 ^ 11 ≠ 0 ∧ w.gen = h.toNat % 2 ^ 11 ∧ w.st ≠ .free then some i else none

/-- The entry of an open or closed window of the issuing team. -/
def State.ownWin (s : State) (h : W32) (ok : WinSt → Bool) : Option Nat :=
  match s.winOf h with
  | some i => if (s.win i).team = s.ig.team ∧ ok (s.win i).st = true then some i else none
  | none => none

/-- Allocates an entry, the one freed longest ago (R337), and gives its handle; 0 when the table is full. -/
def State.winAlloc (s : State) (w : Win) : W32 × State :=
  let put (s : State) (i : Nat) : W32 × State :=
    let gen := (s.win i).gen % 2047 + 1
    (BitVec.ofNat 32 (s.accid.toNat * 2 ^ 23 + i * 2 ^ 11 + gen), s.onWin i fun _ => { w with gen })
  if s.winNext < 4096 then put { s with winNext := s.winNext + 1 } s.winNext
  else match s.winFreed with
    | i :: r => put { s with winFreed := r } i
    | [] => (0, s)

/-- WREG (R339). -/
def execWreg (g : Guard) (d base : Operand) (space : DSpace) (w r : Bool) (sz : BitVec 5) (s : State) :
    Outcome State Fault Refusal :=
  .next (s.lanes (.wreg g d base space w r sz) offMem fun s l =>
    let b := (s.src l base 64).toNat
    let sp := drainSpace space
    if b % 256 ≠ 0 then .fault 0x02 0
    else if !s.inSpace sp b (2 ^ sz.toNat) then .fault 0x08 (permInfo sp.code b)
    else
      let (h, s) := s.winAlloc { arrived := 0, base := b, st := .opened, space := sp, w, r, sz := sz.toNat, gen := 0, team := s.ig.team }
      .ok (s.dst l d (h.setWidth 64)))

/-- WREG.RE (R339). -/
def execWregRe (g : Guard) (d : Operand) (s : State) : Outcome State Fault Refusal :=
  .next (s.lanesOk (.wregRe g d) offMem fun s l =>
    let h := (s.src l d 32).setWidth 32
    match s.ownWin h fun st => st == .closed with
    | some i => (s.onWin i fun w => { w with st := .opened }).dst l d (h.setWidth 64)
    | none => s.dst l d 0)

/-- Reserves the write of a lane's destination, to be given its value later. -/
def State.reserve (s : State) (l : Nat) (d : Operand) : Nat × State :=
  (s.nextId, (s.onLane l (·.addPend
    { id := s.nextId, slices := (s.lt l).locate s.gs d d.w.slices, vals := [], known := false })).fresh)

/-- WDEREG (R340): the window drains, and the thread waits until its entry is free. -/
def execWdereg (g : Guard) (d h : Operand) (s : State) : Outcome State Fault Refusal :=
  .next (s.lanesOk (.wdereg g d h) offMem fun s l =>
    match s.ownWin ((s.src l h 32).setWidth 32) fun st => st == .opened || st == .closed with
    | some i =>
      let (p, s) := s.reserve l d
      (s.onWin i fun w => { w with st := .draining }).waitLane l (.wdereg i p)
    | none => s.dst l d 0)

/-- Is an arrival at the entry accepted and not yet counted? -/
def State.winBusy (s : State) (i : Nat) : Bool :=
  s.arrs.any fun a => a.handle.toNat / 2 ^ 11 % 4096 == i &&
    match a.st with
    | .accepted | .landing | .faulted _ | .refused => true
    | _ => false

/-- WINDOW_FREE (R338, R340): a draining entry with no arrival in flight becomes free. -/
def execWindowFree (idx : Nat) (s : State) : Outcome State Fault Refusal :=
  .next (if (s.win idx).st = .draining ∧ s.winBusy idx = false then
      let s := { s.onWin idx (fun w => { w with st := .free }) with winFreed := s.winFreed ++ [idx] }
      (List.range s.threads.length).foldl (fun s t =>
        match (s.thread t).wait with
        | .wdereg i p => if i = idx then (s.landPend t p 1).endWait t else s
        | _ => s) s
    else s)

/-! ## Send counters (R341, R342) -/

/-- A send counter of a team. -/
def State.sndc (s : State) (team c : Nat) : Word := (s.team team).sndc.getD c 0

/-- Counts a completed transfer, or one refused with a status (R342). -/
def sndcCount (v : Word) (st : Option Nat) : Word :=
  match st with
  | none => BitVec.ofNat 64 (setField v.toNat 0 32 (field v.toNat 0 32 + 1))
  | some k => BitVec.ofNat 64 (setField (setField (setField v.toNat 32 24 (field v.toNat 32 24 + 1)) 60 3 k) 63 1 1)

/-- Counts a transfer of a team. -/
def State.countSend (s : State) (team c : Nat) (st : Option Nat) : State :=
  s.onTeam team fun t => { t with sndc := t.sndc.modify c (sndcCount · st) }

/-! ## Transfers (R343, R344) -/

/-- The checks of a transfer's local range, of n bytes (R343). -/
def State.xferCheck (s : State) (core : Bool) (a n : Nat) (store : Bool) : Option (Nat × Word) :=
  if core then (if s.inSpace .core a n then none else some (0x08, permInfo 1 a))
  else if !s.inSpace .glob a n then some (0x08, permInfo 0 a)
  else match s.windowHit s.iasid a n with
    | some x => some (0x08, permInfo 4 x)
    | none =>
      if ((kvPage a).isSome || (kvPage (a + n - 1)).isSome) && (store || (s.areg s.iasid 0x302).getLsbD 0 = false) then
        some (0x08, permInfo 0 a)
      else none

/-- One lane of PUT, PUTM or GET (R343). -/
def State.xferLane (get multi : Bool) (loc rem ctl : Operand) (s : State) (l : Nat) : LaneRes :=
  let a := (s.src l loc 64).toNat
  let x := (s.src l rem 64).toNat
  let c := (s.src l ctl 32).toNat
  let n := c % 2 ^ 20 + 1
  let cnt := c / 2 ^ 24 % 32
  if c / 2 ^ 29 ≠ 0 ∨ (cnt ≠ 0 ∧ multi = false) ∨ n % 4 ≠ 0 ∨ a % 4 ≠ 0 ∨ (if multi then x % 8 ≠ 0 else x % 2 ^ 32 % 4 ≠ 0) then
    .fault 0x02 0
  else match s.xferCheck loc.x a n get with
    | some (k, i) => .fault k i
    | none =>
      match (if multi then s.xferCheck false x (8 * (cnt + 1)) false else none) with
      | some (k, i) => .fault k i
      | none =>
        let op : XferOp := { get, core := loc.x, addr := a, len := n, list := if multi then some x else none, cnt,
                             ctr := c / 2 ^ 20 % 16, sent := false, left := cnt + 1 }
        let sp : Space := if loc.x then .core else .glob
        let id := s.nextId
        let s := s.startOp l [l] (.xfer op) (if get || loc.x then [(get, sp, s.spaceOwner sp, a, n)] else [])
        let arr (s : State) (k : Nat) : Arrival :=
          { id := s.nextId + k, op := some id, handle := BitVec.ofNat 32 (x / 2 ^ 32), off := x % 2 ^ 32, get, len := n,
            bytes := [], pz := [], more := false, late := false, st := .held }
        .ok { s with arrs := s.arrs ++ (List.range (cnt + 1)).map (arr s), nextId := s.nextId + cnt + 1 }

/-- PUT (R343). -/
def execPut (g : Guard) (src dst ctl : Operand) (s : State) : Outcome State Fault Refusal :=
  .next (s.lanes (.put g src dst ctl) offMem (State.xferLane false false src dst ctl))

/-- PUTM (R343). -/
def execPutm (g : Guard) (src list ctl : Operand) (s : State) : Outcome State Fault Refusal :=
  .next (s.lanes (.putm g src list ctl) offMem (State.xferLane false true src list ctl))

/-- GET (R343). -/
def execGet (g : Guard) (dst src ctl : Operand) (s : State) : Outcome State Fault Refusal :=
  .next (s.lanes (.get g dst src ctl) offMem (State.xferLane true false dst src ctl))

/-- Changes an arrival. -/
def State.onArr (s : State) (id : Nat) (f : Arrival → Arrival) : State :=
  { s with arrs := s.arrs.map fun a => if a.id = id then f a else a }

/-- An arrival by its identifier. -/
def State.arrOf (s : State) (id : Nat) : Option Arrival := s.arrs.find? fun a => a.id == id

/-- Bytes of a global range with their poisoned parts, as (offset, length) (R344). -/
def gloadUnits (w : Who) (asid a0 : Nat) : List (Nat × Nat) → State → Got × List (Nat × Nat) × State
  | [], s => (.ok [] none, [], s)
  | (a, k) :: r, s =>
    match s.gload w asid a k with
    | (.ok bs pz, s) =>
      match gloadUnits w asid a0 r s with
      | (.ok cs _, ps, s) => (.ok (bs ++ cs) none, (if pz.isSome then (a - a0, k) :: ps else ps), s)
      | o => o
    | (g, s) => (g, [], s)

/-- The poisoned parts of a range of a memory, as (offset, length). -/
def Mem.pzParts (m : Mem) (a n : Nat) : List (Nat × Nat) :=
  ((unitParts a n).filter fun (x, k) => m.pzIn x k).map fun (x, k) => (x - a, k)

/-- Reads a range of a space as an agent of a core. -/
def State.readRange (s : State) (w : Who) (sp : Space) (owner a n : Nat) : Got × List (Nat × Nat) × State :=
  match sp with
  | .glob => gloadUnits w owner a (unitParts a n) s
  | _ => let m := s.mem sp owner; (.ok (m.read a n) none, m.pzParts a n, s)

/-- Which 32-byte units of a destination get poisoned data (R344). -/
def pzUnits (a : Nat) (ps : List (Nat × Nat)) (u : Nat) : Bool := ps.any fun (o, k) => (unitsOf (a + o) k).contains u

/-- Writes bytes with poisoned parts to a range of a space. -/
def State.writeRange (s : State) (w : Who) (sp : Space) (owner a : Nat) (bs : List Byte) (ps : List (Nat × Nat)) : Got × State :=
  match sp with
  | .glob => s.gstore w owner a bs (pzUnits a ps)
  | _ => (.ok [] none, (storeParts a bs (pzUnits a ps)).foldl (fun s (x, b, bad) => s.onMem sp owner (·.write x b bad)) s)

/-- Ends a transfer that the grid's fault cancels. -/
def State.xferCancel (s : State) (o : EngOp) : State :=
  { s.endOp o.id with arrs := s.arrs.filter fun a => a.op != some o.id }

/-- The accelerator a handle names. -/
def Arrival.acc (a : Arrival) : Nat := a.handle.toNat / 2 ^ 23

/-- Bytes for another accelerator leave by the port that R358 chooses, as far as its SEQ goes; the rest waits for a new send epoch (R477).
Without a working port a transfer is refused with status 5, and an answer to another accelerator is lost. -/
def State.sendRest (s : State) (id : Nat) : State :=
  match s.arrOf id with
  | none => s
  | some a =>
    let gone (s : State) : State := { s with arrs := s.arrs.filter fun b => b.id != id }
    if a.st ≠ .queued then s
    else match s.portFor a.acc with
      | none => if a.op = none then gone s else s.onArr id fun a => { a with st := .refusal 5 }
      | some p =>
        let (s, rest) := s.transmit p a.bytes
        if rest = [] ∧ a.op = none then gone s
        else s.onArr id fun a => { a with bytes := rest, st := if rest = [] then .sent else .queued }

/-- Has a port come that sends more of a queued arrival's bytes, or is there none for it? -/
def State.sendsRest (s : State) (a : Arrival) : Bool :=
  a.st == .queued && match s.portFor a.acc with
    | none => true
    | some p => decide (0 < (assocGet default s.ports p).room)

/-- Sends the destinations of a transfer whose source and list are read; one that is no accelerator's of the domain, or that no port
reaches, is refused with status 5 (R345, R358). -/
def State.sendAll (s : State) (o : EngOp) (x : XferOp) (bs : List Byte) (pz : List (Nat × Nat)) (ds : List Nat) : State :=
  let mine := s.arrs.filter fun a => a.op == some o.id
  let s := (List.range mine.length).foldl (fun s k =>
    let a := mine.getD k default
    let (h, off) := match ds[k]? with
      | some v => (BitVec.ofNat 32 (v / 2 ^ 32), v % 2 ^ 32)
      | none => (a.handle, a.off)
    let acc := h.toNat / 2 ^ 23
    let near := decide (acc = s.accid.toNat)
    let st : ArrSt :=
      if near then .sent else if 288 ≤ acc ∨ s.portFor acc = none then .refusal 5 else if x.get then .sent else .queued
    (s.onArr a.id fun a => { a with handle := h, off, bytes := bs, pz, more := x.get && !near, st }).sendRest a.id) { s with wire := [] }
  s.onOp o.id fun o => { o with kind := .xfer { x with sent := true } }

/-- The 64-bit words of bytes. -/
def words64 (bs : List Byte) : List Nat := (List.range (bs.length / 8)).map fun k => leNat ((bs.drop (8 * k)).take 8)

/-- A transfer reads its whole source and its list, then sends (R344); a GET sends its request. A list is consumed in place, so a poisoned
one raises 0x0B (R145); the spec does not say how a fault of an engine that is found after issue and that a handler could take is reported;
DESIGN CHOICE: it ends the grid, as R281's does, and nothing is sent (log entry 20). -/
def State.xferSend (s : State) (o : EngOp) (x : XferOp) : State :=
  let (sp, owner) := o.xferSpace x
  if x.get then s.sendAll o x [] [] []
  else if s.opWaits o sp owner x.addr x.len ||
      (match x.list with | some a => s.opWaits o .glob o.asid a (8 * (x.cnt + 1)) | none => false) then s
  else match s.readRange (o.who false) sp owner x.addr x.len with
    | (.miss a, _, s) => s.opMiss o a
    | (.bad a, _, s) => (s.opBad o a).xferCancel o
    | (.ok bs _, pz, s) =>
      match x.list with
      | none => s.sendAll o x bs pz []
      | some la => match s.gload (o.who false) o.asid la (8 * (x.cnt + 1)) with
        | (.miss a, s) => s.opMiss o a
        | (.bad a, s) => (s.opBad o a).xferCancel o
        | (.ok lb q, s) =>
          match q with
          | some u => ((s.opLog o (permInfo 0 u)).fatalAt o.thread o.chain 0x0B (permInfo 0 u)).xferCancel o
          | none => s.sendAll o x bs pz (words64 lb)

/-! ## Arrivals (R345) -/

/-- Why an arrival at this module is refused, in the order of Table 14.5. -/
def State.refusal (s : State) (a : Arrival) : Option Nat :=
  let i := a.handle.toNat / 2 ^ 11 % 4096
  let w := s.win i
  if 288 ≤ a.acc then some 5
  else if w.st = .free ∨ w.st = .draining ∨ w.gen ≠ a.handle.toNat % 2 ^ 11 then some 2
  else if w.st = .closed then some 1
  else if 2 ^ w.sz < a.off + a.len then some 3
  else if (if a.get then w.r else w.w) = false then some 4
  else none

/-- ARRIVAL_ACCEPT (R345): an arrival at a window of this module, of which the first block has come, is checked. -/
def execArrivalAccept (id : Nat) (s : State) : Outcome State Fault Refusal :=
  .next (match s.arrOf id with
    | some a =>
      if a.st ≠ .sent ∨ a.acc ≠ s.accid.toNat then s
      else match s.refusal a with
        | some st =>
          if a.op = none then { s with arrs := s.arrs.filter fun b => b.id != id }
          else s.onArr id fun a => { a with st := .refusal st }
        | none => s.onArr id fun a => { a with st := .accepted }
    | none => s)

/-- The owner of a window's space, and the address of an arrival there. -/
def State.winPlace (s : State) (w : Win) (off : Nat) : Nat × Nat :=
  let asid := (s.grid (s.cluster (s.team w.team).cluster).grid).lr.asid.toNat
  match w.space with
  | .core => (w.team, w.base + off)
  | .chip => (asid, s.cswBase asid + w.base + off)
  | _ => (asid, w.base + off)

/-- The range-lock entry an arrival takes on the owning team's core (R345). -/
def State.arrWant (s : State) (a : Arrival) : List (Bool × Space × Nat × Nat × Nat) :=
  let w := s.win (a.handle.toNat / 2 ^ 11 % 4096)
  let (owner, x) := s.winPlace w a.off
  if a.get then (if w.space = .core then [(false, .core, owner, x, a.len)] else []) else [(true, w.space, owner, x, a.len)]

/-- An accepted arrival takes its lock once it can (R345, R253). -/
def State.arrLock (s : State) (a : Arrival) : State :=
  let core := (s.team (s.win (a.handle.toNat / 2 ^ 11 % 4096)).team).core
  let want := s.arrWant a
  if a.st = .accepted ∧ (s.locks.filter fun k => k.core == core).length + want.length ≤ 32 ∧
      (want.any (s.lockHeld core)) = false then
    (want.foldl (fun s w => s.takeLock core a.id w) s).onArr a.id fun a => { a with st := .landing }
  else s

/-- The party that an arrival's accesses are made by: the owning team's core. -/
def State.arrWho (s : State) (w : Win) : Who :=
  { grid := some (s.cluster (s.team w.team).cluster).grid, core := (s.team w.team).core, thread := none, strong := false, chain := 0 }

/-- An arrival meets a permission fault while it lands: the owner's grid ends (R225). No acknowledgement leaves, since it would follow the
arrival's count (R342); what its sender sees is not stated; DESIGN CHOICE: a refusal with an open status (log entry 27). -/
def State.arrBad (s : State) (a : Arrival) (va : Nat) : State :=
  let w := s.win (a.handle.toNat / 2 ^ 11 % 4096)
  let s := s.onGrid (s.cluster (s.team w.team).cluster).grid fun gr => match gr.fatal with
    | some _ => gr
    | none => { gr with fatal := some { cause := 0x08, tpc := Config.freeWord s.tick, tinfo := permLate 0 va, team := w.team, thread := 0 } }
  let st := 1 + s.choose 6
  let s := (s.unlock a.id).next
  if a.op = none then { s with arrs := s.arrs.filter fun b => b.id != a.id } else s.onArr a.id fun a => { a with st := .refusal st }

/-- The bytes that another accelerator's GET asked for leave for it (R345, R359); which one asked is the transaction layer's. -/
def State.answer (s : State) (id : Nat) (bs : List Byte) : State :=
  let h := BitVec.ofNat 32 ((Config.freeWordAt s.tick 0).toNat % 288 * 2 ^ 23)
  ({ s.next with wire := [] }.onArr id fun a => { a with handle := h, bytes := bs, st := .queued }).sendRest id

/-- ARRIVAL_LAND (R345): the bytes are stored, or read for a GET, and counted; the lock is released. The answer to a GET that has been
cancelled is discarded (R347). -/
def execArrivalLand (id : Nat) (s : State) : Outcome State Fault Refusal :=
  .next (match s.arrOf id with
    | some a =>
      if a.st ≠ .landing ∨ a.more = true then s
      else
        let i := a.handle.toNat / 2 ^ 11 % 4096
        let w := s.win i
        let (owner, x) := s.winPlace w a.off
        let miss (s : State) (va : Nat) : State :=
          let (s, e) := s.attach (s.team w.team).core owner 3 va (.arr id)
          s.onArr id fun a => { a with st := match e with | some e => .faulted e | none => .refused }
        let fin (s : State) (f : Arrival → Arrival) : State :=
          let s := (s.unlock id).onArr id fun a => { f a with st := .done }
          if a.op = none then { s with arrs := s.arrs.filter fun b => b.id != id } else s
        if a.get then
          match s.readRange (s.arrWho w) w.space owner x a.len with
          | (.miss va, _, s) => miss s va
          | (.bad va, _, s) => s.arrBad a va
          | (.ok bs _, pz, s) =>
            if a.op = none ∧ a.late = false then (s.unlock id).answer id bs else fin s fun a => { a with bytes := bs, pz }
        else match s.writeRange (s.arrWho w) w.space owner x a.bytes a.pz with
          | (.miss va, s) => miss s va
          | (.bad va, s) => s.arrBad a va
          | (.ok _ _, s) => fin (s.onWin i fun w => { w with arrived := w.arrived + 1 }) fun a => a
    | none => s)

/-- An arrival is counted at its sender: the operation ends with its last one (R342). -/
def State.arrEnd (s : State) (a : Arrival) (o : EngOp) (x : XferOp) (st : Option Nat) : State :=
  let s := (s.countSend o.team x.ctr st).onOp o.id fun o => { o with kind := .xfer { x with left := x.left - 1 } }
  let s := { s with arrs := s.arrs.filter fun b => b.id != a.id }
  if x.left ≤ 1 then s.endOp o.id else s

/-- A sent arrival and its transfer. -/
def State.flight (s : State) (id : Nat) : Option (Arrival × EngOp × XferOp) :=
  match s.arrOf id with
  | some a => match a.op with
    | some oid => match s.opOf oid with
      | some o => match o.kind with
        | .xfer x => some (a, o, x)
        | _ => none
      | none => none
    | none => none
  | none => none

/-- Does a sent arrival go to another accelerator that the module can reach (R358)? -/
def State.remoteOk (s : State) (a : Arrival) : Bool :=
  a.st == .sent && a.acc != s.accid.toNat && decide (a.acc < 288) && (s.portFor a.acc).isSome

/-- TRANSFER_COMPLETE (R342): an acknowledgement returns, or a GET's data, all of which has come, lands locally. -/
def execTransferComplete (id : Nat) (s : State) : Outcome State Fault Refusal :=
  .next (match s.flight id with
    | some (a, o, x) =>
      let remote := s.remoteOk a
      if a.st ≠ .done ∧ (remote = false ∨ a.more = true) then s
      else if x.get then
        let (sp, owner) := o.xferSpace x
        if o.st ≠ .run ∨ (sp = .glob ∧ s.opGap o = true) ∨ s.opWaits o sp owner x.addr x.len = true then s
        else
          match s.next.writeRange (o.who false) sp owner x.addr a.bytes a.pz with
          | (.miss va, s) => s.opMiss o va
          | (.bad va, s) => (s.opBad o va).xferCancel o
          | (.ok _ _, s) => s.arrEnd a o x none
      else s.arrEnd a o x none
    | none => s)

/-- TRANSFER_REFUSED (R342): a refusal returns. Which one another accelerator gives is open; a GET's answer fails its integrity check
here (R360). -/
def execTransferRefused (id : Nat) (s : State) : Outcome State Fault Refusal :=
  .next (match s.flight id with
    | some (a, o, x) =>
      match a.st with
      | .refusal st => s.arrEnd a o x (some st)
      | .sent =>
        if a.acc = s.accid.toNat then s
        else if s.remoteOk a then s.next.arrEnd a o x (some (1 + s.choose (if x.get then 5 else 6)))
        else s.arrEnd a o x (some 5)
      | _ => s
    | none => s)

/-! ## Counters (R348, R349) -/

/-- The window whose counter a thread of the issuing team reads, or R348's fault. -/
def State.counterWin (s : State) (h : Word) : Option Nat := s.ownWin (h.setWidth 32) fun st => st != .free

/-- WCNT.W (R348). -/
def execWcntW (g : Guard) (d h : Operand) (s : State) : Outcome State Fault Refusal :=
  .next (s.lanes (.wcntW g d h) offMem fun s l =>
    let v := s.src l h 32
    match s.counterWin v with
    | some i => .ok (s.dst l d ((s.win i).arrived.setWidth 64))
    | none => .fault 0x08 (permInfo 7 v.toNat))

/-- WCNT.DONE (R348). -/
def execWcntDone (g : Guard) (d : Operand) (c : BitVec 4) (s : State) : Outcome State Fault Refusal :=
  .next (s.lanesOk (.wcntDone g d c) offMem fun s l =>
    s.dst l d (BitVec.ofNat 64 (field (s.sndc s.ig.team c.toNat).toNat 0 32)))

/-- WCNT.REF (R348). -/
def execWcntRef (g : Guard) (d : Operand) (c : BitVec 4) (s : State) : Outcome State Fault Refusal :=
  .next (s.lanesOk (.wcntRef g d c) offMem fun s l =>
    s.dst l d (BitVec.ofNat 64 (field (s.sndc s.ig.team c.toNat).toNat 32 24)))

/-- WWAIT.W (R349). -/
def execWwaitW (g : Guard) (d h : Operand) (s : State) : Outcome State Fault Refusal :=
  .next (s.lanes (.wwaitW g d h) offMem fun s l =>
    let v := s.src l h 32
    let n := (s.src l d 32).setWidth 32
    match s.counterWin v with
    | some i =>
      let (p, s) := s.reserve l d
      .ok (s.waitLane l (.arrivals i n p))
    | none => .fault 0x08 (permInfo 7 v.toNat))

/-- WWAIT.SND (R349). -/
def execWwaitSnd (g : Guard) (d : Operand) (c : BitVec 4) (s : State) : Outcome State Fault Refusal :=
  .next (s.lanesOk (.wwaitSnd g d c) offMem fun s l =>
    let n := (s.src l d 32).setWidth 32
    let (p, s) := s.reserve l d
    s.waitLane l (.sends c.toNat n p))

/-- The serial comparison of R349. -/
def serialGe (v n : W32) : Bool := decide ((v - n).toNat < 2 ^ 31)

/-- A thread's wait ends in a fault (R442): its destination is not written. -/
structure WaitFault where
  t : Nat
  pend : Nat
  cause : Nat
  info : Word
deriving DecidableEq, Repr

/-- Decides the faults of threads of one group that waited at one chain (R442). -/
def State.waitTrap (s : State) (fs : List WaitFault) : State :=
  match fs with
  | [] => s
  | f :: _ =>
    let th := s.thread f.t
    let s := fs.foldl (fun s f => s.onThread f.t fun th => { th with pend := th.pend.filter fun w => w.id != f.pend }) s
    let lf (f : WaitFault) : LaneFault := { stage := 6, lane := (s.thread f.t).lane, cause := f.cause, info := f.info, word := th.waitWord }
    ({ s with issue := { (default : Issue) with
        grp := th.grp, lanes := fs.map (fun (f : WaitFault) => (s.thread f.t).lane), pc := th.waitRun, wordAddr := th.waitAt,
        nextPc := th.waitNext, runPc := th.waitRun, skipPc := th.waitNext, word := th.waitWord, faults := fs.map lf } }).trapDecide.handlerDelay s

/-- The place of a wait's decision among those of one clock: groups by core, partition and slot (R447), the chains of one group in the
order in which they issued (R445). -/
def State.waitRank (s : State) (f : WaitFault) : Nat × Nat :=
  let th := s.thread f.t
  let g := s.group th.grp
  (((s.team g.team).core * 4 + g.partition) * 64 + g.slot, th.waitIss)

/-- Puts a key at its place in a rising list without repeats. -/
def insertRank (k : Nat × Nat) : List (Nat × Nat) → List (Nat × Nat)
  | [] => [k]
  | x :: r => if k = x then x :: r else if k.1 < x.1 ∨ (k.1 = x.1 ∧ k.2 < x.2) then k :: x :: r else x :: insertRank k r

/-- Decides faults of waiting threads, issue set by issue set (R445, R447). -/
def State.waitTraps (s : State) (fs : List WaitFault) : State :=
  let ks := (fs.map s.waitRank).foldr insertRank []
  (ks.map fun k => fs.filter fun f => s.waitRank f == k).foldl State.waitTrap s

/-! ## Rings (R352–R354) -/

/-- RSEND (R353): the messages of the issue set to one ring are one access. A ring header is consumed in place, so a poisoned one raises
0x0B (R145). -/
def execRsend (g : Guard) (m dst : Operand) (size : BitVec 2) (st : Sel) (s : State) : Outcome State Fault Refusal :=
  let i : Instr := .rsend g m dst size st
  let d : Operand := { w := .w4, x := false, sel := st }
  let nt (s : State) : Nat := (s.cluster (s.team s.ig.team).cluster).nt
  let ok (s : State) (l : Nat) : Bool :=
    let v := (s.src l dst 64).toNat
    decide (v / 2 ^ 36 = 0) && decide (v / 2 ^ 32 % 16 < nt s) && decide (v % 16 = 0)
  let team (s : State) (l : Nat) : Nat := (s.cluster (s.team s.ig.team).cluster).t0 + (s.src l dst 64).toNat / 2 ^ 32
  let bad (s : State) (l : Nat) : Option Word := s.corePoison (team s l) ((s.src l dst 64).toNat % 2 ^ 32) 16
  .next ((s.issue.lanes.foldl (fun s l => s.lane i i.uses offMem (fun s l =>
      if !ok s l then .fault 0x02 0 else match bad s l with | some w => .fault 0x0B w | none => .ok s) l) s |> fun s' =>
    let ls := (s.executing i).filter fun l => ok s l && (bad s l).isNone
    let key (l : Nat) : Nat := (s.src l dst 64).toNat
    ((ls.map key).eraseDups).foldl (fun s' k =>
      let team := (s.cluster (s.team s.ig.team).cluster).t0 + k / 2 ^ 32
      let mine := ls.filter fun l => key l == k
      let (ms, s') := mine.foldl (fun (ms, s') l =>
        let (p, s') := State.reserve s' l d
        let n := 8 * 2 ^ size.toNat
        let v := ((s.lt l).locate s.gs m (2 * n)).foldr (fun p v => 16 * v + ((s.lt l).slice p).v.toNat) 0
        (ms ++ [(s.ig.t0 + l, natLe n v, p)], s')) ((([] : List (Nat × List Byte × Nat))), s')
      s'.issueAcc (mine.headD 0) .core team (k % 2 ^ 32) 16
        (.ring size.toNat (s.team s.ig.team).ti ms) none 0 0 (laneSet mine)) s').finish)

/-- The checks of RWAIT and RADV (R353, R354, R235). -/
def State.ringCheck (s : State) (l off : Nat) (store : Bool) : Option LaneRes :=
  if off % 16 ≠ 0 then some (.fault 0x02 0)
  else if !s.inSpace .core off 16 then some (.fault 0x08 (permInfo 1 off))
  else if s.ownPending (s.ig.t0 + l) .core s.ig.team off 16 then some (.stall none)
  else match s.corePoison s.ig.team off 16 with
  | some i => some (.fault 0x0B i)
  | none =>
  if (s.ringAt s.ig.team off).bad then some (.fault 0x02 0)
  else match s.lockFault .core off 16 store with
    | some i => some (.fault 0x09 i)
    | none => none

/-- RWAIT (R353, R354). -/
def execRwait (g : Guard) (d hdr : Operand) (s : State) : Outcome State Fault Refusal :=
  .next (s.lanes (.rwait g d hdr) offMem fun s l =>
    let off := (s.src l hdr 32).toNat
    let n := (s.src l d 32).setWidth 32
    match s.ringCheck l off false with
    | some r => r
    | none =>
      let (p, s) := s.reserve l d
      .ok (s.waitLane l (.ring off n p)))

/-- RADV (R353): the lane first waits as a FENCE.T. -/
def execRadv (g : Guard) (hdr n : Operand) (s : State) : Outcome State Fault Refusal :=
  .next (s.lanes (.radv g hdr n) offMem fun s l =>
    let off := (s.src l hdr 32).toNat
    if !s.fenceOk (s.ig.t0 + l) 1 then .stall none
    else match s.ringCheck l off true with
      | some r => r
      | none =>
        let r := s.ringAt s.ig.team off
        let h := (r.head + Nat.min (s.src l n 32).toNat r.count) % 2 ^ 32
        .ok (s.onMem .core s.ig.team (·.write off (natLe 4 h) false)))

/-! ## Link blocks (R358–R360) -/

/-- The accelerator and the port that sent a block: the transaction layer's, which the spec leaves to UALink 1.0 (log entry 26). -/
def State.blockFrom (s : State) : Nat × Nat := ((Config.freeWordAt s.tick 2).toNat % 288, (Config.freeWordAt s.tick 3).toNat % 16)

/-- Bytes of an arrival, or of a GET's answer, that are still to come. -/
def Arrival.missing (a : Arrival) : Nat := a.len - a.bytes.length

/-- Transfers that are receiving blocks: arrivals from other accelerators, and GETs sent to them. -/
def State.receiving (s : State) : List Arrival :=
  s.arrs.filter fun a => a.more && (match a.op with
    | none => !a.get
    | some _ => a.get && s.remoteOk a)

/-- A block failed its tag or sequence check: the transfer it belonged to is refused with status 6 (R360), and nothing of it lands. -/
def State.blockLost (s : State) (a : Arrival) : State :=
  match s.flight a.id with
  | some (a, o, x) => s.arrEnd a o x (some 6)
  | none => { (s.unlock a.id) with arrs := s.arrs.filter fun b => b.id != a.id }

/-- The poisoned words that a block brings at an offset of its transfer: the mark that travels with them is the transaction layer's
(R344). -/
def blockPz (mark : Word) (at_ n : Nat) : List (Nat × Nat) :=
  ((List.range (n / 4)).filter fun k => mark.getLsbD k).map fun k => (at_ + 4 * k, 4)

/-- A transfer receives the next bytes. -/
def Arrival.take (a : Arrival) (bs : List Byte) (mark : Word) : Arrival :=
  { a with bytes := a.bytes ++ bs, pz := a.pz ++ blockPz mark a.bytes.length bs.length, more := decide (bs.length < a.missing) }

/-- The first block of a transfer of another accelerator to a window: handle, offset and length are the transaction layer's; a block of
fewer than 256 bytes is the whole transfer (R359). -/
def State.firstBlock (s : State) (bs : List Byte) : Arrival :=
  { id := s.nextId, op := none, handle := (Config.freeWordAt s.tick 0).setWidth 32, off := (Config.freeWordAt s.tick 1).toNat % 2 ^ 32,
    get := false, len := if bs.length < 256 then bs.length else 256 + 4 * ((Config.freeWordAt s.tick 4).toNat % 262081), bytes := [],
    pz := [], more := true, late := false, st := .sent }

/-- LINK_BLOCK_RECEIVE (R360): a block that fails its tag or sequence check is dropped and logged, and its transfer refused; an accepted
one advances its epoch's SEQ and brings the next bytes of its transfer. Which transfer that is, is the transaction layer's: it is open
whether the block belongs to one whose next bytes it can be, begins an arrival at a window, or answers nothing that waits any more. -/
def execLinkBlockReceive (port : Nat) (header : Word) (payload tag : List Byte) (s : State) : Outcome State Fault Refusal :=
  let q : Port := assocGet default s.ports port
  let (acc, from_) := s.blockFrom
  let mark := Config.freeWordAt s.tick 5
  .next (match q.accepts acc from_ header payload tag with
    | none =>
      let s1 := s.next.logEvent 2 0 511 0 (BitVec.ofNat 64 (port % 16))
      (match s.receiving[s.choose (s.receiving.length + 1)]? with
        | some a => s1.blockLost a
        | none => s1)
    | some k =>
      let key := ((q.recv[k]?).map fun x => x.2.1).getD 0
      let q := { q with recv := q.recv.modify k fun (e, key, _) => (e, key, some (header.toNat / 2 ^ 32)) }
      let s1 := { s.next with ports := assocSet default s.ports port q }
      let n := linkValid header
      let bs := linkBytes (header.toNat / 2 ^ 16 % 4) n (linkCipher key acc from_ header payload)
      let fits := s.receiving.filter fun a => Nat.min 256 a.missing == n
      let c := s.choose (fits.length + 2)
      if linkForm header = false ∨ bs.length ≠ n then s1
      else match fits[c]? with
        | some a => s1.onArr a.id (·.take bs mark)
        | none =>
          if c = fits.length then { s1 with arrs := s1.arrs ++ [(s.firstBlock bs).take bs mark], nextId := s1.nextId + 1 } else s1)

/-- Another accelerator asks for bytes of a window of this module, over a port that works (R345, R358). -/
def State.remoteGet (s : State) : State :=
  let a : Arrival :=
    { id := s.nextId, op := none, handle := (Config.freeWordAt s.tick 0).setWidth 32, off := (Config.freeWordAt s.tick 1).toNat % 2 ^ 32,
      get := true, len := 4 * ((Config.freeWordAt s.tick 4).toNat % 262144 + 1), bytes := [], pz := [], more := false, late := false,
      st := .sent }
  { s.next with arrs := s.arrs ++ [a], nextId := s.nextId + 1 }

end Machine
end Sys2Proof
end

