-- ==== Sys2Proof/Machine/Kv.lean ====
section
/-! DEFINITION. Class M: KV pages, the requests to the sequence table, attention operations and the strike queue
(15 R361–R391). FREE is what the pool's frames leave over (Table 15.3). A node of the prefix tree is in use while a path holds it
(R366). -/

namespace Sys2Proof
namespace Machine
open Host

/-! ## Pages and the pool (R361–R368) -/

/-- The address of KV page p (R362). -/
def kvAddr (p : Nat) : Nat := kvBase + p * 65536

/-- The record that describes a page at an address, held at P planes (R361). -/
def pageRec (a planes : Nat) : PlaneRec :=
  { exp := a, sign := a + 0x800, mant := a + 0x1800, stride := 0x1000, stripes := 64, p := planes, dem := true }

/-- The record that describes page p, held at P planes (R361). -/
def kvRec (p planes : Nat) : PlaneRec := pageRec (kvAddr p) planes

/-- Every sequence context in use. -/
def State.seqList (s : State) : List (Nat × Seq) := s.seqs.filterMap fun (n, q) => q.map fun q => (n, q)

/-- Changes a sequence context. -/
def State.onSeq (s : State) (n : Nat) (f : Seq → Seq) : State :=
  match s.seq n with
  | some q => { s with seqs := assocSet none s.seqs n (some (f q)) }
  | none => s

/-- The pages a sequence names, with repetition. -/
def Seq.refs (q : Seq) : List Nat := q.pages.flatMap fun l => l.filterMap id

/-- A page's reference count (R366). -/
def State.pageCount (s : State) (p : Nat) : Nat := (s.seqList.map fun (_, q) => (q.refs.filter (· == p)).length).sum

/-- Pages that attention operations hold (R381). -/
def State.heldPages (s : State) : List Nat :=
  s.ops.flatMap fun o => match o.kind with | .attn a => a.pages | _ => []

/-- Pages in use: named by a page list or held. -/
def State.usedPages (s : State) : List Nat := ((s.seqList.flatMap fun (_, q) => q.refs) ++ s.heldPages).eraseDups

/-- KVPOOL.FREE (Table 15.3): frames that hold no page and are not spare; an offloaded page holds none (R390). -/
def State.kvFree (s : State) : Nat :=
  s.kvTotal - ((s.usedPages.filter fun p => !s.isOff p).length + (s.seqList.map fun (_, q) => q.spare).sum)

/-- KVPOL's fields (Table 15.4). -/
def State.kvpol (s : State) : Nat := (assocGet 0 s.mregs 0x303).toNat
def State.kvRes (s : State) : Nat := s.kvpol % 2 ^ 22
def State.kvLow (s : State) : Nat := s.kvpol / 2 ^ 22 % 2 ^ 22
def State.kvMinp (s : State) : Nat := s.kvpol / 2 ^ 44 % 16

/-- A page number that no page in use has; which one is hardware's. -/
def State.newPage (s : State) : Nat × State :=
  let used := s.usedPages ++ s.kvOff.map (·.page)
  let c := s.choose (2 ^ 22)
  (((List.range (used.length + 1)).map fun k => (c + k) % 2 ^ 22).find? (fun p => !used.contains p) |>.getD 0, s.next)

/-- Drops the pairs of a map whose keys lie in a range. -/
def dropRange {α : Type} (l : List (Nat × α)) (a n : Nat) : List (Nat × α) := l.filter fun (k, _) => !(decide (a ≤ k) && decide (k < a + n))

/-- Zeroes a range of a memory, with its poison; the range is made of whole units. -/
def Mem.zero (m : Mem) (a n : Nat) : Mem :=
  let m := { m with bytes := dropRange m.bytes a n, pz := dropRange m.pz (a / 32) (n / 32) }
  if Config.unlistedByte = 0 then m else { m with bytes := memPut m.bytes a (List.replicate n 0) }

/-- The pairs of a map whose keys lie in a range. -/
def within {α : Type} (l : List (Nat × α)) (a n : Nat) : List (Nat × α) := l.filter fun (k, _) => decide (a ≤ k) && decide (k < a + n)

/-- Copies the page at an address of a memory over the one at b, poison included (R367, R390). -/
def Mem.copyPage (m src : Mem) (a b : Nat) : Mem :=
  let m := m.zero b 65536
  { bytes := (within (α := Byte) src.bytes a 65536).foldl (fun l (k, v) => memSet l (k - a + b) v) m.bytes
    pz := (within src.pz (a / 32) 2048).foldl (fun l (u, v) => assocSet false l (u - a / 32 + b / 32) v) m.pz }

/-- The units of the page at an address that hold anything. -/
def Mem.pageUnits (m : Mem) (a : Nat) : List Nat :=
  ((within (α := Byte) m.bytes a 65536).map (fun x : Nat × Byte => x.1 / 32) ++ (within m.pz (a / 32) 2048).map fun x : Nat × Bool => x.1).eraseDups

/-- The memory that holds a page, and its address there: HBM4, or the backing area for an offloaded page (R390). -/
def State.pageAt (s : State) (p : Nat) : Mem × Nat :=
  match s.kvOff.find? (·.page == p) with
  | some x => (s.host, x.addr)
  | none => (s.hbm, kvAddr p)

/-- Copies an offloaded page back from its slot. -/
def State.pageIn (s : State) (p : Nat) : State :=
  match s.kvOff.find? (·.page == p) with
  | some x => { s with hbm := s.hbm.copyPage s.host x.addr (kvAddr p) }
  | none => s

/-- Copies an offloaded page out to its slot; its frame holds it no longer. -/
def State.pageOut (s : State) (p : Nat) : State :=
  match s.kvOff.find? (·.page == p) with
  | some x => { s with host := s.host.copyPage s.hbm (kvAddr p) x.addr, hbm := s.hbm.zero (kvAddr p) 65536 }
  | none => s

/-- The page of a stream's block in a sequence. -/
def Seq.page (q : Seq) (stream b : Nat) : Option Nat := (q.pages.getD stream []).getD b none

/-- Sets the page of a stream's block. -/
def Seq.setPage (q : Seq) (stream b p : Nat) : Seq :=
  { q with pages := q.pages.modify stream fun l =>
      let l := l ++ List.replicate (b + 1 - l.length) none
      l.set b (some p) }

/-- A cut to length n (R368, R377): lengths and marks fall, and references past the cut go. -/
def Seq.cut (q : Seq) (n : Nat) : Seq :=
  { q with lc := Nat.min q.lc n, wm := q.wm.map (Nat.min n), pages := q.pages.map fun l => l.take ((n + 63) / 64) }

/-- An eviction (R390): the flag is set, every reference dropped, and the spare frames returned; LC and the marks stay. -/
def Seq.evict (q : Seq) : Seq := { q with evicted := true, spare := 0, pages := q.pages.map fun _ => [] }

/-! ## Keys and common statuses (R365, R371) -/

/-- A key's fields (Table 15.5). -/
structure KvKey where
  pos : Nat
  h : Nat
  stream : Nat
  seq : Nat
  mbz : Nat
deriving DecidableEq, Repr

/-- The fields of a key. -/
def kvKey (k : Word) : KvKey :=
  let v := k.toNat
  { pos := field v 32 20, h := field v 28 1, stream := field v 16 12, seq := field v 0 16, mbz := field v 52 12 + field v 29 3 }

/-- A sequence of an ASID that is not evicted, or status 3 or 6 (Table 15.7). -/
def State.seqFor (s : State) (asid n : Nat) : Nat × Seq :=
  match s.seq n with
  | none => (3, default)
  | some q => if q.asid ≠ asid then (3, default) else if q.evicted then (6, q) else (0, q)

/-- The number of streams NS. -/
def Seq.ns (q : Seq) : Nat := q.nl * q.np

/-! ## Requests (R373–R377) -/

/-- The greatest P_blk of a page's exponent words (R373). -/
def State.pagePl (s : State) (p : Nat) : Nat :=
  (words16 ((s.pageAt p).1.read (s.pageAt p).2 2048)).foldl (fun m w => Nat.max m (pblk w)) 0

/-- KVMAP's result (R373). -/
def State.kvmapVal (s : State) (asid : Nat) (key : Word) : Word :=
  let k := kvKey key
  let st (n : Nat) : Word := BitVec.ofNat 64 (n * 2 ^ 32)
  match s.seqFor asid k.seq with
  | (0, q) =>
    if k.mbz ≠ 0 ∨ k.h ≠ 0 ∨ q.ns ≤ k.stream ∨ q.wm.getD k.stream 0 ≤ k.pos then st 4
    else match q.page k.stream (k.pos / 64) with
      | some p => BitVec.ofNat 64 (p + k.pos % 64 * 2 ^ 22 + s.pagePl p * 2 ^ 28)
      | none => st 4
  | (n, _) => st n

/-- KVALLOC (R374): the lowest status that applies (R371); an evicted sequence answers 6. -/
def State.kvalloc (s : State) (asid : Nat) (a : W32) (rsv : Bool) : Nat × State :=
  let n := a.toNat / 65536
  let q := a.toNat % 65536
  let st := (s.seqFor asid q).1
  if st = 6 then (6, s)
  else if rsv = false ∧ s.kvFree < n + s.kvRes then (1, s)
  else if s.kvFree < n then (2, s)
  else if st ≠ 0 then (st, s)
  else if n = 0 then (4, s)
  else (0, s.onSeq q fun q => { q with spare := q.spare + n })

/-- KVFREE (R374). -/
def State.kvfree (s : State) (asid : Nat) (a : W32) : Nat × State :=
  let n := a.toNat / 65536
  let q := a.toNat % 65536
  match s.seqFor asid q with
  | (0, _) => (0, s.onSeq q fun q => { q with spare := if n = 0 then 0 else q.spare - n })
  | (st, _) => (st, s)

/-- The tree's nodes in use (R366): those that some path holds. -/
def State.nodes (s : State) : List Nat := (s.seqList.flatMap fun (_, q) => q.path.map (·.1)).eraseDups

/-- The path of a fork at length n (R366): the source's nodes that cover positions below n, and at most three new ones, at least one
where nothing is shared. How many, and where they start, is hardware's choice. -/
def State.forkPath (s : State) (id : Nat) (src : List (Nat × Nat)) (n : Nat) : List (Nat × Nat) :=
  let shared := src.filter fun x => decide (x.2 < n)
  let new := (List.range (if shared = [] then 1 + s.choose 3 else s.choose 4)).map fun k =>
    (4 * id + k, if shared = [] ∧ k = 0 then 0 else (Config.freeWordAt s.tick k).toNat % (n + 1))
  new.reverse ++ shared

/-- KVFORK (R375), with its checks in the order stated. -/
def State.kvfork (s : State) (id asid : Nat) (a n : W32) : Nat × State :=
  let src := a.toNat % 65536
  let dst := a.toNat / 65536
  let (ss, qs) := s.seqFor asid src
  let (sd, qd) := s.seqFor asid dst
  if ss = 3 ∨ sd = 3 then (3, s)
  else if ss = 6 ∨ sd = 6 then (6, s)
  else if src = dst then (7, s)
  else if qs.nl ≠ qd.nl ∨ qs.np ≠ qd.np ∨ qs.lc < n.toNat then (4, s)
  else if qd.lc ≠ 0 ∨ (qd.wm.any (· != 0)) = true ∨ qd.refs ≠ [] then (7, s)
  else
    let path := s.forkPath id qs.path n.toNat
    let s := s.next
    if 256 < path.length ∨ 262144 < (s.nodes ++ path.map (·.1)).eraseDups.length then (5, s)
    else (0, s.onSeq dst fun q =>
      { q with lc := n.toNat, wm := q.wm.map fun _ => n.toNat, pages := qs.pages.map (·.take ((n.toNat + 63) / 64)), path })

/-- The sixteen blocks of a row from 512 BF16 values (R376), with zeros in the page's other planes (R134). -/
def kvRowStores (p planes row : Nat) (vs : List Fp) : List (Nat × List Byte) :=
  ((List.range 16).flatMap fun j =>
    planeStores (kvRec p planes) (row * 512 + j * 32) planes (((vs.drop (32 * j)).take 32).map planeInput)) ++
  (List.range' (planes + 1) (14 - planes)).map fun k => ((kvRec p 14).planeAt row 0 k, List.replicate 64 0)

/-- Who stores to KV pages: the page's home slice, for a core; for the phase rules the stores are strong, and none of them is a thread's
own (R370). -/
def kvWho (grid : Option Nat) (core : Nat) : Who := { grid, core, thread := none, strong := true, chain := 0 }

/-- Stores pieces of a KV page, where it lies: whole units where the pieces cover them, and else whole 4-byte words, so that a load
finds each word as it was at the start of the phase or as one write left it (R143, R370). -/
def State.kvStore (s : State) (w : Who) (asid p : Nat) (l : List (Nat × List Byte)) : State :=
  let s := s.pageIn p
  let m : Mem := { s.hbm with bytes := l.foldl (fun m (a, bs) => memPut m a bs) s.hbm.bytes }
  let ws := (l.flatMap fun (a, bs) => List.range' (a / 4) ((a + bs.length + 3) / 4 - a / 4)).eraseDups
  let put (s : State) (a n : Nat) : State := s.storeGlob w asid a a (m.read a n) false
  ((ws.map (· / 8)).eraseDups.foldl (fun s u =>
    let mine := ws.filter fun x => x / 8 == u
    if mine.length = 8 then put s (32 * u) 32 else mine.foldl (fun s x => put s (4 * x) 4) s) s).pageOut p

/-- Page p takes the contents that a memory gives it, unit by unit where they differ (R367, R370, R376). -/
def State.kvFill (s : State) (w : Who) (asid p : Nat) (m : Mem) : State :=
  let us := (s.hbm.pageUnits (kvAddr p) ++ m.pageUnits (kvAddr p)).eraseDups.filter fun u =>
    s.hbm.read (32 * u) 32 != m.read (32 * u) 32 || s.hbm.unitPz u != m.unitPz u
  us.foldl (fun s u => s.storeGlob w asid (32 * u) (32 * u) (m.read (32 * u) 32) (m.unitPz u)) s

/-- The page that an append writes: the block's own, a zeroed new one, or a copy of a shared one (R367, R376); none without a
spare frame. -/
def State.kvTarget (s : State) (w : Who) (n : Nat) (q : Seq) (stream b : Nat) : Option Nat × State :=
  let fresh (s : State) (f : Mem → Nat → Mem) : Option Nat × State :=
    if q.spare = 0 then (none, s)
    else
      let (p, s) := s.newPage
      (some p, (s.kvFill w q.asid p (f s.hbm p)).onSeq n fun q => { (q.setPage stream b p) with spare := q.spare - 1 })
  match q.page stream b with
  | none => fresh s fun m p => m.zero (kvAddr p) 65536
  | some p =>
    if s.pageCount p ≤ 1 then (some p, s) else
      let (src, a) := s.pageAt p
      fresh s fun m x => m.copyPage src a (kvAddr x)

/-- KVAPP (R376). -/
def State.kvapp (s : State) (r : SeqReq) (key : Word) (src : List Byte) : Nat × State :=
  let k := kvKey key
  match s.seqFor r.asid k.seq with
  | (0, q) =>
    let wm := q.wm.getD k.stream 0
    if k.mbz ≠ 0 ∨ k.h ≠ 0 ∨ q.ns ≤ k.stream ∨ k.pos < q.lc ∨ wm < k.pos ∨ q.lc + 256 ≤ k.pos then (4, s)
    else match s.kvTarget (kvWho (some r.grid) (r.part / 4)) k.seq q k.stream (k.pos / 64) with
      | (none, s) => (2, s)
      | (some p, s) =>
        let vs := (words16 src).map bf16.decode
        let s := s.kvStore (kvWho (some r.grid) (r.part / 4)) r.asid p (kvRowStores p q.pkv (k.pos % 64) vs)
        let s := s.onSeq k.seq fun q => { q with wm := q.wm.modify k.stream (Nat.max · (k.pos + 1)) }
        (if vs.any fun v => !v.isFin then 8 else 0, s)
  | (st, _) => (st, s)

/-- KVCOMMIT (R377). -/
def State.kvcommit (s : State) (asid : Nat) (a n : W32) : Nat × State :=
  match s.seqFor asid (a.toNat % 65536) with
  | (0, q) =>
    if a.toNat / 65536 ≠ 0 ∨ n.toNat < q.lc ∨ (q.wm.any (· < n.toNat)) = true then (4, s)
    else (0, s.onSeq (a.toNat % 65536) fun q => { q with lc := n.toNat })
  | (st, _) => (st, s)

/-- KVTRIM (R377); with n = 0 it clears an evicted sequence's flag (R371). -/
def State.kvtrim (s : State) (asid : Nat) (a n : W32) : Nat × State :=
  let q := a.toNat % 65536
  match s.seqFor asid q with
  | (0, _) => if a.toNat / 65536 ≠ 0 then (4, s) else (0, s.onSeq q (·.cut n.toNat))
  | (6, _) =>
    if n ≠ 0 then (6, s)
    else if a.toNat / 65536 ≠ 0 then (4, s)
    else (0, s.onSeq q fun q => { (q.cut 0) with evicted := false })
  | (st, _) => (st, s)

/-- Performs a class M request: the value of its destination. -/
def State.kvPerform (s : State) (r : SeqReq) : Word × State :=
  let st (x : Nat × State) : Word × State := (BitVec.ofNat 64 x.1, x.2)
  match r.kind with
  | .kvmap key => (s.kvmapVal r.asid key, s)
  | .kvalloc a rsv => st (s.kvalloc r.asid a rsv)
  | .kvfree a => st (s.kvfree r.asid a)
  | .kvfork a n => st (s.kvfork r.id r.asid a n)
  | .kvapp key src => st (s.kvapp r key src)
  | .kvcommit a n => st (s.kvcommit r.asid a n)
  | .kvtrim a n => st (s.kvtrim r.asid a n)
  | _ => (0, s)

/-! ## Issuing requests (R369) -/

/-- A lane's request joins the queue; its status lands in the destination when it is performed. -/
def State.request (s : State) (l : Nat) (d : Operand) (kind : ReqKind) : State :=
  let th := s.lt l
  let (p, s) := s.reserve l d
  let r : SeqReq :=
    { id := s.nextId, chain := s.issue.runPc, walker := false, entry := none, refused := false, begun := false, thread := s.ig.t0 + l, part := s.unit, grid := s.gridOfGroup s.issue.grp, asid := s.iasid, pend := p,
      phase := th.passed, gap := th.inGap, tag := th.dtag, ord := s.nextId, kind }
  { s with reqs := s.reqs ++ [r], nextId := s.nextId + 1 }

/-- KVMAP (R373). -/
def execKvmap (g : Guard) (d key : Operand) (s : State) : Outcome State Fault Refusal :=
  .next (s.lanesOk (.kvmap g d key) offMem fun s l => s.request l d (.kvmap (s.src l key 64)))

/-- A 32-bit operand. -/
def State.src32 (s : State) (l : Nat) (o : Operand) : W32 := (s.src l o 32).setWidth 32

/-- KVALLOC (R374). -/
def execKvalloc (g : Guard) (d a : Operand) (rsv : Bool) (s : State) : Outcome State Fault Refusal :=
  .next (s.lanesOk (.kvalloc g d a rsv) offMem fun s l => s.request l d (.kvalloc (s.src32 l a) rsv))

/-- KVFREE (R374). -/
def execKvfree (g : Guard) (d a : Operand) (s : State) : Outcome State Fault Refusal :=
  .next (s.lanesOk (.kvfree g d a) offMem fun s l => s.request l d (.kvfree (s.src32 l a)))

/-- KVFORK (R375). -/
def execKvfork (g : Guard) (d a n : Operand) (s : State) : Outcome State Fault Refusal :=
  .next (s.lanesOk (.kvfork g d a n) offMem fun s l => s.request l d (.kvfork (s.src32 l a) (s.src32 l n)))

/-- KVCOMMIT (R377). -/
def execKvcommit (g : Guard) (d a n : Operand) (s : State) : Outcome State Fault Refusal :=
  .next (s.lanesOk (.kvcommit g d a n) offMem fun s l => s.request l d (.kvcommit (s.src32 l a) (s.src32 l n)))

/-- KVTRIM (R377). -/
def execKvtrim (g : Guard) (d a n : Operand) (s : State) : Outcome State Fault Refusal :=
  .next (s.lanesOk (.kvtrim g d a n) offMem fun s l => s.request l d (.kvtrim (s.src32 l a) (s.src32 l n)))

/-- KVAPP (R376): its row is read at issue. -/
def execKvapp (g : Guard) (d key src : Operand) (s : State) : Outcome State Fault Refusal :=
  .next (s.lanes (.kvapp g d key src) offMem fun s l =>
    let o := (s.src l src 32).toNat
    if o % 4 ≠ 0 then .fault 0x02 0
    else if !s.inSpace .core o 1024 then .fault 0x08 (permInfo 1 o)
    else if s.ownPending (s.ig.t0 + l) .core s.ig.team o 1024 then .stall none
    else match s.lockFault .core o 1024 false with
      | some i => .fault 0x09 i
      | none => match s.corePoison s.ig.team o 1024 with
        | some i => .fault 0x0B i
        | none => .ok (s.request l d (.kvapp (s.src l key 64) ((s.team s.ig.team).scratch.read o 1024))))

/-! ## Attention (R378–R386) -/

/-- The status that the sequence table gives an attention operation (R379 step 3), with the sequence. -/
def State.attnSt (s : State) (asid : Nat) (key : Word) (n : Nat) : Nat × Seq :=
  let k := kvKey key
  let (st, q) := s.seqFor asid k.seq
  (if st ≠ 0 then st else if k.mbz ≠ 0 ∨ k.pos ≠ 0 ∨ q.ns ≤ k.stream ∨ q.wm.getD k.stream 0 < n then 4 else 0, q)

/-- Is it known at issue that the table turns an attention operation away: it has no request of the partition before it? -/
def State.attnOut (s : State) (key : Word) (n : Nat) : Bool :=
  decide ((s.attnSt s.iasid key n).1 ≠ 0) && s.reqs.all fun r => r.part != s.unit

/-- The operand and descriptor checks of ATTN (R379 steps 1 and 2), and the operation. The descriptor and an accepted operation's query
are consumed in place (R145), and a query in a locked destination stalls (R253). -/
def State.attnCheck (s : State) (l : Nat) (key : Word) (off : Nat) : LaneRes ⊕ AttnOp :=
  let fit (a n : Nat) : Bool := s.inSpace .core a n
  if off % 64 ≠ 0 then .inl (.fault 0x02 0)
  else if !fit off 64 then .inl (.fault 0x08 (permInfo 1 off))
  else if s.ownPending (s.ig.t0 + l) .core s.ig.team off 64 then .inl (.stall none)
  else match s.corePoison s.ig.team off 64 with
  | some i => .inl (.fault 0x0B i)
  | none =>
    let m := (s.team s.ig.team).scratch
    let v := leNat (m.read off 64)
    let qoff := field v 0 32
    let ooff := field v 32 32
    let n := field v 64 20
    let mbz := field v 84 12 + field v 166 26 + field v 212 44 + field v 260 60 + field v 377 135
    if mbz ≠ 0 ∨ field v 160 2 = 3 ∨ n = 0 ∨ qoff % 4 ≠ 0 ∨ ooff % 8 ≠ 0 ∨ 14 < field v 162 4 then .inl (.fault 0x02 0)
    else if !fit qoff 256 then .inl (.fault 0x08 (permInfo 1 qoff))
    else if !fit ooff 520 then .inl (.fault 0x08 (permInfo 1 ooff))
    else if s.ownPending (s.ig.t0 + l) .core s.ig.team qoff 256 then .inl (.stall none)
    else if !s.attnOut key n && (s.lockFault .core qoff 256 false).isSome then .inl (.stall none)
    else match if s.attnOut key n then none else s.corePoison s.ig.team qoff 256 with
      | some i => .inl (.fault 0x0B i)
      | none =>
        .inr { desc := off, out := ooff, key, n, mode := field v 160 2, kh := field v 162 4, thr := BitVec.ofNat 32 (field v 128 32),
               scale := BitVec.ofNat 32 (field v 96 32),
               q := (words16 (m.read qoff 256)).map fun w => BitVec.ofNat 32 (w * 65536),
               pend := 0, pages := [], toks := [], accepted := false }

/-- ATTN (R379): descriptor and query are read at issue; the lane waits for the locks and its place at the table. -/
def execAttn (g : Guard) (d key desc : Operand) (s : State) : Outcome State Fault Refusal :=
  .next (s.lanes (.attn g d key desc) offMem fun s l =>
    match s.attnCheck l (s.src l key 64) (s.src l desc 32).toNat with
    | .inl r => r
    | .inr a =>
      let (p, s) := s.reserve l d
      .ok (s.startOp l [l] (.attn { a with pend := p })
        [(true, .core, s.ig.team, a.desc, 64), (true, .core, s.ig.team, a.out, 520)]))

/-- Changes an attention descriptor. -/
def State.onDesc (s : State) (team off : Nat) (f : Nat → Nat) : State :=
  s.onMem .core team fun m => m.write off (natLe 64 (f (leNat (m.read off 64)))) false

/-- A block of a page as it stands. -/
def State.snapBlk (s : State) (p row j : Nat) : SnapBlk :=
  let (m, a) := s.pageAt p
  let r := pageRec a 14
  let pa (k : Nat) : Nat := r.planeAt row j (k + 1)
  { page := p, row, blk := j, word := leNat (m.read (r.expAt row j) 2), sign := leNat (m.read (r.signAt row j) 4),
    planes := (List.range 14).map fun k => leNat (m.read (pa k) 4),
    pz := m.pzIn (r.expAt row j) 2 :: m.pzIn (r.signAt row j) 4 :: (List.range 14).map fun k => m.pzIn (pa k) 4 }

/-- The table accepts or turns away an ATTN that has its locks (R379). -/
def State.attnAccept (s : State) (o : EngOp) (a : AttnOp) : State :=
  let k := kvKey a.key
  let (st, q) := s.attnSt o.asid a.key a.n
  let s := s.landPend o.thread a.pend (BitVec.ofNat 64 st)
  if st ≠ 0 then s.endOp o.id
  else
    let ps := (List.range ((a.n + 63) / 64)).map fun b => (q.page k.stream b).getD 0
    let tok (t : Nat) : List SnapBlk :=
      ((List.range' (4 * k.h) 4) ++ (List.range' (8 + 4 * k.h) 4)).map fun j => s.snapBlk (ps.getD (t / 64) 0) (t % 64) j
    let a := { a with pages := ps, toks := (List.range a.n).map tok, accepted := true }
    (s.onDesc o.team a.desc fun v => setField (setField v 256 4 1) 192 20 0).onOp o.id fun o =>
      { o with st := .run, kind := .attn a, tag := BitVec.ofNat 64 (a.n - 1) }

/-- FP32 operations of the attention units (R380). -/
def fMul (a b : W32) : W32 := (deliver .rne false (fpMul (fpIn false a) (fpIn false b)).1).1
def fSub (a b : W32) : W32 := (deliver .rne false (fpAdd .rne (fpIn false a) (fpIn false b).negate).1).1
def fExp (x : W32) : W32 := (fpExp2 false (fpIn false (fMul x 0x3FB8AA3B))).1

/-- A block read to h planes: the held values, or the address of its poison and its kind (R144). -/
def SnapBlk.read (b : SnapBlk) (h : Nat) : List Fp ⊕ (Nat × Nat) :=
  let r := kvRec b.page 14
  let unit (a : Nat) : Nat := a / 32 * 32
  if b.pz.getD 0 false then .inr (0, unit (r.expAt b.row b.blk))
  else if planeBad b.word 14 then .inr (1, r.expAt b.row b.blk)
  else if b.pz.getD 1 false then .inr (0, unit (r.signAt b.row b.blk))
  else
    let n := Nat.min h (pblk b.word)
    match (List.range n).find? fun k => b.pz.getD (k + 2) false with
    | some k => .inr (0, unit (r.planeAt b.row b.blk (k + 1)))
    | none =>
      let p : PlaneBlk := { word := b.word, sign := b.sign, planes := b.planes.take n }
      .inl ((List.range 32).map p.value)

/-- The values of several blocks read to h planes. -/
def readBlks (h : Nat) : List SnapBlk → List Fp ⊕ (Nat × Nat)
  | [] => .inl []
  | b :: r => match b.read h with
    | .inr e => .inr e
    | .inl vs => match readBlks h r with
      | .inl ws => .inl (vs ++ ws)
      | .inr e => .inr e

/-- dot(t, h) (R380), exact. -/
def attnDot (q : List W32) (ks : List Fp) : Fp := exactSum (products (q.map (fpIn false)) ks)

/-- |x|. -/
def Fp.mag : Fp → Fp
  | .nan s => .nan s
  | .inf _ => .inf false
  | .fin _ m e => .fin false m e

/-- ρ_t (R381). -/
def attnRho (scale : W32) (q : List W32) (ks : List SnapBlk) : Fp :=
  let part (j : Nat) (b : SnapBlk) : Fp :=
    if pblk b.word ≤ 1 then .fin false 0 0
    else (fpMul (.fin false 1 ((b.word % 256 : Nat) - 128 : Int)) (exactSum (((q.drop (32 * j)).take 32).map fun x => (fpIn false x).mag))).1
  (fpMul (fpIn false scale).mag (exactSum ((List.range ks.length).map fun j => part j (ks.getD j default)))).1

/-- Does a token survive screening (R381)? -/
def attnSurvives (a : AttnOp) (ks : List SnapBlk) (k1 : List Fp) : Bool :=
  let c := (fpMul (attnDot a.q k1) (fpIn false a.scale)).1
  let x := if a.mode = 1 then (fpAdd .rne c (attnRho a.scale a.q ks)).1 else c
  let t := fpIn false a.thr
  x.isNan || t.isNan || !fpLt x t

/-- A token's score and values, whether it was rejected, or the poison it met. -/
inductive TokRes
  | score (x : W32) (v : List Fp)
  | rejected
  | poison (kind a : Nat)
deriving DecidableEq, Repr

/-- One token of an attention operation (R380, R381). -/
def attnTok (a : AttnOp) (bs : List SnapBlk) : TokRes :=
  let ks := bs.take 4
  let full : TokRes :=
    match readBlks (if a.kh = 0 then 15 else a.kh) ks, readBlks 15 (bs.drop 4) with
    | .inr (k, x), _ => .poison k x
    | _, .inr (k, x) => .poison k x
    | .inl kv, .inl vv => .score (fMul (deliver .rne false (attnDot a.q kv)).1 a.scale) vv
  if a.mode = 0 then full
  else match readBlks 1 ks with
    | .inr (k, x) => .poison k x
    | .inl k1 => if attnSurvives a ks k1 then full else .rejected

/-- A triple m, l, o with whether it holds a token (R382). -/
structure Triple where
  has : Bool
  m : W32
  l : W32
  o : List W32
deriving DecidableEq, Repr

/-- The triple of one page's included tokens (R382). -/
def pageTriple (ts : List (W32 × List Fp)) : Triple :=
  match ts with
  | [] => { has := false, m := 0xFF800000, l := 0, o := List.replicate 128 0 }
  | (x, _) :: r =>
    let m := r.foldl (fun m t => fpMinMaxBits true m t.1) x
    ts.foldl (fun y (x, v) =>
      let w := fExp (fSub x m)
      { y with l := fpAddRne y.l w,
               o := (y.o.zip v).map fun (o, v) => fpAddRne o (deliver .rne false (fpMul (fpIn false w) v).1).1 })
      { has := true, m, l := 0, o := List.replicate 128 0 }

/-- Merges two triples (R383). -/
def mergeTriple (a b : Triple) : Triple :=
  if !a.has then b else if !b.has then a
  else
    let m := fpMinMaxBits true a.m b.m
    let α := fExp (fSub a.m m)
    let β := fExp (fSub b.m m)
    let f (x y : W32) : W32 := fpAddRne (fMul x α) (fMul y β)
    { has := true, m, l := f a.l b.l, o := (a.o.zip b.o).map fun (x, y) => f x y }

/-- One level of the merge tree (R383). -/
def mergePairs : List Triple → List Triple
  | a :: b :: r => mergeTriple a b :: mergePairs r
  | r => r

/-- k levels of the merge tree. -/
def mergeTree : Nat → List Triple → List Triple
  | 0, l => l
  | k + 1, l => mergeTree k (mergePairs l)

/-- The result of an attention operation: the output's words and REJ, or the first poison met. -/
def attnResult (a : AttnOp) : (List W32 × Nat) ⊕ (Nat × Nat) :=
  let rs := a.toks.map (attnTok a)
  match rs.findSome? fun r => match r with | .poison k x => some (k, x) | _ => none with
  | some e => .inr e
  | none =>
    let page (b : Nat) : Triple := pageTriple (((rs.drop (64 * b)).take 64).filterMap fun r =>
      match r with | .score x v => some (x, v) | _ => none)
    let ts := (List.range a.pages.length).map page
    let t := (mergeTree (Nat.log2 ts.length + 1) ts).headD (pageTriple [])
    .inl (t.o ++ [t.m, t.l], (rs.filter (· == .rejected)).length)

/-- An attention operation ends: descriptor bits, then its locks and page references go (R384). -/
def State.attnEnd (s : State) (o : EngOp) (a : AttnOp) (f : Nat → Nat) : State :=
  (s.onDesc o.team a.desc fun v => setField (f v) 256 1 0).endOp o.id

/-- ATTN_COMPLETE (R384); an operation with an offloaded page stalls. -/
def execAttnComplete (id : Nat) (s : State) : Outcome State Fault Refusal :=
  .next (match s.opOf id with
    | some o => match o.kind with
      | .attn a =>
        if a.accepted = false ∨ (a.pages.any s.isOff) = true then s
        else match attnResult a with
          | .inl (ws, rej) =>
            let s := s.onMem .core o.team fun m => m.write a.out (ws.flatMap fun w => natLe 4 w.toNat) false
            s.attnEnd o a fun v => setField (setField v 257 1 1) 192 20 rej
          | .inr (k, x) => (s.opLog o (permInfo k x)).attnEnd o a fun v => setField (setField v 258 1 1) 320 57 x
      | _ => s
    | none => s)

/-- The checks of ATTNWAIT. -/
def State.attnBits (s : State) (team off : Nat) : Nat := leNat ((s.team team).scratch.read off 64)

/-- ATTNWAIT (R385). -/
def execAttnwait (g : Guard) (q : PredBit) (desc : Operand) (s : State) : Outcome State Fault Refusal :=
  .next (s.lanes (.attnwait g q desc) offMem fun s l =>
    let off := (s.src l desc 32).toNat
    if !s.inSpace .core off 64 then .fault 0x08 (permInfo 1 off)
    else if s.ownPending (s.ig.t0 + l) .core s.ig.team off 64 then .stall none
    else
      match s.corePoison s.ig.team off 64 with
      | some i => .fault 0x0B i
      | none =>
      let v := s.attnBits s.ig.team off
      if field v 256 1 = 0 then .ok (s.putPred l q (field v 257 1 = 1)) else .ok (s.waitLane l (.attn q off)))

/-! ## The strike queue (R387–R391) -/

/-- A block's planes demoted to h, none where it has no more; or the kind and address of the poisoned or malformed data that the demotion
meets, which leaves the block as it is (R144, R288): it reads the planes of a block that changes only, and no sign bytes. -/
def SnapBlk.rounded (b : SnapBlk) (h : Nat) : Option (List Nat) ⊕ (Nat × Nat) :=
  let r := kvRec b.page 14
  let unit (a : Nat) : Nat := a / 32 * 32
  if b.pz.getD 0 false then .inr (0, unit (r.expAt b.row b.blk))
  else if planeBad b.word 14 then .inr (1, r.expAt b.row b.blk)
  else if pblk b.word ≤ h then .inl none
  else match (List.range (pblk b.word)).find? fun k => b.pz.getD (k + 2) false with
    | some k => .inr (0, unit (r.planeAt b.row b.blk (k + 1)))
    | none => .inl (some (demotePlanes { word := b.word, sign := b.sign, planes := b.planes.take (pblk b.word) } h))

/-- The blocks of a page. -/
def State.pageBlks (s : State) (p : Nat) : List SnapBlk := (List.range 1024).map fun k => s.snapBlk p (k / 16) (k % 16)

/-- A page's blocks demoted to h planes (R288, R390): the writes. -/
def State.pageDemote (s : State) (p h : Nat) : List (Nat × List Byte) :=
  let r := kvRec p 14
  (s.pageBlks p).flatMap fun b =>
    match b.rounded h with
    | .inl (some ps) =>
      ((List.range h).map fun k => (r.planeAt b.row b.blk (k + 1), natLe 4 (ps.getD k 0))) ++
        [(r.expAt b.row b.blk, natLe 2 (b.word % 256 + 256 * h))]
    | _ => []

/-- The lowest address of the poisoned or malformed data that a page's demotion meets is logged once (R143; log entry 20). -/
def State.demoteLog (s : State) (p h : Nat) : State :=
  let met := (s.pageBlks p).filterMap fun b => match b.rounded h with | .inr x => some x | _ => none
  match met.foldl (fun (m : Option (Nat × Nat)) x => match m with | some y => if x.2 < y.2 then some x else m | none => some x) none with
  | some (k, a) => s.logEvent 1 0 511 0 (permInfo k a)
  | none => s

/-- What an attention operation holds of a block, demoted (R391). -/
def SnapBlk.demote (b : SnapBlk) (h : Nat) : SnapBlk :=
  match b.rounded h with
  | .inl (some ps) => { b with word := b.word % 256 + 256 * h, planes := ps ++ b.planes.drop h }
  | _ => b

/-- A demotion reaches attention operations that hold the page: each reads it wholly before or wholly after (R391). -/
def State.attnDemote (s : State) (p h : Nat) : State :=
  s.ops.foldl (fun s o =>
    match o.kind with
    | .attn a =>
      if a.pages.contains p then
        if s.choose 2 = 0 then s.next
        else s.next.onOp o.id fun o =>
          { o with kind := .attn { a with toks := a.toks.map (·.map fun b => if b.page = p then b.demote h else b) } }
      else s
    | _ => s) s

/-- The party that strike actions are made by. -/
def hardwareWho : Who := kvWho none 256

/-- Does a strike entry's target exist (R389)? -/
def State.strikeTarget (s : State) (e : Strike) : Bool :=
  if e.action = 3 then (match s.seq e.seq with | some q => !q.evicted | none => false)
  else s.usedPages.contains e.page && (e.action == 1 || !s.isOff e.page)

/-- May a strike entry take effect: its target is what it was (R389)? -/
def State.strikeAlive (s : State) (e : Strike) : Bool := !e.gone && s.strikeTarget e

/-- A free slot of the backing area, if there is one; which one is firmware's choice (R474). -/
def State.kvSlot (s : State) : Option Nat :=
  let c := s.choose s.regs.kvbCnt
  ((List.range (s.kvOff.length + 1)).map fun k => (c + k) % s.regs.kvbCnt).find? fun i =>
    decide (i < s.regs.kvbCnt) && !(s.kvOff.any fun x => x.slot == i)

/-- An offload (R390, R474): the page goes to a free slot, and its frame is free. -/
def State.offload (s : State) (p : Nat) : State :=
  match s.kvSlot with
  | some i => { s.next with kvOff := { page := p, slot := i, addr := s.regs.kvbAddr + 65536 * i } :: s.kvOff }.pageOut p
  | none => s

/-- Runs a strike entry's action (R390). -/
def State.strikeRun (s : State) (e : Strike) : State :=
  if e.action = 1 then ((s.demoteLog e.page e.h).kvStore hardwareWho 0 e.page (s.pageDemote e.page e.h)).attnDemote e.page e.h
  else if e.action = 2 then s.offload e.page
  else s.onSeq e.seq Seq.evict

/-- Pages that nothing uses any more give up their slots, and strike entries whose targets have gone are told apart from later
targets of the same number (R366, R389). -/
def State.kvTidy (s : State) : State :=
  if s.kvOff = [] ∧ s.strikes = [] then s
  else { s with
    kvOff := s.kvOff.filter fun x => s.usedPages.contains x.page
    strikes := s.strikes.map fun e => if s.strikeTarget e then e else { e with gone := true } }

/-- What hardware may propose next, in the order of R387: (action, page, sequence). -/
def State.proposals (s : State) : List (Nat × Nat × Nat) :=
  let named := (s.seqList.flatMap fun (_, q) => q.refs).eraseDups
  let free (a p q : Nat) : Bool := !(s.strikes.any fun e => e.action == a && (if a = 3 then e.seq == q else e.page == p))
  let big := (named.filter fun p => decide (s.kvMinp < s.pagePl p) && free 1 p 0 && !s.isOff p).map fun p => (1, p, 0)
  let low := (named.filter fun p => decide (s.pagePl p ≤ s.kvMinp) && free 2 p 0 && !s.isOff p).map fun p => (2, p, 0)
  let evs := (s.seqList.filter fun (n, q) => !q.evicted && free 3 0 n).map fun (n, _) => (3, 0, n)
  if big ≠ [] then big else if low ≠ [] then low else evs

/-- Frames that the queued entries would free together (R387, R390): those of the pages they offload, those of the pages that nothing
holds after their evictions, and the evicted sequences' spare frames. -/
def State.strikeFrees (s : State) : Nat :=
  let es := s.strikes.filter s.strikeAlive
  let offs := (es.filter (·.action == 2)).map (·.page)
  let gone := (es.filter (·.action == 3)).map (·.seq)
  let kept := ((s.seqList.filter fun (n, _) => !gone.contains n).flatMap fun (_, q) => q.refs) ++ s.heldPages
  (s.usedPages.filter fun p => !s.isOff p && (offs.contains p || !kept.contains p)).length +
    ((s.seqList.filter fun (n, _) => gone.contains n).map fun (_, q) => q.spare).sum

/-- Does hardware propose another entry (R387)? -/
def State.strikeWants (s : State) : Bool :=
  decide (s.kvFree < s.kvLow) && decide (s.kvFree + s.strikeFrees < s.kvLow) &&
    decide (s.strikes.length < 64) && s.proposals != []

/-- STRIKE_PROPOSE (R387): which page or sequence is hardware's choice. -/
def execStrikePropose (s : State) : Outcome State Fault Refusal :=
  .next (if s.strikeWants then
      let ps := s.proposals
      let (a, p, q) := ps.getD (s.choose ps.length) (0, 0, 0)
      let free := freeIdx 64 fun i => s.strikes.any fun e => e.entry == i
      let e : Strike := { entry := free.getD (s.next.choose free.length) 0, dl := s.kvpol / 2 ^ 48, seq := q, page := p,
                          h := if a = 1 then s.kvMinp else 0, action := a, st := 1, due := false, gone := false }
      { s.next.next with strikes := s.strikes ++ [e] }
    else s)

/-- STRIKE_DEADLINE (R389): a proposed entry's DL reaches 0. -/
def execStrikeDeadline (e : Nat) (s : State) : Outcome State Fault Refusal :=
  .next { s with strikes := s.strikes.map fun x => if x.entry = e ∧ x.st = 1 then { x with dl := 0, due := true } else x }

/-- The entry that runs next (R389). -/
def State.strikeNext (s : State) : Option Strike := s.strikes.find? fun e => e.st == 2 || e.due

/-- DL of the proposed entries counts down (R388); how far is open. -/
def State.countDl (s : State) : State :=
  { s.next with strikes := s.strikes.map fun x =>
      if x.st = 1 ∧ x.due = false then { x with dl := 1 + (Config.freeWordAt s.tick x.entry).toNat % Nat.max 1 x.dl } else x }

/-- STRIKE_ACTION_RUN (R389, R390): the entry that runs takes effect and becomes empty; with none running, the next one runs, or is
emptied without effect if its target no longer exists. -/
def execStrikeActionRun (s : State) : Outcome State Fault Refusal :=
  let drop (s : State) (e : Strike) : State := { s with strikes := s.strikes.filter fun x => x.entry != e.entry }
  .next (match s.strikes.find? (·.st == 3) with
    | some e =>
      drop (if s.strikeAlive e then (s.strikeRun e).logEvent 5 0 511 0 (BitVec.ofNat 64 (e.h * 256 + e.action * 16 + 3)) else s) e
    | none => match s.strikeNext with
      | some e =>
        if s.strikeAlive e then { s with strikes := s.strikes.map fun x => if x.entry = e.entry then { x with st := 3 } else x }
        else drop s e
      | none => s)

/-- Does a command reach the entry (R389)? -/
def State.strikeOk (s : State) (e : BitVec 6) : Bool := s.strikes.any fun x => x.entry == e.toNat && (x.st == 1 || x.st == 2)

/-- KVSQCMD op 1: confirm (Table 15.11). -/
def execKvsqcmdConfirm (e : BitVec 6) (s : State) : Outcome State Fault Refusal :=
  .next (if s.strikeOk e then
      { s.countDl with strikes := s.countDl.strikes.map fun x => if x.entry = e.toNat then { x with st := 2 } else x }
    else s)

/-- KVSQCMD op 2: veto empties the entry. -/
def execKvsqcmdVeto (e : BitVec 6) (s : State) : Outcome State Fault Refusal :=
  .next (if s.strikeOk e then { s with strikes := s.strikes.filter fun x => x.entry != e.toNat } else s)

/-- KVSQCMD op 3: the entry moves to the front. -/
def execKvsqcmdFront (e : BitVec 6) (s : State) : Outcome State Fault Refusal :=
  .next (if s.strikeOk e then
      { s with strikes := (s.strikes.filter fun x => x.entry == e.toNat) ++ s.strikes.filter fun x => x.entry != e.toNat }
    else s)

/-- KVSQCMD op 4: sets H of a demotion, 1–14. -/
def execKvsqcmdSetH (e : BitVec 6) (h : BitVec 4) (s : State) : Outcome State Fault Refusal :=
  .next (if s.strikeOk e ∧ h ≠ 0 ∧ h ≠ 15 then
      { s with strikes := s.strikes.map fun x => if x.entry = e.toNat ∧ x.action = 1 then { x with h := h.toNat } else x }
    else s)

end Machine
end Sys2Proof
end

