-- ==== Sys2Proof/Machine/Gen.lean ====
section
/-! DEFINITION. Class N: grammar contexts and stack nodes, the grammar image, masks and advances, checkpoints, SQUASH and its
event, draft tags, RNG (16 R392–R416), and the order of the requests of the sequence table and the walkers (R26, R369, R394). -/

namespace Sys2Proof
namespace Machine
open Host

/-! ## Stack nodes (R393) -/

/-- The pool's size (Table 16.1). -/
def nodeTotal : Nat := 4194304

/-- The nodes that contexts and checkpoints point at. -/
def Gctx.tops (g : Gctx) : List Nat := (g.cur.top :: g.cks.map fun c => c.bind (·.top)).filterMap id

/-- Keeps the nodes that are pointed at, from the youngest down: a node kept points at its parent. -/
def keepNodes : List (Nat × Option GNode) → List Nat → List (Nat × Option GNode) → List (Nat × Option GNode)
  | [], _, acc => acc
  | (k, n) :: r, need, acc =>
    if need.contains k then
      keepNodes r (match n with | some n => n.parent.toList ++ need | none => need) ((k, n) :: acc)
    else keepNodes r need acc

/-- Nodes whose count has fallen to 0 return to the pool (R393). -/
def State.pruneNodes (s : State) : State :=
  let need := (s.seqList.flatMap fun (_, q) => match q.g with | some g => g.tops | none => []).eraseDups
  { s with gnodes := keepNodes s.gnodes.reverse need [] }

/-- GRPOOL.FREE (Table 16.1). -/
def State.nodesFree (s : State) : Nat := nodeTotal - s.gnodes.length

/-- A node by its number. -/
def State.node (s : State) (k : Nat) : GNode := (assocGet none s.gnodes k).getD default

/-- The symbol on top of a stack; 0 when it is empty. -/
def State.topSym (s : State) (p : GPoint) : Nat := match p.top with | some k => (s.node k).sym | none => 0

/-- A push takes a free node; its number is above every node's in use. -/
def State.pushNode (s : State) (sym : Nat) (parent : Option Nat) : Nat × State :=
  let k := match s.gnodes.getLast? with | some (k, _) => k + 1 | none => 0
  (k, { s with gnodes := assocSet none s.gnodes k (some { sym, parent }) })

/-! ## Reading the image (R395–R399) -/

/-- Why a request does not go on: an untranslatable or forbidden address, or a status, with the DATA of an event entry. -/
inductive GErr
  | miss (va : Nat)
  | bad (va : Nat)
  | st (n : Nat)
  | stLog (n : Nat) (info : Word)
deriving DecidableEq, Repr

/-- A computation of a request that may end early. -/
abbrev GRes (α : Type) := Except GErr α × State

/-- Goes on with a computation's result. -/
def gthen {α β : Type} (x : GRes α) (f : α → State → GRes β) : GRes β :=
  match x with
  | (.ok a, s) => f a s
  | (.error e, s) => (.error e, s)

/-- The party that a request's accesses are made by: strong, at the home slices (R370, R399). -/
def SeqReq.who (r : SeqReq) : Who :=
  { grid := some r.grid, core := r.part / 4, thread := some r.thread, strong := true, chain := r.chain }

/-- Reads bytes of the image (R399). -/
def State.imgRead (s : State) (r : SeqReq) (a n : Nat) : GRes (List Byte) :=
  match s.gload r.who r.asid a n with
  | (.ok bs none, s) => (.ok bs, s)
  | (.ok _ (some u), s) => (.error (.stLog 9 (permInfo 0 u)), s)
  | (.miss va, s) => (.error (.miss va), s)
  | (.bad va, s) => (.error (.bad va), s)

/-- An image header (Table 16.2). -/
structure GImg where
  voc : Nat
  ns : Nat
  states : Nat
  bitmap : Nat
  trans : Nat
deriving DecidableEq, Repr

/-- The length B of an accept bitmap (R395). -/
def GImg.b (h : GImg) : Nat := 32 * ((h.voc + 255) / 256)

/-- A malformed header or entry at an address (R398). -/
def gBad {α : Type} (a : Nat) (s : State) : GRes α := (.error (.stLog 8 (permInfo 3 a)), s)

/-- Reads and checks the header (R395). -/
def State.imgHdr (s : State) (r : SeqReq) (img : Nat) : GRes GImg :=
  if img % 64 ≠ 0 ∨ 2 ^ 57 ≤ img then gBad img s
  else gthen (s.imgRead r img 64) fun bs s =>
    let v := leNat bs
    let h : GImg :=
      { voc := field v 0 19, ns := field v 32 21, states := field v 64 64, bitmap := field v 128 64, trans := field v 192 64 }
    if v / 2 ^ 256 ≠ 0 ∨ field v 19 13 ≠ 0 ∨ field v 53 11 ≠ 0 ∨ h.voc = 0 ∨ 262144 < h.voc ∨ h.ns = 0 ∨ 1048576 < h.ns ∨
        h.states % 32 ≠ 0 ∨ h.bitmap % 32 ≠ 0 ∨ h.trans % 16 ≠ 0 ∨ 2 ^ 57 ≤ h.states ∨ 2 ^ 57 ≤ h.bitmap ∨ 2 ^ 57 ≤ h.trans
    then gBad img s
    else (.ok h, s)

/-- A state entry (Table 16.3). -/
structure GState where
  acc : Nat
  indOff : Nat
  indN : Nat
  depOff : Nat
  depN : Nat
deriving DecidableEq, Repr

/-- Reads and checks a state entry (R396). -/
def State.imgState (s : State) (r : SeqReq) (h : GImg) (st : Nat) : GRes GState :=
  let a := h.states + 32 * st
  gthen (s.imgRead r a 32) fun bs s =>
    let v := leNat bs
    let e : GState :=
      { acc := field v 0 32, indOff := field v 96 32, indN := field v 128 32, depOff := field v 160 32, depN := field v 192 32 }
    if field v 32 64 ≠ 0 ∨ field v 224 32 ≠ 0 ∨ 262144 < e.indN ∨ 262144 < e.depN then gBad a s else (.ok e, s)

/-- A transition entry (Table 16.4). -/
structure GTrans where
  token : Nat
  next : Nat
  pop : Bool
  push : Bool
  topchk : Bool
  empty : Bool
  top : Nat
  sym : Nat
deriving DecidableEq, Repr

/-- Reads and checks entry k of a list (R397). -/
def State.imgTrans (s : State) (r : SeqReq) (h : GImg) (off k : Nat) (indep : Bool) : GRes GTrans :=
  let a := h.trans + 16 * (off + k)
  gthen (s.imgRead r a 16) fun bs s =>
    let v := leNat bs
    let e : GTrans :=
      { token := field v 0 18, next := field v 32 20, pop := field v 52 1 = 1, push := field v 53 1 = 1,
        topchk := field v 54 1 = 1, empty := field v 55 1 = 1, top := field v 64 16, sym := field v 80 16 }
    if field v 18 14 ≠ 0 ∨ field v 56 8 ≠ 0 ∨ field v 96 32 ≠ 0 ∨ h.voc ≤ e.token ∨ h.ns ≤ e.next ∨
        (e.empty && (e.topchk || e.pop)) = true ∨ (e.sym ≠ 0 ∧ e.push = false) ∨ (e.top ≠ 0 ∧ e.topchk = false) ∨
        (indep && (e.pop || e.topchk || e.empty)) = true
    then gBad a s
    else (.ok e, s)

/-- Does an entry match a stack (R398)? -/
def State.gMatch (s : State) (p : GPoint) (e : GTrans) : Bool :=
  (!e.empty || decide (p.depth = 0)) && (!e.topchk || (decide (0 < p.depth) && s.topSym p == e.top)) &&
    (!e.pop || decide (0 < p.depth))

/-! ## Masks and advances (R407, R408) -/

/-- The dependent entries k … k + n − 1 that match, added to a mask (R407). -/
def State.maskDeps (r : SeqReq) (h : GImg) (p : GPoint) (off : Nat) : Nat → Nat → Nat → State → GRes Nat
  | 0, _, m, s => (.ok m, s)
  | n + 1, k, m, s =>
    gthen (s.imgTrans r h off k false) fun e s =>
      State.maskDeps r h p off n (k + 1) (if s.gMatch p e then m ||| 2 ^ e.token else m) s

/-- The mask of a context's current state and stack (R407): B bytes. -/
def State.gMask (s : State) (r : SeqReq) (g : Gctx) : GRes (List Byte) :=
  gthen (s.imgHdr r g.img.toNat) fun h s =>
    gthen (s.imgState r h g.cur.state) fun e s =>
      gthen (s.imgRead r (h.bitmap + e.acc * h.b) h.b) fun bs s =>
        gthen (State.maskDeps r h g.cur e.depOff e.depN 0 (leNat bs) s) fun m s => (.ok (natLe h.b m), s)

/-- The entry of the independent list with a token, by binary search over [lo, hi) (R408). -/
def State.findInd (r : SeqReq) (h : GImg) (off tok : Nat) : Nat → Nat → Nat → State → GRes (Option GTrans)
  | 0, _, _, s => (.ok none, s)
  | n + 1, lo, hi, s =>
    if hi ≤ lo then (.ok none, s)
    else
      let mid := (lo + hi) / 2
      gthen (s.imgTrans r h off mid true) fun e s =>
        if e.token = tok then (.ok (some e), s)
        else if e.token < tok then State.findInd r h off tok n (mid + 1) hi s
        else State.findInd r h off tok n lo mid s

/-- The first dependent entry with a token that matches (R408). -/
def State.findDep (r : SeqReq) (h : GImg) (p : GPoint) (off tok : Nat) : Nat → Nat → State → GRes (Option GTrans)
  | 0, _, s => (.ok none, s)
  | n + 1, k, s =>
    gthen (s.imgTrans r h off k false) fun e s =>
      if e.token = tok ∧ s.gMatch p e = true then (.ok (some e), s) else State.findDep r h p off tok n (k + 1) s

/-- The transition of a token in a context (R408). -/
def State.gFind (s : State) (r : SeqReq) (h : GImg) (p : GPoint) (tok : Nat) : GRes (Option GTrans) :=
  gthen (s.imgState r h p.state) fun e s =>
    gthen (State.findInd r h e.indOff tok 32 0 e.indN s) fun x s =>
      match x with
      | some t => (.ok (some t), s)
      | none => State.findDep r h p e.depOff tok e.depN 0 s

/-- A sequence's grammar context changes. -/
def State.setG (s : State) (n : Nat) (g : Option Gctx) : State := (s.onSeq n fun q => { q with g }).pruneNodes

/-- The context takes a transition (R408). -/
def State.gStep (s : State) (n : Nat) (g : Gctx) (e : GTrans) : State :=
  let p := g.cur
  let top := if e.pop then (match p.top with | some k => (s.node k).parent | none => none) else p.top
  let d := p.depth - (if e.pop then 1 else 0) + (if e.push then 1 else 0)
  let (top, s) := if e.push then (let (k, s) := s.pushNode e.sym top; (some k, s)) else (top, s)
  s.setG n (some { g with cur := { state := e.next, top, depth := d, len := (p.len + 1) % 2 ^ 20 } })

/-! ## The requests (R406–R414) -/

/-- A sequence admitted in an ASID, or status 3 (Table 16.9). -/
def State.gSeq (s : State) (asid n : Nat) : GRes Seq :=
  match s.seq (n % 65536) with
  | some q => if q.asid = asid then (if n < 65536 then (.ok q, s) else (.error (.st 4), s)) else (.error (.st 3), s)
  | none => (.error (.st 3), s)

/-- A sequence's context, or status 5 when it is empty. -/
def State.gCtx (s : State) (asid n : Nat) : GRes Gctx :=
  gthen (s.gSeq asid n) fun q s => match q.g with | some g => (.ok g, s) | none => (.error (.st 5), s)

/-- GRINIT (R406). -/
def State.grinit (s : State) (r : SeqReq) (a img : Nat) : GRes Word :=
  let n := field a 0 16
  gthen (s.gSeq r.asid n) fun _ s =>
    if field a 56 8 ≠ 0 then (.error (.st 4), s)
    else gthen (s.imgHdr r img) fun h s =>
      if h.ns ≤ field a 16 20 then (.error (.st 4), s)
      else (.ok 0, s.setG n (some
        { img := BitVec.ofNat 64 img, cur := { state := field a 16 20, top := none, depth := 0, len := field a 36 20 },
          cks := List.replicate 32 none }))

/-- GRMASK (R407): the mask's bytes are performed, and its lock is released, with the status. -/
def State.grmask (s : State) (r : SeqReq) (seq off op : Nat) : GRes Word :=
  gthen (gthen (s.gCtx r.asid seq) fun g s => s.gMask r g) fun bs s =>
    match s.opOf op with
    | some o => (.ok 0, s.onMem .core o.team (·.write off bs false))
    | none => (.ok 0, s)

/-- GRADV (R408). -/
def State.gradv (s : State) (r : SeqReq) (a : Nat) : GRes Word :=
  let n := field a 0 16
  let tok := field a 16 18
  gthen (s.gSeq r.asid n) fun _ s =>
    if field a 34 30 ≠ 0 then (.error (.st 4), s)
    else gthen (s.gCtx r.asid n) fun g s => gthen (s.imgHdr r g.img.toNat) fun h s =>
      if h.voc ≤ tok then (.error (.st 4), s)
      else gthen (s.gFind r h g.cur tok) fun e s =>
        match e with
        | none => (.error (.st 1), s)
        | some e =>
          if 1024 + (if e.pop then 1 else 0) < g.cur.depth + (if e.push then 1 else 0) then (.error (.st 7), s)
          else if e.push = true ∧ s.nodesFree = 0 then (.error (.st 2), s)
          else (.ok 0, s.gStep n g e)

/-- A checkpoint of a context. -/
def Gctx.ck (g : Gctx) (c : Nat) : Option GPoint := g.cks.getD c none

/-- GRCKPT (R409): the checkpoints change. -/
def State.grckpt (s : State) (r : SeqReq) (seq : Nat) (f : Gctx → List (Option GPoint)) : GRes Word :=
  gthen (s.gCtx r.asid seq) fun g s => (.ok 0, s.setG (seq % 65536) (some { g with cks := f g }))

/-- GRROLL (R409). -/
def State.grroll (s : State) (r : SeqReq) (seq c : Nat) : GRes Word :=
  gthen (s.gCtx r.asid seq) fun g s =>
    match g.ck c with
    | some p => (.ok 0, s.setG (seq % 65536) (some { g with cur := p }))
    | none => (.error (.st 6), s)

/-- GRFORK (R410). -/
def State.grfork (s : State) (r : SeqReq) (a : Nat) : GRes Word :=
  gthen (s.gSeq r.asid (a % 65536)) fun q s => gthen (s.gSeq r.asid (a / 65536)) fun _ s =>
    if a % 65536 = a / 65536 then (.error (.st 4), s)
    else match q.g with
      | none => (.error (.st 5), s)
      | some g => (.ok 0, s.setG (a / 65536) (some g))

/-- GRSTAT (R411): its status stands in [63:60]. -/
def State.grstat (s : State) (r : SeqReq) (seq : Nat) (ck : Bool) : Word :=
  let st (n : Nat) : Word := BitVec.ofNat 64 (n * 2 ^ 60)
  match (s.gSeq r.asid seq).1 with
  | .error (.st n) => st n
  | .error _ => 0
  | .ok q => match q.g with
    | none => if ck then st 5 else 0
    | some g =>
      if ck then
        let m := (List.range 32).foldl (fun m c => if (g.ck c).isSome then m + 2 ^ c else m) 0
        BitVec.ofNat 64 (m * 2 ^ 20 + g.cur.len)
      else BitVec.ofNat 64 (2 ^ 59 + g.cur.depth * 2 ^ 48 + g.cur.state * 2 ^ 28 + s.topSym g.cur)

/-- A pending squash event placed on a thread (R403); an event on a thread that has exited is discarded, and
one on a swapped-out thread is placed in the saved context too. -/
def State.placeEvent (s : State) (t : Nat) (entry : Word) (seq n : Nat) : State :=
  let th := s.thread t
  if th.exited then s
  else
    let info : Word := (if th.ev.isSome then 0x8000000000000000 else 0) ||| BitVec.ofNat 64 (n * 2 ^ 32 + seq)
    let s := s.onThread t fun th => { th with ev := some (info, entry) }
    let team := s.teamOf t
    if (s.cluster (s.team team).cluster).out then
      let off := 512 + 256 * (t - (s.group (s.team team).g0).t0) - 24
      { s with areas := s.areas.map fun ((k, c) : Nat × Ctx) =>
          (k, if k = team then { c with parts := (off, natLe 8 (info.toNat + 2 ^ 62)) :: c.parts } else c) }
    else s

/-- Does an operation carry a draft tag (SEQ, p) with p ≥ n (R400, R412)? -/
def EngOp.tagged (o : EngOp) (seq n : Nat) : Bool :=
  match o.kind with
  | .copy _ => o.tag.getLsbD 63 && field o.tag.toNat 0 16 == seq && decide (n ≤ field o.tag.toNat 16 20)
  | .attn a => a.accepted && a.key.toNat % 65536 == seq && decide (n ≤ a.n - 1)
  | _ => false

/-- Is it a plane copy? -/
def OpKind.isCopy : OpKind → Bool
  | .copy _ => true
  | _ => false

/-- Cancels a tagged operation (R281, R384, R412); one that is held as a restart record, its team swapped out or yet to be, ends at the
team's swap-in (R413). -/
def State.cancelOp (s : State) (o : EngOp) : State :=
  if (s.cluster (s.team o.team).cluster).out || o.parked then s.onOp o.id fun o => { o with can := true }
  else match o.kind with
    | .copy c =>
      if o.first = false then
        let held := s.locks.any fun k =>
          k.op != o.id && k.core == o.core && k.space == .core && k.owner == o.team && overlap c.bar 16 k.base k.len &&
            (match s.opOf k.op with | some x => x.kind.isCopy | none => false)
        let s := if held then s
          else s.copyBar o c fun v => setField (setField (setField v 20 1 1) 17 1 0) 18 1 0
        s.endOp o.id
      else (s.copyBar o c fun v => setField (setField v 20 1 1) 18 1 0).endOp o.id
    | .attn a => s.attnEnd o a fun v => setField v 259 1 1
    | _ => s

/-- The indivisible step of SQUASH (R412) on an admitted sequence, and of SEQRET: tagged operations end, but for the attention operations
of an evicted sequence, which complete (R390, R438); the KV cache is cut, and the context is restored from a checkpoint if one is named. -/
def State.squashAct (s : State) (seq n : Nat) (ck : Option GPoint) : State :=
  let out := (s.seq seq).any (·.evicted)
  let s := (s.ops.filter fun o => o.tagged seq n && (!out || o.kind.isCopy)).foldl State.cancelOp s
  let s := s.onSeq seq (·.cut n)
  match ck, (s.seq seq).bind (·.g) with
  | some p, some g => s.setG seq (some { g with cur := p })
  | _, _ => s

/-- SQUASH (R412). -/
def State.squash (s : State) (r : SeqReq) (a n : Nat) : GRes Word :=
  let seq := field a 0 16
  let ck := field a 16 6
  let go (ckp : Option GPoint) (q : Seq) (s : State) : GRes Word :=
    let s := s.squashAct seq n ckp
    (.ok 0, match q.drafter with | some (t, e) => s.placeEvent t e seq n | none => s)
  gthen (s.gSeq r.asid seq) fun q s =>
    if q.evicted then (.error (.st 11), s)
    else if field a 22 10 ≠ 0 ∨ 32 < ck ∨ 2 ^ 20 ≤ n then (.error (.st 4), s)
    else if ck = 32 then go none q s
    else match q.g with
      | none => (.error (.st 5), s)
      | some g => match g.ck ck with
        | none => (.error (.st 6), s)
        | some p => if p.len ≠ n then (.error (.st 10), s) else go (some p) q s

/-- SQSET.ENTRY (R414); the registration of a thread that has exited has ended (R401). -/
def State.sqsetEntry (s : State) (r : SeqReq) (tag a : Word) : GRes Word :=
  if tag.getLsbD 63 = false ∨ a.toNat % 8 ≠ 0 then (.error (.st 4), s)
  else gthen (s.gSeq r.asid (field tag.toNat 0 16)) fun _ s =>
    (.ok 0, s.onSeq (field tag.toNat 0 16) fun q =>
      { q with drafter := if (s.thread r.thread).exited then none else some (r.thread, a) })

/-- SQSET.UNREG (R414). -/
def State.sqsetUnreg (s : State) (r : SeqReq) (tag : Word) : State :=
  s.onSeq (field tag.toNat 0 16) fun q =>
    { q with drafter := match q.drafter with | some (t, e) => if t = r.thread then none else some (t, e) | none => none }

/-- Performs a class N request: the value of its destination. -/
def State.genPerform (s : State) (r : SeqReq) : GRes Word :=
  match r.kind with
  | .grinit a img => s.grinit r a.toNat img.toNat
  | .grmask seq off op => s.grmask r seq.toNat off op
  | .gradv a _ _ _ => s.gradv r a.toNat
  | .grckptSave seq c => s.grckpt r seq.toNat fun g => g.cks.set c (some g.cur)
  | .grckptRel seq c => s.grckpt r seq.toNat fun g => g.cks.set c none
  | .grckptRelall seq => s.grckpt r seq.toNat fun g => g.cks.map fun _ => none
  | .grroll seq c => s.grroll r seq.toNat c
  | .grfork a => s.grfork r a.toNat
  | .grstat seq ck => (.ok (s.grstat r seq.toNat ck), s)
  | .squash a n => s.squash r a.toNat n.toNat
  | .sqsetEntry tag a => s.sqsetEntry r tag a
  | .sqsetUnreg tag => (.ok 0, s.sqsetUnreg r tag)
  | _ => (.ok 0, s)

/-! ## Issuing (R404) -/

/-- GRINIT (R406). -/
def execGrinit (g : Guard) (d a img : Operand) (s : State) : Outcome State Fault Refusal :=
  .next (s.lanesOk (.grinit g d a img) offMem fun s l => s.request l d (.grinit (s.src l a 64) (s.src l img 64)))

/-- GRMASK (R407): the offset is checked at issue, and the lane waits for the range-lock entry. -/
def execGrmask (g : Guard) (d seq off : Operand) (s : State) : Outcome State Fault Refusal :=
  .next (s.lanes (.grmask g d seq off) offMem fun s l =>
    let o := (s.src l off 32).toNat
    if o % 32 ≠ 0 then .fault 0x02 0
    else if !s.inSpace .core o 32768 then .fault 0x08 (permInfo 1 o)
    else
      let n := s.src32 l seq
      let op := s.nextId
      let s := s.startOp l [l] (.mask 0) [(true, .core, s.ig.team, o, 32768)]
      let s := s.request l d (.grmask n o op)
      .ok (s.onOp op fun x => { x with kind := .mask (s.nextId - 1) }))

/-- GRADV (R408): the predicate slice is pending from issue on, as the status is. -/
def execGradv (g : Guard) (d a : Operand) (q : PredBit) (s : State) : Outcome State Fault Refusal :=
  .next (s.lanesOk (.gradv g d a q) offMem fun s l =>
    let old := s.predSlice l q
    let p := s.nextId
    let s := (s.onLane l (·.addPend { id := p, slices := [q.slice.toNat], vals := [], known := false })).fresh
    s.request l d (.gradv (s.src l a 64) q old p))

/-- GRCKPT.SAVE (R409). -/
def execGrckptSave (g : Guard) (d seq : Operand) (c : BitVec 5) (s : State) : Outcome State Fault Refusal :=
  .next (s.lanesOk (.grckptSave g d seq c) offMem fun s l => s.request l d (.grckptSave (s.src32 l seq) c.toNat))

/-- GRCKPT.REL (R409). -/
def execGrckptRel (g : Guard) (d seq : Operand) (c : BitVec 5) (s : State) : Outcome State Fault Refusal :=
  .next (s.lanesOk (.grckptRel g d seq c) offMem fun s l => s.request l d (.grckptRel (s.src32 l seq) c.toNat))

/-- GRCKPT.RELALL (R409). -/
def execGrckptRelall (g : Guard) (d seq : Operand) (s : State) : Outcome State Fault Refusal :=
  .next (s.lanesOk (.grckptRelall g d seq) offMem fun s l => s.request l d (.grckptRelall (s.src32 l seq)))

/-- GRROLL (R409). -/
def execGrroll (g : Guard) (d seq : Operand) (c : BitVec 5) (s : State) : Outcome State Fault Refusal :=
  .next (s.lanesOk (.grroll g d seq c) offMem fun s l => s.request l d (.grroll (s.src32 l seq) c.toNat))

/-- GRFORK (R410). -/
def execGrfork (g : Guard) (d a : Operand) (s : State) : Outcome State Fault Refusal :=
  .next (s.lanesOk (.grfork g d a) offMem fun s l => s.request l d (.grfork (s.src32 l a)))

/-- GRSTAT (R411). -/
def execGrstat (g : Guard) (d seq : Operand) (ck : Bool) (s : State) : Outcome State Fault Refusal :=
  .next (s.lanesOk (.grstat g d seq ck) offMem fun s l => s.request l d (.grstat (s.src32 l seq) ck))

/-- SQUASH (R412). -/
def execSquash (g : Guard) (d a n : Operand) (s : State) : Outcome State Fault Refusal :=
  .next (s.lanesOk (.squash g d a n) offMem fun s l => s.request l d (.squash (s.src32 l a) (s.src32 l n)))

/-- SQSET.TAG (R414): DTAG changes at issue. -/
def execSqsetTag (g : Guard) (d a : Operand) (s : State) : Outcome State Fault Refusal :=
  .next (s.lanesOk (.sqsetTag g d a) offMem fun s l =>
    let v := s.src l a 64
    if field v.toNat 36 28 ≠ 0 then s.dst l d 4
    else (s.onLane l fun th => { th with dtag := 0x8000000000000000 ||| v }).dst l d 0)

/-- SQSET.OFF (R414): DTAG.EN changes at issue. -/
def execSqsetOff (g : Guard) (d : Operand) (s : State) : Outcome State Fault Refusal :=
  .next (s.lanesOk (.sqsetOff g d) offMem fun s l =>
    (s.onLane l fun th => { th with dtag := th.dtag &&& ~~~0x8000000000000000 }).dst l d 0)

/-- SQSET.ENTRY (R414). -/
def execSqsetEntry (g : Guard) (d a : Operand) (s : State) : Outcome State Fault Refusal :=
  .next (s.lanesOk (.sqsetEntry g d a) offMem fun s l => s.request l d (.sqsetEntry (s.lt l).dtag (s.src l a 64)))

/-- SQSET.UNREG (R414). -/
def execSqsetUnreg (g : Guard) (d : Operand) (s : State) : Outcome State Fault Refusal :=
  .next (s.lanesOk (.sqsetUnreg g d) offMem fun s l => s.request l d (.sqsetUnreg (s.lt l).dtag))

/-- The hash of RNG (R416). -/
def rngHash (a : Word) (c : W32) : W32 :=
  let x : W32 := a.setWidth 32 ^^^ ((a >>> 32).setWidth 32 * 0x9E3779B9)
  let h := x ^^^ (c * 0x85EBCA6B)
  let h := (h ^^^ (h >>> 16)) * 0x6C8E9CF5
  let h := (h ^^^ (h >>> 15)) * 0xA3B195A7
  h ^^^ (h >>> 16)

/-- RNG (R416). -/
def execRng (g : Guard) (d a b : Operand) (s : State) : Outcome State Fault Refusal :=
  .next (s.lanesVal (.rng g d a b) d fun s l =>
    let h := rngHash (s.src l a 64) ((s.src l b 32).setWidth 32)
    if d.w = .w24 then (h >>> 8).setWidth 64 else h.setWidth 64)

/-! ## Walkers (R26) -/

/-- Does a request take a walker (R26)? -/
def ReqKind.walks : ReqKind → Bool
  | .grinit .. | .grmask .. | .gradv .. | .grckptSave .. | .grckptRel .. | .grckptRelall .. | .grroll .. | .grfork ..
  | .grstat .. | .squash .. | .sqsetEntry .. | .sqsetUnreg .. => true
  | _ => false

/-- Does a request go to the scheduler, not to the sequence table (R434–R436)? -/
def ReqKind.sched : ReqKind → Bool
  | .launch .. | .ldepAdd .. | .ldepGo .. | .lquery .. => true
  | _ => false

/-- The sequences a request names (R394). -/
def ReqKind.seqs : ReqKind → List Nat
  | .kvmap k | .kvapp k _ => [field k.toNat 0 16]
  | .kvalloc a _ | .kvfree a | .kvcommit a _ | .kvtrim a _ | .squash a _ | .seqinfo a _ => [a.toNat % 65536]
  | .kvfork a _ | .grfork a => [a.toNat % 65536, a.toNat / 65536]
  | .grinit a _ | .gradv a _ _ _ | .sqsetEntry a _ | .sqsetUnreg a | .seqadm a => [field a.toNat 0 16]
  | .grmask q _ _ | .grckptSave q _ | .grckptRel q _ | .grckptRelall q | .grroll q _ | .grstat q _ | .seqret q => [q.toNat % 65536]
  | .launch .. | .ldepAdd .. | .ldepGo .. | .lquery .. => []

/-- Has a request reached the table? A GRMASK stalls until it has its range-lock entry (R407). -/
def State.reqReached (s : State) (r : SeqReq) : Bool :=
  match r.kind with
  | .grmask _ _ op => (s.opOf op).all fun o => o.first
  | _ => true

/-- Must a request of a partition, by its place in the order, still wait for an earlier one (R369, R394)? The words of class M and O of a
partition reach the table in issue order, and those that name one sequence take effect in that order; a request of any partition waits
while one that names its sequence is being performed. -/
def State.earlierOf (s : State) (part id : Nat) (walks : Bool) (seqs : List Nat) : Bool :=
  let meets (w : Bool) (q : List Nat) : Bool := (!walks && !w) || q.any seqs.contains
  (s.reqs.any fun r => r.part == part && decide (r.ord < id) && !r.kind.sched && meets r.kind.walks r.kind.seqs && s.reqReached r) ||
    (s.reqs.any fun r => r.begun && r.ord != id && r.kind.seqs.any seqs.contains) ||
    s.ops.any fun o => decide (o.id < id) && match o.kind with
      | .attn a => !a.accepted && !(s.cluster (s.team o.team).cluster).out && o.core == part / 4 && (s.group (s.thread o.thread).grp).partition == part % 4 &&
          meets false [field a.key.toNat 0 16]
      | _ => false

/-- Does a request wait in its die's walker queue? -/
def State.queued (s : State) (r : SeqReq) : Bool := r.kind.walks && !r.walker && s.reqReached r

/-- WALKER_REQUEST_START (R26): the request that has been longest in a die's queue gains one of its 16 walkers. The spec does not give
the order in which requests of different cores arrive there; DESIGN CHOICE: the order of issue, and for a GRMASK the time it has its
range-lock entry (log entry 51). -/
def execWalkerRequestStart (id : Nat) (s : State) : Outcome State Fault Refusal :=
  .next (match s.reqs.find? fun r => r.id == id with
    | some r =>
      let mine := s.reqs.filter fun x => dieOf (x.part / 4) == dieOf (r.part / 4)
      if s.queued r && decide ((mine.filter (·.walker)).length < 16) && !(mine.any fun x => decide (x.ord < r.ord) && s.queued x) then
        { s with reqs := s.reqs.map fun x => if x.id = id then { x with walker := true } else x }
      else s
    | none => s)

/-! ## The squash event (R403) -/

/-- Is a thread between the chains of a basted run (R38)? -/
def State.midRun (s : State) (t : Nat) : Bool :=
  let th := s.thread t
  s.runs.any fun r => r.grp == th.grp && r.lanes.contains th.lane

/-- May a thread's next chain issue under the scoreboard (R169)? -/
def State.nextOk (s : State) (t : Nat) : Bool :=
  match s.fetchOf t with
  | .chain c => s.scoreOk t c
  | .noX => true
  | .line _ => false

/-- Does a thread take its pending event before its next chain (R403)? -/
def State.takesEvent (s : State) (t : Nat) : Bool :=
  let th := s.thread t
  th.ev.isSome && !th.exited && th.wait == .none && th.delay.isNone && th.later.isNone && !s.deciding t && !laneIn (s.group th.grp).tset th.lane &&
    !s.midRun t && th.spr == 0 && !(s.cluster (s.team (s.teamOf t)).cluster).out && s.nextOk t

/-- SQUASH_EVENT_TAKEN (R403): the thread goes to ENTRY, or traps when ENTRY is 0; a trap that finds a trap set is deferred with
the event still pending (R444). -/
def execSquashEventTaken (t : Nat) (s : State) : Outcome State Fault Refusal :=
  .next (if s.takesEvent t then
      let th := s.thread t
      let (info, entry) := th.ev.getD (0, 0)
      let take (s : State) : State := s.onThread t fun th => { th with sqpc := th.pc, sqinfo := info, ev := none }
      if entry ≠ 0 then (take s).onThread t fun th => { th with pc := entry }
      else if (s.group th.grp).tset ≠ 0 ∧ (s.recOf th.grp).trapv ≠ 0 then
        s.onThread t fun th => { th with wait := .deferred, waitAt := th.pc }
      else
        let s := take s
        let w := (s.iword (s.coreOf t) (s.asidOf t) th.pc.toNat).getD 0
        ({ s with issue := { (default : Issue) with
            grp := th.grp, lanes := [th.lane], pc := th.pc, wordAddr := th.pc, nextPc := th.pc, runPc := th.pc,
            skipPc := s.skipOf t, word := w,
            faults := [{ stage := 6, lane := th.lane, cause := 0x16, info, word := w }] } }).trapDecide.handlerDelay s
    else s)

end Machine
end Sys2Proof
end

