-- ==== Sys2Proof/Machine/Launch.lean ====
section
/-! DEFINITION. Class O: launch records and their checks, submission, dependences, the launch table, the sequence contexts'
admission and retirement (17 R417–R422, R431–R439), and the performance of every queued request (R369, R394). -/

namespace Sys2Proof
namespace Machine
open Host

/-! ## Launch records (R417, R418) -/

/-- Format slot k of a record (Table 5.10). -/
def slotOf (v k : Nat) : FmtSlot :=
  let b := 1024 + 128 * k
  { elem := BitVec.ofNat 8 (field v b 8), logblk := BitVec.ofNat 8 (field v (b + 8) 8), scale := BitVec.ofNat 8 (field v (b + 16) 8),
    rnd := BitVec.ofNat 2 (field v (b + 24) 2), sat := field v (b + 26) 1 = 1, planes := BitVec.ofNat 8 (field v (b + 32) 8) }

/-- The fields of a record (Table 17.1). -/
def lrOf (v : Nat) : LaunchRec :=
  let w (lo n : Nat) : Word := BitVec.ofNat 64 (field v lo n)
  { slots := (List.range 8).map (slotOf v), audctl := w 704 64, vec := BitVec.ofNat 6 (field v 653 6), irq := field v 652 1 = 1,
    asid := BitVec.ofNat 12 (field v 640 12), args := w 576 64, crec := w 512 64, deps := w 448 64,
    nbar := BitVec.ofNat 32 (field v 416 32), stashb := BitVec.ofNat 32 (field v 384 32), stash := w 320 64,
    aback := BitVec.ofNat 5 (field v 288 5), cmem := BitVec.ofNat 32 (field v 256 32), scr := BitVec.ofNat 32 (field v 224 32),
    g := BitVec.ofNat 16 (field v 208 16), l := BitVec.ofNat 16 (field v 192 16), mxu := field v 171 1 = 1,
    hold := field v 170 1 = 1, prio := BitVec.ofNat 2 (field v 168 2), wcode := BitVec.ofNat 2 (field v 166 2),
    ngrp := BitVec.ofNat 6 (field v 160 6), h := BitVec.ofNat 4 (field v 156 4), w := BitVec.ofNat 4 (field v 152 4),
    tpc := BitVec.ofNat 8 (field v 144 8), ncl := BitVec.ofNat 16 (field v 128 16), trapv := w 64 64, entry := w 0 64 }

/-- A set MBZ bit of Table 17.1 (reason 1). -/
def lrMbz (v : Nat) : Bool := field v 768 256 != 0 || field v 659 45 != 0 || field v 293 27 != 0 || field v 172 20 != 0

/-- A field outside its range or alignment (reason 2; Table 17.1, R22). -/
def LaunchRec.outOfRange (r : LaunchRec) : Bool :=
  decide (r.entry.toNat % 8 ≠ 0) || decide (r.trapv.toNat % 8 ≠ 0) || decide (r.ncl = 0) || decide (r.w = 0) || decide (r.h = 0) ||
    decide (12 < r.w.toNat) || decide (12 < r.h.toNat) || decide (r.tpc.toNat ≠ r.w.toNat * r.h.toNat) || decide (12 < r.tpc.toNat) ||
    decide (r.ngrp = 0) || decide (32 < r.ngrp.toNat) || decide (r.l.toNat % 32 ≠ 0) || decide (r.l.toNat < 32) ||
    decide (960 < r.l.toNat) || decide (r.g.toNat % 8 ≠ 0) || decide (r.l.toNat < r.g.toNat) ||
    decide (2048 < r.scr.toNat + r.cmem.toNat) || decide (16 < r.aback.toNat) || decide (r.stashb.toNat % 32 ≠ 0) ||
    (decide (r.stashb ≠ 0) && decide (r.stash.toNat % 32 ≠ 0)) || decide (16 < r.nbar.toNat) || decide (r.deps.toNat % 16 ≠ 0) ||
    decide (r.crec.toNat % 32 ≠ 0)

/-- A slot that breaks Table 5.10 or Table 5.11 (reason 3), by its 128 bits. -/
def slotBad (x : Nat) : Bool :=
  let elem := field x 0 8
  let shape := (field x 8 8, field x 16 8, field x 32 8)
  field x 40 88 != 0 || field x 27 5 != 0 ||
    (if elem = 0 then x != 0
     else if [1, 2, 3, 8, 9].contains elem then shape != (0, 0, 0)
     else if [4, 5, 6].contains elem then shape != (0, 0, 0) && shape != (5, 1, 0)
     else if elem = 16 then !(field x 8 8 == 5 && field x 16 8 == 0 && decide (field x 32 8 ≤ 15))
     else true)

/-- The slice-file bytes of a group's lanes (R21, Table 17.6). -/
def LaunchRec.groupBytes (r : LaunchRec) : Nat := 8 * 2 ^ r.wcode.toNat * (r.l.toNat + 8 * r.aback.toNat) / 2

/-- One team exceeds an empty core (reason 6; R425): its slice file; the other resources are bounded by reason 2. -/
def LaunchRec.tooBig (r : LaunchRec) : Bool := decide (196608 < (r.ngrp.toNat + 3) / 4 * r.groupBytes)

/-- The lowest of reasons 1 to 4 (Table 17.2), or 0. -/
def lrReason (v : Nat) : Nat :=
  if lrMbz v then 1
  else if (lrOf v).outOfRange then 2
  else if (List.range 8).any fun k => slotBad (field v (1024 + 128 * k) 128) then 3
  else if (lrOf v).audctl.toNat / 2 ^ 17 ≠ 0 then 4
  else 0

/-! ## Dependence lists (R421) -/

/-- What reading a dependence list finds. -/
inductive DepList
  | ok (l : List (Nat × Nat × Bool))
  | bad
  | miss (va : Nat)
deriving DecidableEq, Repr

/-- A malformed entry, by its first word (R421). -/
def depBad (c : Nat) : Bool := c / 2 % 4 != 0 || c / 8 == 0 || decide (2 ^ 57 ≤ c)

/-- Reads a dependence list, at most n entries (R421). -/
def State.readDeps (w : Who) (asid : Nat) : Nat → Nat → State → DepList × State
  | 0, _, s => (.bad, s)
  | n + 1, a, s =>
    match s.gload w asid a 16 with
    | (.ok bs none, s) =>
      let c := leNat (bs.take 8)
      let d := (c / 8 * 8, leNat (bs.drop 8), false)
      if depBad c then (.bad, s)
      else if c % 2 = 1 then (.ok [d], s)
      else match State.readDeps w asid n (a + 16) s with
        | (.ok l, s) => (.ok (d :: l), s)
        | o => o
    | (.miss va, s) => (.miss va, s)
    | (_, s) => (.bad, s)

/-! ## The launch table (R434) -/

/-- An entry of the launch table. -/
def State.lent (s : State) (i : Nat) : LEnt := assocGet default s.ltab i

/-- Is every entry in use? -/
def State.tableFull (s : State) : Bool := decide (1024 ≤ s.lNext) && s.lFreed.isEmpty

/-- Allocates an entry for a grid, the one freed longest ago: its index and handle (Table 17.11). -/
def State.allocEntry (s : State) (g : Nat) : (Nat × W32) × State :=
  let put (s : State) (i : Nat) : (Nat × W32) × State :=
    let gen := (s.lent i).gen % 4194303 + 1
    ((i, BitVec.ofNat 32 (gen * 1024 + i)), { s with ltab := assocSet default s.ltab i { gen, grid := some g } })
  if s.lNext < 1024 then put { s with lNext := s.lNext + 1 } s.lNext
  else match s.lFreed with
    | i :: r => put { s with lFreed := r } i
    | [] => ((1024, 0), s)

/-- Frees an entry. -/
def State.freeEntry (s : State) (i : Nat) : State :=
  if i < 1024 then { s with ltab := assocSet default s.ltab i { s.lent i with grid := none }, lFreed := s.lFreed ++ [i] } else s

/-- The launch that a handle names (R434). -/
def State.launchOf (s : State) (h : W32) : Option Nat :=
  let e := s.lent (h.toNat % 1024)
  if h.toNat / 1024 = e.gen then e.grid else none

/-! ## Submission (R418, R423) -/

/-- What submitting a record gives. -/
inductive Sub
  | ok (h : W32)
  | full
  | fail (reason : Nat)
  | miss (va : Nat)
deriving DecidableEq, Repr

/-- A launch as it enters the table, or fails. -/
def newGrid (lr : LaunchRec) (handle : W32) (entry queue reason : Nat) (deps : List (Nat × Nat × Bool)) : Grid :=
  { lr, handle, fatal := none, ended := false, phase := 0, race := false, mix := false, entry, queue, reason, held := lr.hold,
    ready := false, susp := false, deps, depWait := [], eff := lr.prio.toNat, nextCl := 0, resv := none, evict := false,
    stop := if reason = 0 then none else some 3, wait := none }

/-- A failed launch: it is reported under the submitting ASID (R423). -/
def State.failLaunch (s : State) (lr : LaunchRec) (asid queue reason : Nat) : State :=
  { s with grids := s.grids ++ [newGrid { lr with asid := BitVec.ofNat 12 asid } 0 1024 queue reason []] }

/-- Submits a record's bytes (R418): from an ASID and a queue, with a priority cap, its list read by a party; `lost` says that
the list's translation has been declared unresolvable. -/
def State.submit (s : State) (w : Who) (asid queue cap : Nat) (bs : List Byte) (lost : Bool) : Sub × State :=
  let v := leNat bs
  let lr := lrOf v
  let lr := { lr with prio := if cap < lr.prio.toNat then BitVec.ofNat 2 cap else lr.prio }
  let fail (s : State) (r : Nat) : Sub × State := (.fail r, s.failLaunch lr asid queue r)
  if lrReason v ≠ 0 then fail s (lrReason v)
  else
    match (if lr.deps = 0 then (.ok [], s) else if lost then (.bad, s) else State.readDeps w asid 16 lr.deps.toNat s) with
    | (.miss va, s) => (.miss va, s)
    | (.bad, s) => fail s 5
    | (.ok deps, s) =>
      if lr.tooBig then fail s 6
      else if lr.asid.toNat ≠ asid then fail s 7
      else if s.tableFull then (.full, s)
      else
        let g := s.grids.length
        let ((i, h), s) := s.allocEntry g
        (.ok h, { s with grids := s.grids ++ [newGrid lr h i queue 0 deps] }.depsRead (fun _ => true) g)

/-! ## Launch words (R434–R436) -/

/-- The checks of a scheduler operand's address (R434, R435). -/
def State.schedAddr (s : State) (a align n : Nat) : Option (Nat × Word) :=
  if a % align ≠ 0 then some (0x02, 0)
  else if !s.inSpace .glob a n then some (0x08, permInfo 0 a)
  else match s.windowHit s.iasid a n with
    | some x => some (0x08, permInfo 4 x)
    | none => match s.lockFault .glob a n false with
      | some i => some (0x09, i)
      | none => none

/-- LAUNCH (R434): the record is read as loads of the issuing core, after the thread's earlier accesses. -/
def execLaunch (g : Guard) (d a : Operand) (s : State) : Outcome State Fault Refusal :=
  let i : Instr := .launch g d a
  s.fenced i 7 fun s => s.lanes i offMem fun s l =>
    let x := (s.src l a 64).toNat
    match s.schedAddr x 64 256 with
    | some (c, info) => .fault c info
    | none => match s.issueRead [l] l x 256 with
      | (.ok bs, s) => .ok (s.request l d (.launch bs s.ir.prio.toNat))
      | (.fault c info, _) => .fault c info
      | (.stall va, _) => .stall va

/-- LDEP.ADD (R435): the entry is read at issue; a poisoned one counts as malformed. -/
def execLdepAdd (g : Guard) (d a : Operand) (s : State) : Outcome State Fault Refusal :=
  .next (s.lanes (.ldepAdd g d a) offMem fun s l =>
    let x := (s.src l a 64).toNat
    let h := s.src32 l d
    match s.schedAddr x 16 16 with
    | some (c, info) => .fault c info
    | none => match s.issueRead [l] l x 16 with
      | (.ok bs, s) => .ok (s.request l d (.ldepAdd h (leNat (bs.take 8)) (leNat (bs.drop 8))))
      | (.fault 0x0B p, s) => .ok ((s.logPoison (s.ig.t0 + l) s.issue.iss p).request l d (.ldepAdd h 0 0))
      | (.fault c info, _) => .fault c info
      | (.stall va, _) => .stall va)

/-- LDEP.GO (R435). -/
def execLdepGo (g : Guard) (d : Operand) (s : State) : Outcome State Fault Refusal :=
  .next (s.lanesOk (.ldepGo g d) offMem fun s l => s.request l d (.ldepGo (s.src32 l d)))

/-- LQUERY (R436). -/
def execLquery (g : Guard) (d h : Operand) (s : State) : Outcome State Fault Refusal :=
  .next (s.lanesOk (.lquery g d h) offMem fun s l => s.request l d (.lquery (s.src32 l h)))

/-- SEQADM (R437). -/
def execSeqadm (g : Guard) (d a : Operand) (s : State) : Outcome State Fault Refusal :=
  .next (s.lanesOk (.seqadm g d a) offMem fun s l => s.request l d (.seqadm (s.src l a 64)))

/-- SEQRET (R438). -/
def execSeqret (g : Guard) (d seq : Operand) (s : State) : Outcome State Fault Refusal :=
  .next (s.lanesOk (.seqret g d seq) offMem fun s l => s.request l d (.seqret (s.src32 l seq)))

/-- SEQINFO (R439). -/
def execSeqinfo (g : Guard) (d a : Operand) (q : SeqQuery) (s : State) : Outcome State Fault Refusal :=
  .next (s.lanesOk (.seqinfo g d a q) offMem fun s l => s.request l d (.seqinfo (s.src32 l a) q))

/-! ## What the requests do -/

/-- LDEP.ADD performed (R435). -/
def State.ldepAdd (s : State) (h : W32) (ctr thr : Nat) : Nat × State :=
  match s.launchOf h with
  | none => (7, s)
  | some g =>
    let gr := s.grid g
    if gr.held = false then (8, s)
    else if 16 ≤ gr.deps.length then (9, s)
    else if depBad ctr then (4, s)
    else (0, (s.onGrid g fun gr => { gr with deps := gr.deps ++ [(ctr / 8 * 8, thr, false)] }).depRead g gr.deps.length
      (ctr / 8 * 8, thr, false))

/-- LDEP.GO performed (R435). -/
def State.ldepGo (s : State) (h : W32) : Nat × State :=
  match s.launchOf h with
  | none => (7, s)
  | some g => if (s.grid g).held then (0, s.onGrid g fun gr => { gr with held := false }) else (8, s)

/-- The teams of a grid that have ended. -/
def State.teamsEnded (s : State) (g : Nat) : Nat := ((s.gridTeams g).filter s.teamEnded).length

/-- LQUERY's state code (R436). -/
def State.launchState (s : State) (g : Nat) : Nat :=
  let gr := s.grid g
  if gr.stop.isSome || gr.fatal.isSome ||
      (decide (gr.nextCl = gr.lr.ncl.toNat) && decide (s.teamsEnded g = gr.nextCl * gr.lr.tpc.toNat)) then 4
  else if gr.susp then 5
  else if 0 < gr.nextCl then 3
  else if gr.ready then 2
  else if gr.held then 0
  else 1

/-- LQUERY performed (R436). -/
def State.lqueryVal (s : State) (h : W32) : Word :=
  match s.launchOf h with
  | none => 0x7000000000000000
  | some g =>
    let gr := s.grid g
    BitVec.ofNat 64 (s.launchState g * 2 ^ 57 + gr.lr.prio.toNat * 2 ^ 54 + gr.eff % 4 * 2 ^ 52 + s.teamsEnded g % 2 ^ 20 * 2 ^ 32 +
      gr.nextCl * gr.lr.tpc.toNat % 2 ^ 20 * 2 ^ 12)

/-- A sequence context as it is admitted (R437), with a path of one node (R366). -/
def newSeq (asid nl np pkv spare node : Nat) : Seq :=
  { asid, nl, np, pkv, lc := 0, wm := List.replicate (nl * np) 0, spare, evicted := false, path := [(node, 0)],
    pages := List.replicate (nl * np) [], g := none, drafter := none }

/-- SEQADM performed (R437): its checks in order. -/
def State.seqadmAct (s : State) (id asid a : Nat) : Word × State :=
  let want := field a 0 16
  let nl := field a 16 8 + 1
  let np := field a 24 6 + 1
  let pkv := field a 30 4
  let rsv := decide (field a 34 1 = 1)
  let n := field a 35 16
  let st (k seq : Nat) : Word := BitVec.ofNat 64 (k * 65536 + seq)
  if field a 51 13 ≠ 0 ∨ pkv = 0 ∨ pkv = 15 ∨ 4096 < nl * np then (st 4 want, s)
  else
    let pick := if want = 0xFFFF then (List.range 65536).find? fun k => (s.seq k).isNone
      else if (s.seq want).isNone then some want else none
    match pick with
    | none => (st (if want = 0xFFFF then 2 else 10) want, s)
    | some q =>
      if rsv = false ∧ s.kvFree < n + s.kvRes then (st 1 want, s)
      else if s.kvFree < n then (st 2 want, s)
      else (st 0 q, { s with seqs := assocSet none s.seqs q (some (newSeq asid nl np pkv n (4 * id))) })

/-- SEQRET performed (R438). -/
def State.seqretAct (s : State) (asid n : Nat) : GRes Word :=
  gthen (s.gSeq asid n) fun _ s =>
    let s := s.squashAct n 0 none
    (.ok 0, { s with seqs := assocSet none s.seqs n none }.pruneNodes)

/-- SEQINFO performed (R439). -/
def State.seqinfoVal (s : State) (asid a : Nat) (q : SeqQuery) : Word :=
  let st (k : Nat) : Word := BitVec.ofNat 64 (k * 2 ^ 60)
  match s.seq (field a 0 16) with
  | none => st 3
  | some x =>
    if x.asid ≠ asid then st 3
    else if field a 28 4 ≠ 0 then st 4
    else match q with
      | .geo => BitVec.ofNat 64 ((if x.evicted then 2 ^ 59 else 0) + (if x.drafter.isSome then 2 ^ 58 else 0) + x.pkv * 2 ^ 54 +
          (x.nl - 1) * 2 ^ 46 + (x.np - 1) * 2 ^ 40 + x.spare % 2 ^ 22 * 2 ^ 16)
      | .len =>
        let lo := x.wm.foldl Nat.min (x.wm.headD 0)
        let hi := x.wm.foldl Nat.max 0
        BitVec.ofNat 64 (x.lc % 2 ^ 20 * 2 ^ 40 + lo % 2 ^ 20 * 2 ^ 20 + hi % 2 ^ 20)
      | .stream =>
        let k := field a 16 12
        if x.ns ≤ k then st 4
        else BitVec.ofNat 64 (x.wm.getD k 0 % 2 ^ 20 * 2 ^ 40 + (((x.pages.getD k []).filterMap id).length % 2 ^ 20) * 2 ^ 20)

/-- LAUNCH performed (R434). -/
def State.launchAct (s : State) (r : SeqReq) (bs : List Byte) (prio : Nat) (lost : Bool) : GRes Word :=
  match s.submit { r.who with strong := false } r.asid 0xFF prio bs lost with
  | (.ok h, s) => (.ok (h.setWidth 64), s)
  | (.full, s) => (.ok 0x500000000, s)
  | (.fail n, s) => (.ok (BitVec.ofNat 64 (6 * 2 ^ 32 + n)), s)
  | (.miss va, s) => (.error (.miss va), s)

/-- Performs a class O request: the value of its destination. -/
def State.schedPerform (s : State) (r : SeqReq) (lost : Bool) : GRes Word :=
  let st (x : Nat × State) : GRes Word := (.ok (BitVec.ofNat 64 x.1), x.2)
  match r.kind with
  | .seqadm a => let (v, s) := s.seqadmAct r.id r.asid a.toNat; (.ok v, s)
  | .seqret q => s.seqretAct r.asid q.toNat
  | .seqinfo a q => (.ok (s.seqinfoVal r.asid a.toNat q), s)
  | .launch bs prio => s.launchAct r bs prio lost
  | .ldepAdd h ctr thr => st (s.ldepAdd h ctr thr)
  | .ldepGo h => st (s.ldepGo h)
  | .lquery h => (.ok (s.lqueryVal h), s)
  | _ => (.ok 0, s)

/-! ## SEQUENCE_REQUEST_COMPLETE -/

/-- Is it a class M request? -/
def ReqKind.isKv : ReqKind → Bool
  | .kvmap .. | .kvalloc .. | .kvfree .. | .kvfork .. | .kvapp .. | .kvcommit .. | .kvtrim .. => true
  | _ => false

/-- Performs a request of any class. -/
def State.reqPerform (s : State) (r : SeqReq) (lost : Bool) : GRes Word :=
  if r.kind.isKv then (let (v, s) := s.kvPerform r; (.ok v, s))
  else if r.kind.walks then s.genPerform r
  else s.schedPerform r lost

/-- A request leaves the queue with its result; GRADV writes its predicate, and GRMASK releases its range. -/
def State.reqEnd (s : State) (r : SeqReq) (v : Word) : State :=
  let s := s.landPend r.thread r.pend v
  let s := match r.kind with
    | .gradv _ q old p => s.landPend r.thread p ((predBitSet old q .set (v == 0)).setWidth 64)
    | .grmask _ _ op => s.endOp op
    | _ => s
  { s with reqs := s.reqs.filter fun x => x.id != r.id }

/-- Is a request next in its order (R26, R369, R394, R435)? -/
def State.reqDue (s : State) (r : SeqReq) : Bool :=
  s.reqReached r && r.entry.isNone && !r.refused && (!r.kind.walks || r.walker) &&
    if r.kind.sched then !(s.reqs.any fun x => x.part == r.part && decide (x.id < r.id) && x.kind.sched)
    else !s.earlierOf r.part r.ord r.kind.walks r.kind.seqs

/-- A request is performed, or meets an address it cannot go past. -/
def State.reqRun (s : State) (r : SeqReq) (lost : Bool) : State :=
  let core := r.part / 4
  match s.reqPerform r lost with
  | (.ok v, s) => s.reqEnd r v
  | (.error (.st n), s) => s.reqEnd r (BitVec.ofNat 64 n)
  | (.error (.stLog n info), s) => (s.logEvent 1 r.asid core (s.grid r.grid).handle info).reqEnd r (BitVec.ofNat 64 n)
  | (.error (.miss va), s) =>
    let (s, e) := s.attach core r.asid 3 va (.req r.id)
    { s with reqs := s.reqs.map fun x => if x.id = r.id then { x with entry := e, refused := e.isNone, begun := true } else x }
  | (.error (.bad va), s) =>
    let s := (match r.kind with | .grmask _ _ op => s.endOp op | _ => s).fatalAt r.thread r.chain 0x08 (permLate 0 va)
    { s with reqs := s.reqs.filter fun x => x.id != r.id }

/-- SEQUENCE_REQUEST_COMPLETE (R369, R394, R434–R439): the table, a walker or the scheduler performs a queued request. -/
def execSequenceRequestComplete (id : Nat) (s : State) : Outcome State Fault Refusal :=
  .next (match s.reqs.find? fun r => r.id == id with
    | some r => if s.reqDue r then s.reqRun r false else s
    | none => s)

/-! ## Host queues (R419, R420) -/

/-- A host queue. -/
def State.hq (s : State) (q : Nat) : HostQ := assocGet default s.hqs q

/-- Changes a host queue. -/
def State.onHq (s : State) (q : Nat) (f : HostQ → HostQ) : State := { s with hqs := assocSet default s.hqs q (f (s.hq q)) }

/-- Reads HBM4 by physical address; what lies beyond it is open, as are the contents of a page that R215 leaves undefined. -/
def State.physRead (s : State) (a n : Nat) : List Byte :=
  (List.range n).map fun k =>
    if a + k < hbmSize ∧ s.aliased (a + k) = false then memGet s.hbm.bytes (a + k) else Config.freeByte s.tick k

/-- HQTAIL_WRITE (R419): the doorbell; a write with an MBZ bit set is ignored. -/
def execHqtailWrite (q : BitVec 4) (v : Word) (s : State) : Outcome State Fault Refusal :=
  .next (if v.toNat < 2 ^ 32 ∧ s.regs.bootState ≠ 3 then s.onHq q.toNat fun h => { h with tail := v.setWidth 32 } else s)

/-- Does the scheduler act on a queue (R419, R475)? -/
def State.hqActs (s : State) (q : Nat) : Bool :=
  let h := s.hq q
  decide (s.regs.bootState = 2) && h.en && h.head != h.tail && h.wait.isNone &&
    (decide (2 ^ h.logn < (h.tail - h.head).toNat) || !s.tableFull)

/-- The scheduler reads record HEAD of a queue, once, and submits it (R418, R419). -/
def State.hqSubmit (s : State) (q : Nat) (lost : Bool) : State :=
  let h := s.hq q
  let (bs, asid) := h.record.getD (s.physRead (h.base + 256 * (h.head.toNat % 2 ^ h.logn)) 256, h.asid)
  let took (s : State) (last : W32) : State := s.onHq q fun h => { h with head := h.head + 1, last, record := none }
  match s.next.submit { hardwareWho with strong := false } asid q 3 bs lost with
  | (.ok x, s) => took s x
  | (.fail _, s) => took s 0
  | (.full, s) => s.onHq q fun h => { h with record := some (bs, asid) }
  | (.miss va, s) =>
    let (s, e) := s.attach 256 asid 3 va (.queue q)
    s.onHq q fun h => { h with record := some (bs, asid), wait := e }

/-- HOST_QUEUE_CONSUME (R419). -/
def execHostQueueConsume (q : BitVec 4) (s : State) : Outcome State Fault Refusal :=
  .next (if s.hqActs q.toNat then
      (let h := s.hq q.toNat
       if 2 ^ h.logn < (h.tail - h.head).toNat then s.onHq q.toNat fun h => { h with en := false, err := true }
       else s.hqSubmit q.toNat false)
    else s)

end Machine
end Sys2Proof
end

