-- ==== Sys2Proof/Machine/Fill.lean ====
section
/-! DEFINITION. Instruction-line fills (09 R217, R214) and the retries of requests that a full fault buffer refused (R222). -/

namespace Sys2Proof
namespace Machine
open Host

/-! ## Instruction lines -/

/-- The threads on a core that may go on once a line has come: those ready but for the line they need. -/
def State.lineWaiters (s : State) (core asid line : Nat) : List Nat :=
  (List.range s.threads.length).filter fun t =>
    let th := s.thread t
    !th.exited && th.wait == .none && !s.deciding t && s.coreOf t == core && s.asidOf t == asid &&
      !(s.cluster (s.team (s.teamOf t)).cluster).out && s.fetchOf t == .line line

/-- Puts a line into a core's instruction cache: 128 sets of 4 ways, the least recently used way leaving (R217). -/
def insertLine (n : ILine) (l : List ILine) : List ILine :=
  let same (m : ILine) : Bool := m.core == n.core && m.line % 128 == n.line % 128
  let old := l.filter fun m => !(m.core == n.core && m.asid == n.asid && m.line == n.line)
  n :: (((old.filter same).take 3) ++ old.filter fun m => !same m)

/-- A line that issued words is the most recently used of its set. -/
def State.touchLine (s : State) (core asid line : Nat) : State :=
  match s.icache.find? fun n => n.core == core && n.asid == asid && n.line == line with
  | some n => { s with icache := insertLine n s.icache }
  | none => s

/-- A core reads an instruction line: it is filled, waits on a translation fault (KIND 2), or its fetch faults (R29, R217). -/
def State.fillLine (s : State) (core asid line : Nat) : State :=
  let ts := s.lineWaiters core asid line
  let a := 128 * line
  match s.xlate asid a with
  | (.ok pa _ _ x, s) =>
    let w : Who := { grid := (ts.head?).map fun t => s.gridOfGroup (s.thread t).grp, core, thread := none, strong := false, chain := 0, fresh := true }
    let ((bs, _), s) := s.readGlob w pa 128
    { s with icache := insertLine { core, asid, line, x, bytes := bs } s.icache }
  | (.miss, s) =>
    (match s.attach core asid 2 a (.fetch core asid line) with
     | (s, some e) => { s with ireqs := s.ireqs ++ [{ core, asid, line, entry := some e }] }
     | (s, none) => s)
  | (.bad, s) => ts.foldl (fun s t => s.fatalAt t (s.thread t).pc 0x08 (permLate 5 (s.thread t).pc.toNat)) s

/-- ICACHE_FILL (R217): a line that a thread on the core needs, and for which no fetch waits on a translation fault. -/
def execIcacheFill (core asid line : Nat) (s : State) : Outcome State Fault Refusal :=
  .next (if s.lineWaiters core asid line = [] ∨ (s.ireqs.any fun r => r.core == core && r.asid == asid && r.line == line) = true then s
    else s.fillLine core asid line)

/-! ## Retries (R222) -/

/-- FAULT_BUFFER_RETRY (R222): a refused request of a thread, an engine, an arrival or the sequence table is made again. -/
def execFaultBufferRetry (id : Nat) (s : State) : Outcome State Fault Refusal :=
  .next (match s.accs.find? fun a => a.id == id with
    | some a =>
      if a.st = .refused then
        (s.onAcc id fun a => { a with st := .ready }).performDue id fun _ => true
      else s
    | none => match s.opOf id with
      | some o => if o.st = .refused then s.onOp id fun o => { o with st := .run } else s
      | none => match s.arrOf id with
        | some a => if a.st = .refused then s.onArr id fun a => { a with st := .landing } else s
        | none => { s with reqs := s.reqs.map fun (r : SeqReq) => if r.id = id then { r with refused := false } else r })

end Machine
end Sys2Proof
end

