-- ==== Sys2Proof/Machine/Sched.lean ====
section
/-! DEFINITION. The launch scheduler: priorities, resources, placement and reservations, what a starting team holds, completion and
its record, aborts, and grid-fatal ends with their saved contexts (17 R422–R430; 18 R447, R456). -/

namespace Sys2Proof
namespace Machine
open Host

/-! ## Readiness and priority (R422, R429) -/

/-- Is a launch in the table, neither failed nor ending? -/
def Grid.alive (g : Grid) : Bool := !g.ended && g.stop.isNone && g.fatal.isNone

/-- LAUNCH_READY (R422): not held, and every entry met. -/
def execLaunchReady (grid : Nat) (s : State) : Outcome State Fault Refusal :=
  .next (let g := s.grid grid
    if g.alive && !g.held && !g.ready && g.deps.all (·.2.2) then s.onGrid grid fun g => { g with ready := true } else s)

/-- Does launch y wait on the completion record of launch x (R429)? -/
def Grid.dependsOn (y x : Grid) : Bool :=
  y.alive && !x.ended && x.reason == 0 && x.lr.asid == y.lr.asid && x.lr.crec != 0 && y.deps.any fun d => !d.2.2 && d.1 == x.lr.crec.toNat

/-- One round of R429: each launch takes the greatest of its priority and that of the launches that depend on it. -/
def prioRound (gs : List Grid) (effs : List Nat) : List Nat :=
  gs.map fun x => (gs.zip effs).foldl (fun m (y, e) => if y.dependsOn x then Nat.max m e else m) x.lr.prio.toNat

/-- Rounds of R429, as many as the longest chain can need. -/
def prioRounds (gs : List Grid) : Nat → List Nat → List Nat
  | 0, l => l
  | n + 1, l => prioRounds gs n (prioRound gs l)

/-- The effective priorities (R429). -/
def State.effs (s : State) : List Nat := prioRounds s.grids s.grids.length (s.grids.map fun g => g.lr.prio.toNat)

/-- PRIORITY_RECOMPUTE (R429). -/
def execPriorityRecompute (s : State) : Outcome State Fault Refusal :=
  .next { s with grids := (s.grids.zip s.effs).map fun (g, e) => { g with eff := e } }

/-! ## Resources (R19, R21, R425) -/

/-- Group width (Table 1.3). -/
def LaunchRec.width (r : LaunchRec) : Nat := 8 * 2 ^ r.wcode.toNat

/-- The launch record of a team's grid. -/
def State.lrTeam (s : State) (t : Nat) : LaunchRec := (s.grid (s.cluster (s.team t).cluster).grid).lr

/-- The teams placed on a core. -/
def State.resident (s : State) (core : Nat) : List Nat :=
  (List.range s.teams.length).filter fun t => (s.team t).core == core && !(s.cluster (s.team t).cluster).out

/-- The groups of a team that have not ended. -/
def State.liveGroups (s : State) (t : Nat) : List Nat :=
  (List.range' (s.team t).g0 (s.team t).ng).filter fun g => !s.groupEnded g

/-- Has every team of a cluster ended? -/
def State.clusterEnded (s : State) (c : Nat) : Bool :=
  (List.range' (s.cluster c).t0 (s.cluster c).nt).all s.teamEnded

/-- Slice-file bytes in use in a partition of a core. -/
def State.sliceUse (s : State) (core p : Nat) : Nat :=
  ((s.resident core).map fun t =>
    ((s.liveGroups t).filter fun g => (s.group g).partition == p).length * (s.lrTeam t).groupBytes).sum

/-- Issue slots of a partition that hold a group (R19). -/
def State.slotsUsed (s : State) (core p : Nat) : List Nat :=
  (s.resident core).flatMap fun t => ((s.liveGroups t).filter fun g => (s.group g).partition == p).flatMap fun g =>
    let x := s.group g
    if x.w = 64 then [x.slot, x.slot + 1] else [x.slot]

/-- The slots that n new groups of width w take in a partition, or none when they do not fit; the lowest free ones. -/
def State.slotsFor (s : State) (core p w n : Nat) : Option (List Nat) :=
  let used := s.slotsUsed core p
  let free := if w = 64 then ((List.range 16).map (2 * ·)).filter fun e => !used.contains e && !used.contains (e + 1)
    else (List.range 32).filter fun e => !used.contains e
  let per := if w = 64 then 1 else 32 / w
  if (n + per - 1) / per ≤ free.length then some ((List.range n).map fun j => free.getD (j / per) 0) else none

/-- Scratchpad units in use on a core; a team's cluster memory is held until its cluster has ended. -/
def State.scratchUse (s : State) (core : Nat) : Nat :=
  ((s.resident core).map fun t =>
    (if s.teamEnded t then 0 else (s.lrTeam t).scr.toNat) +
      (if s.clusterEnded (s.team t).cluster then 0 else (s.lrTeam t).cmem.toNat)).sum

/-- Team barriers of a launch (R264). -/
def LaunchRec.bars (r : LaunchRec) : Nat := Nat.max r.nbar.toNat 1

/-- Team barriers in use on a core. -/
def State.barUse (s : State) (core : Nat) : Nat :=
  (((s.resident core).filter fun t => !s.teamEnded t).map fun t => (s.lrTeam t).bars).sum

/-- What one team needs of a core: its groups by partition, whether any of its threads lives, and the matrix units its context
names. -/
structure Need where
  groups : List Nat
  full : Bool
  units : List Nat
deriving DecidableEq, Repr, Inhabited

/-- Is a partition's matrix unit unclaimed? -/
def State.unitFree (s : State) (core p : Nat) : Bool := (s.mxu (core * 4 + p)).claim.isNone

/-- Can a core reserve what a team needs (R425, R428)? -/
def State.coreFits (s : State) (lr : LaunchRec) (n : Need) (core : Nat) : Bool :=
  ((List.range 4).all fun p =>
    let k := n.groups.getD p 0
    k == 0 || (decide (s.sliceUse core p + k * lr.groupBytes ≤ 196608) && (s.slotsFor core p lr.width k).isSome)) &&
  decide (s.scratchUse core + (if n.full then lr.scr.toNat else 0) + lr.cmem.toNat ≤ 2048) &&
  (!n.full || decide (s.barUse core + lr.bars ≤ 64)) && n.units.all (s.unitFree core) &&
  (!(n.full && lr.mxu) || ((List.range 4).all (s.unitFree core) &&
    !((s.resident core).any fun t => !s.teamEnded t && (s.lrTeam t).mxu)))

/-- The groups of a new team by partition (R18). -/
def newGroups (ngrp : Nat) : List Nat := (List.range 4).map fun p => (ngrp + 3 - p) / 4

/-- What the teams of a cluster need, in order of team index: a new cluster, or one that is swapped out. -/
def State.needs (s : State) (g : Nat) : Option Nat → List Need
  | none => let lr := (s.grid g).lr; List.replicate lr.tpc.toNat { groups := newGroups lr.ngrp.toNat, full := true, units := [] }
  | some c => (List.range' (s.cluster c).t0 (s.cluster c).nt).map fun t =>
      { groups := (List.range 4).map fun p => ((s.liveGroups t).filter fun k => (s.group k).partition == p).length,
        full := !s.teamEnded t, units := (s.team t).saved.map (·.1) }

/-! ## Rectangles and reservations (R23, R426, R427) -/

/-- The cores of a rectangle, in order of team index (R23). -/
def rectCores (w h : Nat) (at_ : Nat × Nat) : List Nat :=
  (List.range (w * h)).map fun t => 16 * (at_.2 + t / w) + at_.1 + t % w

/-- The rectangles of a shape, by y0, then x0. -/
def rects (w h : Nat) : List (Nat × Nat) :=
  (List.range (17 - h)).flatMap fun y => (List.range (17 - w)).map fun x => (x, y)

/-- The cores of a grid's reservation. -/
def Grid.reserved (g : Grid) : List Nat :=
  match g.resv with
  | some r => rectCores g.lr.w.toNat g.lr.h.toNat r
  | none => []

/-- Does a reservation keep a cluster of a grid off a core (R427)? -/
def State.kept (s : State) (g : Nat) (c : Option Nat) (core : Nat) : Bool :=
  (List.range s.grids.length).any fun x =>
    let y := s.grid x
    !(x == g && c.isNone) && decide ((s.grid g).eff ≤ y.eff) && y.reserved.contains core

/-- The rectangles on which a cluster can be placed now (R425–R427). -/
def State.fitting (s : State) (g : Nat) (c : Option Nat) : List (Nat × Nat) :=
  let lr := (s.grid g).lr
  let ns := s.needs g c
  (rects lr.w.toNat lr.h.toNat).filter fun r =>
    let cs := rectCores lr.w.toNat lr.h.toNat r
    (List.range cs.length).all fun t =>
      let core := cs.getD t 0
      !s.kept g c core && s.coreFits lr (ns.getD t default) core

/-- May a launch's clusters be placed (R422, R424)? -/
def Grid.placeable (g : Grid) : Bool := g.alive && !g.susp

/-- Does a thread wait at PHASE or PHASEW (R250)? -/
def Wait.atPhase : Wait → Bool
  | .phase arrive again => !arrive || again
  | _ => false

/-- Do all non-exited threads of a team wait at PHASE or PHASEW (R250)? -/
def State.atBoundary (s : State) (t : Nat) : Bool :=
  (s.teamThreads t).all fun u => (s.thread u).exited || (s.thread u).wait.atPhase

/-- Is a grid's next cluster waiting to start? -/
def Grid.waiting (g : Grid) : Bool := g.placeable && g.ready && decide (g.nextCl < g.lr.ncl.toNat)

/-- Does a swapped-out cluster let an unstarted one of its grid go first: all its threads wait for the boundary that the unstarted teams
must arrive at (R250)? -/
def State.yields (s : State) (c : Nat) : Bool :=
  (s.grid (s.cluster c).grid).waiting && (List.range' (s.cluster c).t0 (s.cluster c).nt).all s.atBoundary

/-- A grid's lowest swapped-out cluster, of those that yield or of those that do not. -/
def State.outCluster (s : State) (g : Nat) (yields : Bool) : Option Nat :=
  (List.range s.clusters.length).find? fun c =>
    (s.cluster c).grid == g && (s.cluster c).out && !s.clusterEnded c && s.yields c == yields

/-- A grid's swapped-out clusters as the scheduler considers them: the place of one that yields goes to the grid's next cluster first
(R250; log entry 36). -/
def State.outFirst (s : State) (g : Nat) : List (Nat × Option Nat) :=
  (match s.outCluster g false with | some c => [(g, some c)] | none => []) ++
    match s.outCluster g true with | some c => [(g, none), (g, some c)] | none => []

/-- The clusters the scheduler considers, in R426's order. -/
def State.candidates (s : State) : List (Nat × Option Nat) :=
  [3, 2, 1, 0].flatMap fun e =>
    let gs := (List.range s.grids.length).filter fun g => (s.grid g).placeable && (s.grid g).eff % 4 == e
    gs.flatMap s.outFirst ++ (gs.filter fun g => (s.grid g).waiting).map fun g => (g, none)

/-- The first cluster that some rectangle fits (R426). -/
def State.nextPlaced (s : State) : Option ((Nat × Option Nat) × List (Nat × Nat)) :=
  s.candidates.findSome? fun c =>
    match s.fitting c.1 c.2 with
    | [] => none
    | l => some (c, l)

/-! ## Starting teams (R22, R81, R425) -/

/-- A thread as its team starts (Tables 3.4–3.11; R81, R417). -/
def newThread (lr : LaunchRec) (grp lane index : Nat) : Thread :=
  let at_ (a : Nat) : Word := BitVec.ofNat 64 (a % 2 ^ 57 / 32 * 32)
  let stb := lr.stash.toNat + index * lr.stashb.toNat
  { grp, lane, exited := false, pc := lr.entry, slices := List.replicate lr.l.toNat default, pend := [],
    latches := List.replicate 8 (0, .w4), lvl := 0, fb := 0, lc := List.replicate 4 default, ls := List.replicate 4 0,
    x := List.replicate 8 default, stb := at_ stb, stp := at_ stb, stl := at_ (stb + lr.stashb.toNat), spr := 0, tspr := 0,
    fflags := 0, tpc := 0, tnpc := 0, dtag := 0, sqpc := 0, sqinfo := 0, ev := none, age := 0, passed := 0, arrived := 0,
    wait := .none, waitAt := 0, waitNext := 0, waitWord := 0, waitIss := 0, waitRun := 0, held := none, later := none, delay := none }

/-- A group as its team starts. -/
def newGroup (lr : LaunchRec) (team gi slot t0 : Nat) : Group :=
  { team, gi, w := lr.width, slot, t0, m := List.replicate 12 0, a := List.replicate 12 0,
    aff := List.replicate (if lr.width = 64 then 2 else 1) (List.replicate 16 (.promoted 0 0)), tset := 0, tcause := 0, tinst := 0,
    tinfo := 0, fmode := 0, audctl := lr.audctl, audcnt := 0 }

/-- A group is placed in a slot: the slot counts as not having issued since (R430). -/
def State.newSlot (s : State) (core p slot w : Nat) : State :=
  let k := (core * 4 + p) * 32 + slot
  let l := assocSet 0 s.slotLast k 0
  { s with slotLast := if w = 64 then assocSet 0 l (k + 1) 0 else l }

/-- Adds group gi of team t, in a slot (R18). -/
def State.addGroup (s : State) (lr : LaunchRec) (ci ti t gi slot : Nat) : State :=
  let g := s.groups.length
  let t0 := s.threads.length
  let base := ((ci * lr.tpc.toNat + ti) * lr.ngrp.toNat + gi) * lr.width
  let s := s.newSlot (s.team t).core (gi % 4) slot lr.width
  { s with
    groups := s.groups ++ [newGroup lr t gi slot t0]
    threads := s.threads ++ (List.range lr.width).map fun l => newThread lr g l (base + l) }

/-- Adds team ti of cluster c on a core; the core drops the ASID's instruction lines (R466). -/
def State.addTeam (s : State) (lr : LaunchRec) (c ci ti core : Nat) : State :=
  let t := s.teams.length
  let slots := (List.range 4).map fun p => (s.slotsFor core p lr.width ((newGroups lr.ngrp.toNat).getD p 0)).getD []
  let m : Team :=
    { cluster := c, ti, core, g0 := s.groups.length, ng := lr.ngrp.toNat, scratch := default, tags := [],
      bars := List.replicate 16 default, sndc := List.replicate 16 0, arrived := 0, ended := false, saved := [] }
  let s := { s with
    teams := s.teams ++ [m]
    icache := s.icache.filter fun n => !(n.core == core && n.asid == lr.asid.toNat) }
  (List.range lr.ngrp.toNat).foldl (fun s gi => s.addGroup lr ci ti t gi ((slots.getD (gi % 4) []).getD (gi / 4) 0)) s

/-- Starts a grid's next cluster on a rectangle (R23, R426); its reservation ends (R427). -/
def State.startCluster (s : State) (g : Nat) (r : Nat × Nat) : State :=
  let gr := s.grid g
  let lr := gr.lr
  let c := s.clusters.length
  let s := if gr.nextCl = 0 then s.latchDbg g else s
  let m : Cluster :=
    { grid := g, ci := gr.nextCl, t0 := s.teams.length, nt := lr.tpc.toNat, swapping := false, out := false, cmem := default,
      bars := List.replicate 4 default }
  let s := { s with clusters := s.clusters ++ [m] }
  let cs := rectCores lr.w.toNat lr.h.toNat r
  let s := (List.range cs.length).foldl (fun s ti => s.addTeam lr c gr.nextCl ti (cs.getD ti 0)) s
  s.onGrid g fun gr => { gr with nextCl := gr.nextCl + 1, resv := none, evict := false }

/-! ## Reservations (R427) -/

/-- Free slice-file bytes over a rectangle's cores. -/
def State.freeFile (s : State) (cs : List Nat) : Nat :=
  (cs.map fun c => ((List.range 4).map fun p => 196608 - s.sliceUse c p).sum).sum

/-- The rectangle to reserve: off every other reservation, with the greatest free slice file, then the lowest y0 and x0. -/
def State.bestRect (s : State) (g : Nat) : Option (Nat × Nat) :=
  let lr := (s.grid g).lr
  let taken := s.grids.flatMap Grid.reserved
  let ok := (rects lr.w.toNat lr.h.toNat).filter fun r => !(rectCores lr.w.toNat lr.h.toNat r).any taken.contains
  (ok.foldl (fun b r =>
    let f := s.freeFile (rectCores lr.w.toNat lr.h.toNat r)
    match b with
    | some (f', r') => if f' < f then some (f, r) else some (f', r')
    | none => some (f, r)) none).map (·.2)

/-- PLACEAGE_EXPIRY (R427): a grid's next cluster, waiting still, is given a reservation. -/
def execPlaceageExpiry (grid : Nat) (s : State) : Outcome State Fault Refusal :=
  .next (let g := s.grid grid
    if g.waiting && g.resv.isNone then
      (match s.bestRect grid with
       | some r => s.onGrid grid fun g => { g with resv := some r }
       | none => s)
    else s)

/-- A run is given up: its threads go back to its first chain (R41, R454). -/
def State.dropRun (s : State) (r : Run) : State :=
  let g := s.group r.grp
  let s := r.lanes.foldl (fun s l => s.onThread (g.t0 + l) fun th => { th with pc := r.first }) s
  { s with runs := s.runs.filter (· != r) }

/-- A swap decision (R452, R454): no chain of the cluster issues any more; a cluster whose teams have all ended just ends. -/
def State.decideSwap (s : State) (c : Nat) : State :=
  if (s.cluster c).out || s.clusterEnded c then s
  else
    let s := (s.runs.filter fun r => (s.team (s.group r.grp).team).cluster == c).foldl State.dropRun s
    s.onCluster c fun c => { c with swapping := true }

/-- PLACEEVICT_EXPIRY (R427): the reservation's teams of strictly lower effective priority are pre-empted; if another remains, one
placement-stall event is logged. -/
def execPlaceevictExpiry (grid : Nat) (s : State) : Outcome State Fault Refusal :=
  .next (let g := s.grid grid
    if g.waiting && g.resv.isSome && !g.evict then
      (let ts := (g.reserved.flatMap s.resident).filter fun t => !s.teamEnded t
       let eff (t : Nat) : Nat := (s.grid (s.cluster (s.team t).cluster).grid).eff
       let s1 := (ts.filter fun t => decide (eff t < g.eff)).foldl (fun s t => s.decideSwap (s.team t).cluster) s
       let s2 := s1.onGrid grid fun g => { g with evict := true }
       if ts.any fun t => decide (g.eff ≤ eff t) then s2.logEvent 4 g.lr.asid.toNat 511 g.handle (BitVec.ofNat 64 g.nextCl) else s2)
    else s)

/-! ## Teams and grids that end -/

/-- A team ends (R192, R295, R338): its windows drain, and it gives up its claims; what the units hold stands until they are claimed
again (R294). -/
def State.endTeam (s : State) (t : Nat) : State :=
  let s := s.onTeam t fun m => { m with ended := true, saved := [] }
  { s with
    wins := s.wins.map fun (i, w) => (i, if w.team = t ∧ (w.st = .opened ∨ w.st = .closed) then { w with st := .draining } else w)
    mxus := s.mxus.map fun (u, m) => (u, if m.claim = some t then { m with claim := none } else m) }

/-- An issued access or request of a grid that is stopped takes effect or is cancelled (R424). -/
def State.spare {α : Type} (p : α → Bool) : List α → State → List α × State
  | [], s => ([], s)
  | a :: r, s =>
    if p a then
      let keep := s.choose 2 == 0
      let (l, s) := State.spare p r s.next
      (if keep then a :: l else l, s)
    else
      let (l, s) := State.spare p r s
      (a :: l, s)

/-- May an access of a stopped grid still be performed? -/
def Acc.mayLand (a : Acc) : Bool :=
  a.st == .ready && a.space == .glob && !a.parked && a.pend.isNone && (match a.op with | .waitv .. => false | _ => true)

/-- Ends every team of a grid (R424, R447): threads stop, engine work and transfers are cancelled, teams are discarded. -/
def State.killGrid (s : State) (g out : Nat) : State :=
  let ts := s.gridTeams g
  let ths := ts.flatMap s.teamThreads
  let ids := (s.ops.filter fun o => o.grid == g).map (·.id)
  let mine (a : Acc) : Bool := ths.contains a.thread
  let accs := s.accs.filter fun a => !mine a || a.mayLand
  let reqs := s.reqs.filter fun r => !(r.grid == g) ||
    (r.entry.isNone && !r.refused && match r.kind with | .grmask .. => false | _ => true)
  let (accs, s) := State.spare mine accs s
  let (reqs, s) := State.spare (fun r : SeqReq => r.grid == g) reqs s
  let arrs := s.arrs.filterMap fun a => match a.op with
    | some o =>
      if ids.contains o then
        (match a.st with
         | .held | .done | .refusal _ => none
         | _ => if a.acc = s.accid.toNat then some { a with op := none, late := true } else none)
      else some a
    | none => some a
  let s := { s with
    accs, reqs, arrs
    ops := s.ops.filter fun o => o.grid != g
    locks := s.locks.filter fun k => !ids.contains k.op
    hcalls := s.hcalls.filter fun h => !ths.contains h.thread
    runs := s.runs.filter fun r => !ts.contains (s.group r.grp).team
    decs := s.decs.filter fun d => !ts.contains (s.group d.issue.grp).team
    deques := s.deques.filter fun e => e.grid != g }
  let s := ths.foldl (fun s t => s.onThread t fun th => { th with exited := true, wait := .none, pend := [], ev := none }) s
  let s := (ts.filter fun t => !(s.team t).ended).foldl State.endTeam (s.dropDrafters ths.contains)
  s.onGrid g fun gr => { gr with stop := some out, resv := none, wait := none }

/-! ## Saved contexts (R456) -/

/-- The wait field of a thread record (Table 18.9). -/
def Thread.waitCode (th : Thread) : Nat :=
  match th.wait with
  | .none | .yield _ | .fatal => 0
  | .jwait _ => 1
  | .cross _ _ _ => 2
  | .barrier _ _ _ _ => 3
  | .phase _ _ => 4
  | .deferred => 6
  | _ => 5

/-- FRM's layout (Table 3.4). -/
def Thread.frm (th : Thread) : Nat := th.lvl.toNat * 1024 + th.fb.toNat

/-- A loop counter's layout (Table 3.5). -/
def LoopCtr.word (c : LoopCtr) : Nat := c.step.toNat * 2 ^ 57 + c.count.toNat

/-- An index register's layout (Table 3.9). -/
def IndexReg.word (x : IndexReg) : Nat :=
  x.idx.toNat * 2 ^ 48 + x.ew.toNat * 2 ^ 40 + x.lim.toNat * 2 ^ 16 + x.base.toNat

/-- A thread record (Table 18.9). -/
def Thread.record (th : Thread) (tset : Bool) : List Byte :=
  let ws : List Nat :=
    [th.pc.toNat, th.frm] ++ th.lc.map LoopCtr.word ++ th.ls.map (·.toNat) ++ th.x.map IndexReg.word ++
      [th.stb.toNat, th.stp.toNat, th.stl.toNat, th.spr.toNat + 256 * th.tspr.toNat, th.fflags.toNat, th.tpc.toNat, th.tnpc.toNat,
       th.dtag.toNat, th.sqpc.toNat, th.sqinfo.toNat,
       th.waitCode * 2 ^ 61 + (if th.wait = .none then th.pc.toNat else th.waitAt.toNat) % 2 ^ 57,
       (match th.ev with | some (i, _) => i.toNat + 2 ^ 62 | none => 0), th.passed,
       (if th.exited then 1 else 0) + (if tset then 2 else 0)]
  ws.flatMap (natLe 8)

/-- A length rounded up to a multiple of 256. -/
def pad256 (n : Nat) : Nat := (n + 255) / 256 * 256

/-- The offsets and lengths of a context area's eight sections, each after the other (Table 18.8). -/
def ctxSections (lr : LaunchRec) (units restarts : Nat) : List (Nat × Nat) :=
  let lens := [256, 256 * (lr.ngrp.toNat * lr.width), 1024 * lr.ngrp.toNat,
    lr.ngrp.toNat * (lr.groupBytes + lr.width * lr.l.toNat / 8), 1024, 135168 * units,
    256 * (lr.scr.toNat + lr.cmem.toNat) + (lr.scr.toNat + lr.cmem.toNat + 1) / 2, 64 * restarts]
  (lens.foldl (fun (l, a) n => (l ++ [(a, n)], a + pad256 n)) (([] : List (Nat × Nat)), 0)).1

/-- Nibbles as bytes, the first in the low half (R64). -/
def packNibbles : List Nat → List Byte
  | a :: b :: r => BitVec.ofNat 8 (a + 16 * b) :: packNibbles r
  | [a] => [BitVec.ofNat 8 a]
  | [] => []

/-- Bits as bytes, the first in bit 0. -/
def packBits (bs : List Bool) : List Byte :=
  natLe (bs.length / 8) (bs.foldr (fun b v => 2 * v + if b then 1 else 0) 0)

/-- Bytes of a record whose form is open, of what it holds (R456). -/
def heldBytes {α : Type} (x : α) (n : Nat) : List Byte := (List.range n).map (Config.recordByte x)

/-- What an affine register's backing holds of a lane: the offset of one demoted (R112). -/
def AffReg.backing (r : AffReg) (l : Nat) : Option (BitVec 32) :=
  match r with
  | .promoted _ _ => none
  | .demoted _ off => off[l]?

/-- A group record (Table 18.8): member and arrival sets, affine registers, trap state, FMODE, AUDCTL and AUDCNT, and the lanes' arrivals
at class F words. -/
def State.groupRecord (s : State) (g : Group) : List Byte :=
  let cross (th : Thread) : Option Word := match th.wait with | .cross _ _ _ => some th.waitAt | _ => th.arrival.map (·.2)
  heldBytes (g.m, g.a, g.aff, g.tset, g.tcause, g.tinst, g.tinfo, g.fmode, g.audctl, g.audcnt,
    (List.range g.w).map fun l => cross (s.thread (g.t0 + l))) 1024

/-- A team record (Table 18.8): SNDC0–SNDC15, the team's and its cluster's barriers, its phase arrival, and the handles of its closed
windows. -/
def State.teamRecord (s : State) (team : Nat) : List Byte :=
  let m := s.team team
  let closed := s.wins.filterMap fun (i, w) => if w.team = team ∧ w.st = .closed then some (i, w.gen) else none
  heldBytes (m.sndc, m.bars, (s.cluster m.cluster).bars, m.arrived, closed) 1024

/-- A team's slice images and poison bits, from an offset (Table 18.8): group by group, lane by lane, each lane's slices before its affine
backing, whose form is open. -/
def State.sliceParts (s : State) (lr : LaunchRec) (team off : Nat) : List (Nat × List Byte) :=
  let lane := (lr.l.toNat + 8 * lr.aback.toNat) / 2
  (List.range (s.team team).ng).flatMap fun k =>
    let g := s.group ((s.team team).g0 + k)
    let base := off + k * (lr.groupBytes + lr.width * lr.l.toNat / 8)
    let sl (l : Nat) : List Slice := (s.thread (g.t0 + l)).slices
    ((List.range lr.width).flatMap fun l => [(base + l * lane, packNibbles ((sl l).map (·.v.toNat))),
      (base + l * lane + lr.l.toNat / 2, heldBytes ((g.aff.flatMap id).map (·.backing l)) (4 * lr.aback.toNat))]) ++
      [(base + lr.groupBytes, packBits ((List.range lr.width).flatMap fun l => (sl l).map (·.poison)))]

/-- The context of a team with its restart records, at an address of firmware's choice (R447, R456): header, thread records, slices,
group and team records, matrix state, scratchpad with its line tags (those of cluster memory are never written, R276), and what R455 states
of the restart records. The form of what a section holds without a stated one is open. -/
def State.saveCtx (s : State) (g team : Nat) (recs : List (List Byte)) : Ctx :=
  let restarts := recs.length
  let lr := (s.grid g).lr
  let m := s.team team
  let c := s.cluster m.cluster
  let units := (List.range 4).filter fun p => (s.mxu (m.core * 4 + p)).claim == some team
  let secs := ctxSections lr units.length restarts
  let at_ (k : Nat) : Nat := (secs.getD k (0, 0)).1
  let hdr := [0x43, 0x54, 0x58, 0x01].map (BitVec.ofNat 8) ++ natLe 4 (s.grid g).handle.toNat ++ natLe 2 c.ci ++ natLe 1 m.ti ++
    natLe 1 lr.ngrp.toNat ++ natLe 1 lr.wcode.toNat ++ natLe 1 lr.aback.toNat ++ natLe 2 lr.l.toNat ++ natLe 4 restarts ++
    natLe 1 (units.foldl (fun v p => v + 2 ^ p) 0) ++ natLe 3 0 ++ (List.range 7).flatMap (fun k => natLe 8 (at_ (k + 1))) ++ natLe 176 0
  let ths := (s.teamThreads team).flatMap fun t => (s.thread t).record (laneIn (s.group (s.thread t).grp).tset (s.thread t).lane)
  let part := c.cmem.read (m.ti * 256 * lr.cmem.toNat) (256 * lr.cmem.toNat)
  let last := secs.getLastD (0, 0)
  let tags := packNibbles ((List.range (lr.scr.toNat + lr.cmem.toNat)).map fun k => (assocGet 0 m.tags k).toNat)
  let grps := (List.range m.ng).map fun k => (at_ 2 + 1024 * k, s.groupRecord (s.group (m.g0 + k)))
  let tiles := (List.range units.length).flatMap fun k =>
    let u := s.mxu (m.core * 4 + units.getD k 0)
    [(at_ 5 + 135168 * k, u.tiles.flatMap fun t => t.words.flatMap fun w => natLe 4 w.toNat),
     (at_ 5 + 135168 * k + 65536, heldBytes (u.wb, u.tiles.map (·.owner)) 69632)]
  { handle := (s.grid g).handle, addr := Config.freeChoice s.tick % (hbmSize / 256) * 256, len := last.1 + last.2, seed := s.tick,
    parts := [(0, hdr), (at_ 1, ths), (at_ 6, m.scratch.read 0 (256 * lr.scr.toNat) ++ part ++ tags)] ++
      grps ++ s.sliceParts lr team (at_ 3) ++ (at_ 4, s.teamRecord team) :: tiles ++ (List.range recs.length).map fun k => (at_ 7 + 64 * k, recs.getD k []) }

/-- GRID_FATAL_TRAP (R447, R473): the faulting team's context is kept while fewer than 16 are, and the grid ends. -/
def execGridFatalTrap (grid : Nat) (s : State) : Outcome State Fault Refusal :=
  .next (let gr := s.grid grid
    match gr.fatal with
    | some f =>
      if gr.ended || gr.stop.isSome then s
      else
        let room := decide (s.ctxs.length < 16)
        let ctx := s.saveCtx grid f.team []
        let core := (s.team f.team).core
        let s1 := if room then { s.next with ctxs := s.ctxs ++ [ctx] } else s
        (s1.logEvent 6 gr.lr.asid.toNat core gr.handle (if room then BitVec.ofNat 64 ctx.addr else 0)).killGrid grid 1
    | none => s)

/-! ## SCHEDCMD (R424) -/

/-- A SCHEDCMD reaches a launch of the table, unless the module has stopped in boot (R475). -/
def State.schedCmd (s : State) (h : W32) (f : Nat → State) : State :=
  match s.launchOf h with
  | some g => if s.regs.bootState = 3 ∨ (s.grid g).stop.isSome = true then s else f g
  | none => s

/-- SCHEDCMD abort (R424). -/
def execSchedcmdAbort (handle : W32) (s : State) : Outcome State Fault Refusal :=
  .next (s.schedCmd handle fun g => s.killGrid g 2)

/-- SCHEDCMD suspend (R424): every team is swapped out, and none is placed. -/
def execSchedcmdSuspend (handle : W32) (s : State) : Outcome State Fault Refusal :=
  .next (s.schedCmd handle fun g =>
    ((List.range s.clusters.length).filter fun c => (s.cluster c).grid == g).foldl State.decideSwap
      (s.onGrid g fun gr => { gr with susp := true, resv := none, evict := false }))

/-- SCHEDCMD resume (R424). -/
def execSchedcmdResume (handle : W32) (s : State) : Outcome State Fault Refusal :=
  .next (s.schedCmd handle fun g => s.onGrid g fun gr => { gr with susp := false })

/-! ## Completion (R423) -/

/-- What writing a completion record gives: written, not to be written, or an untranslatable address. -/
inductive CrecRes
  | written
  | none
  | miss (va : Nat)
deriving DecidableEq, Repr

/-- May a completion record be written at an address (R423)? -/
def State.crecOk (s : State) (asid a : Nat) : Bool :=
  a != 0 && a % 32 == 0 && decide (a + 32 ≤ 2 ^ 57) && (s.windowHit asid a 32).isNone

/-- Writes bytes 8–31 of a completion record with strong stores, then adds 1 to COUNT (R423 step 2); a poisoned unit is logged and
left as it is (R321). -/
def State.crecWrite (s : State) (asid a : Nat) (handle : W32) (v : Nat) : CrecRes × State :=
  if s.crecOk asid a then
    match s.xlate asid a with
    | (.miss, s) => (.miss a, s)
    | (.ok pa true true _, s) =>
      if s.hbm.pzIn pa 32 then (.none, s.logEvent 1 asid 511 handle (permInfo 0 a))
      else
        let put (s : State) (k n x : Nat) : State := s.storeGlob hardwareWho asid (a + k) (pa + k) (natLe n x) false
        let s := put (put (put s 8 8 (v % 2 ^ 64)) 16 8 (v / 2 ^ 64 % 2 ^ 64)) 24 8 (v / 2 ^ 128)
        let s := put s 0 8 ((leNat (s.hbmSeen pa 8) + 1) % 2 ^ 64)
        let s := s.rewatch fun x => x.space == .glob && x.owner == asid && overlap x.addr x.len a 32
        (.written, s.redeps asid fun d => overlap d 8 a 32)
    | (_, s) => (.none, s)
  else (.none, s)

/-- OUTCOME (Table 17.4). -/
def Grid.outcome (g : Grid) : Nat := g.stop.getD 0

/-- Bytes 8–31 of a launch's completion record (Table 17.4). -/
def Grid.crecVal (g : Grid) : Nat :=
  let f : FatalTrap := if g.outcome = 1 then g.fatal.getD ⟨0, 0, 0, 0, 0⟩ else ⟨0, 0, 0, 0, 0⟩
  g.outcome + f.cause % 256 * 2 ^ 8 + g.reason % 2 ^ 16 * 2 ^ 16 + g.handle.toNat * 2 ^ 32 + f.tpc.toNat * 2 ^ 64 + f.tinfo.toNat * 2 ^ 128

/-- Has a grid nothing left to do (R423)? -/
def State.gridIdle (s : State) (g : Nat) : Bool :=
  let ts := s.gridTeams g
  let ths := ts.flatMap s.teamThreads
  ts.all s.teamEnded && !(s.accs.any fun a => ths.contains a.thread && !a.performed) && !(s.ops.any fun o => o.grid == g) &&
    !(s.reqs.any fun r => r.grid == g && !r.kind.sched)

/-- May a launch complete now (R423)? -/
def State.completes (s : State) (g : Nat) : Bool :=
  let gr := s.grid g
  !gr.ended && gr.wait.isNone &&
    (decide (gr.reason ≠ 0) || (s.gridIdle g && (gr.stop.isSome || (gr.fatal.isNone && decide (gr.nextCl = gr.lr.ncl.toNat)))))

/-- A launch completes (R423): its phase's accesses settle, every core drops the ASID's L1 lines, the record is written, VEC is
raised and the entry is freed. `lost` says that the record's translation has been declared unresolvable. -/
def State.complete (s : State) (g : Nat) (lost : Bool) : State :=
  let gr := s.grid g
  let asid := gr.lr.asid.toNat
  let s := if gr.reason = 0 then
      (List.range 256).foldl (fun s c => s.dropL1 c asid fun _ _ => true) (s.settle g)
    else s
  match if lost then (CrecRes.none, s) else s.crecWrite asid gr.lr.crec.toNat gr.handle gr.crecVal with
  | (.miss va, s) =>
    let (s, e) := s.attach 256 asid 3 va (.launch g)
    s.onGrid g fun gr => { gr with wait := e }
  | (w, s) =>
    let s := if gr.reason ≠ 0 ∧ w ≠ .written then
        s.logEvent 8 asid 511 0 (BitVec.ofNat 64 (gr.reason + gr.queue * 65536))
      else s
    let s := if gr.lr.irq then s.raiseVec gr.lr.vec.toNat else s
    let s := { s.freeEntry gr.entry with deques := s.deques.filter fun e => e.grid != g }
    s.onGrid g fun gr => { gr with ended := true, resv := none }

/-- LAUNCH_COMPLETE (R423). -/
def execLaunchComplete (grid : Nat) (s : State) : Outcome State Fault Refusal :=
  .next (if s.completes grid then s.complete grid false else s)

end Machine
end Sys2Proof
end

