-- ==== Sys2Proof/Machine/Swap.lean ====
section
/-! DEFINITION. Placement of clusters, and pre-emption: swap decisions, restart records, swap-out and swap-in (17 R426, R428;
18 R452–R457; 10 R250). -/

namespace Sys2Proof
namespace Machine
open Host

/-! ## Swap decisions (R250, R452) -/

/-- May a team be swapped out for a team of its grid that has not started (R250)? -/
def State.phaseSwap (s : State) (t : Nat) : Bool :=
  let g := (s.cluster (s.team t).cluster).grid
  (s.grid g).waiting && !s.teamEnded t && s.atBoundary t &&
    (s.fitting g none).isEmpty

/-- Does a reservation past PLACEEVICT claim the team's core over its priority (R427)? -/
def State.evicted (s : State) (t : Nat) : Bool :=
  let e := (s.grid (s.cluster (s.team t).cluster).grid).eff
  s.grids.any fun h => h.waiting && h.evict && decide (e < h.eff) && h.reserved.contains (s.team t).core

/-- Has the scheduler a reason to swap a placed team out (R452)? -/
def State.swapCause (s : State) (t : Nat) : Bool :=
  let c := (s.team t).cluster
  !(s.cluster c).out && !(s.cluster c).swapping && !s.teamEnded t && (s.grid (s.cluster c).grid).alive &&
    ((s.grid (s.cluster c).grid).susp || s.evicted t || s.phaseSwap t)

/-- SWAP_DECISION (R452): the team's whole cluster stops issuing. -/
def execSwapDecision (team : Nat) (s : State) : Outcome State Fault Refusal :=
  .next (if s.swapCause team then s.decideSwap (s.team team).cluster else s)

/-! ## Restart records (R454, R455) -/

/-- Is a team between its swap decision and its swap-out? -/
def State.swappingTeam (s : State) (t : Nat) : Bool :=
  (s.cluster (s.team t).cluster).swapping && !(s.cluster (s.team t).cluster).out

/-- May an operation become a restart record: stalled on a translation fault or behind a restart record, an ATTN on an offloaded page, or
a GET without its answer (Table 18.7, R347)? -/
def State.parks (s : State) (o : EngOp) : Bool :=
  match o.kind with
  | .drain _ | .mask _ => false
  | .attn a => a.accepted && a.pages.any s.isOff
  | k => match o.st with
    | .faulted _ | .refused => true
    | .run => s.opBehind o (·.parked) || (match k with | .xfer x => x.get && x.sent | _ => false)
    | .locking => false

/-- Is it a DRAIN? -/
def OpKind.isDrain : OpKind → Bool
  | .drain _ => true
  | _ => false

/-- May an access become a restart record: stalled on a translation fault, or behind a restart record (R454)? One that a DRAIN waits for
may not, since DRAINs always complete (R318). -/
def State.accParks (s : State) (a : Acc) : Bool :=
  !(s.ops.any fun o => o.kind.isDrain && s.opBehind o (·.id == a.id)) &&
    match a.st with
    | .faulted _ | .refused => true
    | .ready => !a.parked && s.accs.any fun o => o.parked && s.before o a
    | _ => false

/-- Destinations that have been sent belong to no operation any more: what still comes of them is discarded (R347). -/
def State.disown (s : State) (id : Nat) : State :=
  let mine := s.arrs.filter fun a => a.op == some id
  let old := mine.filterMap fun (a : Arrival) =>
    match a.st with
    | .held | .done | .refusal _ => none
    | _ => if a.handle.toNat / 2 ^ 23 = s.accid.toNat then some { a with op := none, late := true } else none
  let new := (List.range mine.length).map fun k =>
    let a := mine.getD k default
    { a with id := s.nextId + k, bytes := [], pz := [], more := false, late := false, st := .held }
  { s with arrs := (s.arrs.filter fun a => a.op != some id) ++ old ++ new, nextId := s.nextId + mine.length }

/-- An operation becomes a restart record; a transfer will be sent whole again (R347). -/
def State.parkOp (s : State) (o : EngOp) : State :=
  let s := match o.kind with
    | .xfer x => (s.disown o.id).onOp o.id fun o => { o with kind := .xfer { x with sent := false } }
    | _ => s
  s.onOp o.id fun o => { o with st := .run, parked := true, engine := false }

/-- SWAPWAIT_EXPIRY (R454): an access or operation stalled for SWAPWAIT after the decision becomes a restart record. -/
def execSwapwaitExpiry (id : Nat) (s : State) : Outcome State Fault Refusal :=
  .next (match s.accs.find? fun a => a.id == id with
    | some a =>
      if s.swappingTeam (s.teamOf a.thread) && s.accParks a then s.onAcc id fun a => { a with st := .ready, parked := true } else s
    | none => match s.opOf id with
      | some o => if s.swappingTeam o.team && !o.parked && s.parks o then s.parkOp o else s
      | none => s)

/-! ## Swap-out (R453, R454) -/

/-- Is an operation not issued yet: its word stalls for range-lock entries (R253)? -/
def EngOp.unissued (o : EngOp) : Bool := o.st == .locking

/-- Is a request's word not issued yet: a GRMASK that stalls for its entry (R407)? -/
def State.reqUnissued (s : State) (r : SeqReq) : Bool :=
  match r.kind with
  | .grmask _ _ op => (match s.opOf op with | some o => o.unissued | none => false)
  | _ => false

/-- Has a team reached step 5 of R454? A word that stalls for range-lock entries is saved as waiting (R453). -/
def State.teamQuiet (s : State) (t : Nat) : Bool :=
  let ths := s.teamThreads t
  ths.all (fun u => (s.thread u).pend.all fun w => !w.known) &&
    (s.accs.all fun a => !ths.contains a.thread || a.parked || a.st == .watch) &&
    (s.ops.all fun o => o.team != t || o.parked || o.unissued) && (s.reqs.all fun r => !ths.contains r.thread || s.reqUnissued r) &&
    (s.hcalls.all fun h => !ths.contains h.thread) && ths.all (fun u => !s.deciding u) && (s.mxus.all fun (_, m) => m.claim != some t || m.passes.isEmpty) &&
    s.wins.all fun (i, w) => w.team != t || !s.winBusy i

/-- May a cluster's contexts be saved? -/
def State.swapReady (s : State) (c : Nat) : Bool :=
  (s.cluster c).swapping && !(s.cluster c).out && !s.clusterEnded c &&
    (List.range' (s.cluster c).t0 (s.cluster c).nt).all s.teamQuiet

/-- One team's context is saved (R454 steps 4 and 5): its windows close, its matrix state and its operations' range-lock entries go
with it, and its claims are given up. -/
def State.saveTeam (s : State) (t : Nat) : State :=
  let ths := s.teamThreads t
  let core := (s.team t).core
  let mine := (s.ops.filter fun o => o.team == t).map (·.id)
  let held (o : Nat) : List (Bool × Space × Nat × Nat × Nat) :=
    (s.locks.filter fun k => k.op == o).map fun k => (k.dst, k.space, k.owner, k.base, k.len)
  let saved := s.mxus.filterMap fun (u, m) => if m.claim = some t then some (u - core * 4, m) else none
  let s := { s with
    wins := s.wins.map fun ((i, w) : Nat × Win) => (i, if w.team = t ∧ w.st = WinSt.opened then { w with st := .closed } else w)
    mxus := s.mxus.filter fun ((_, m) : Nat × Mxu) => m.claim != some t
    ops := s.ops.map fun (o : EngOp) => if o.team = t ∧ o.parked = true then { o with want := held o.id } else o
    locks := s.locks.filter fun (k : Lock) => !mine.contains k.op
    accs := s.accs.map fun (a : Acc) => if ths.contains a.thread then { a with parked := true } else a }
  s.onTeam t fun m => { m with saved }

/-- The kind of an operation's restart record (Table 18.7). -/
def OpKind.restart : OpKind → Nat
  | .copy _ => 1
  | .wbload _ => 2
  | .xfer x => if x.get then 4 else 3
  | .attn _ => 5
  | _ => 6

/-- What R455 states of a restart record: kind, issuing thread's index in the team, mask of the range-lock entries it keeps. -/
def restartBytes (kind index : Nat) (locks : List Nat) : List Byte :=
  natLe 1 kind ++ natLe 3 index ++ natLe 4 (locks.foldl (fun v i => v + 2 ^ i) 0)

/-- Puts a numbered item at its place in a rising list. -/
def insertId {α : Type} (x : Nat × α) : List (Nat × α) → List (Nat × α)
  | [] => [x]
  | y :: r => if x.1 ≤ y.1 then x :: y :: r else y :: insertId x r

/-- A team's restart records in order of issue (R455, R457). -/
def State.restarts (s : State) (t : Nat) : List (List Byte) :=
  let t0 := (s.group (s.team t).g0).t0
  let accs := (s.accs.filter fun a => s.teamOf a.thread == t && a.parked && a.st != .watch).map fun a =>
    (a.id, restartBytes 7 (a.thread - t0) [])
  let ops := (s.ops.filter fun o => o.team == t && o.parked).map fun o =>
    (o.id, restartBytes o.kind.restart (o.thread - t0) ((s.locks.filter fun k => k.op == o.id).map (·.idx)))
  ((accs ++ ops).foldr insertId []).map (·.2)

/-- A team's context is written to its area of HBM4 (R454 step 5, R456); its restart records are its stalled accesses and
operations (Table 18.7). -/
def State.saveArea (s : State) (t : Nat) : State :=
  let c := s.saveCtx (s.cluster (s.team t).cluster).grid t (s.restarts t)
  { s.next with areas := (s.areas.filter fun (k, _) => k != t) ++ [(t, c)] }

/-- SWAP_OUT (R454): the contexts of a cluster's teams are saved and its resources freed. -/
def execSwapOut (cluster : Nat) (s : State) : Outcome State Fault Refusal :=
  .next (if s.swapReady cluster then
      (let ts := (List.range' (s.cluster cluster).t0 (s.cluster cluster).nt).filter fun t => !s.teamEnded t
       (ts.foldl State.saveTeam (ts.foldl State.saveArea s)).onCluster cluster fun c => { c with swapping := false, out := true })
    else s)

/-! ## Swap-in (R457) -/

/-- The slots of a team's groups on a core: each live group's, in order of index within its partition. -/
def State.assignSlots (s : State) (t core : Nat) : State :=
  let lr := s.lrTeam t
  (List.range 4).foldl (fun s p =>
    let gs := (s.liveGroups t).filter fun g => (s.group g).partition == p
    let sl := (s.slotsFor core p lr.width gs.length).getD []
    (List.range gs.length).foldl (fun s k =>
      (s.newSlot core p (sl.getD k 0) lr.width).onGroup (gs.getD k 0) fun g => { g with slot := sl.getD k 0 }) s) s

/-- An operation on the core its team lands on; a restart record waits for its range-lock entries. -/
def EngOp.moved (o : EngOp) (core : Nat) : EngOp :=
  { o with core, st := if o.parked && !o.can then .locking else o.st, parked := o.parked && !o.can,
           kind := match o.kind with | .wbload w => .wbload { w with unit := core * 4 + w.unit % 4 } | k => k }

/-- A waiting thread on the core its team lands on: YIELD delays and reads to be issued again are dropped (R180, R222). -/
def Wait.moved (w : Wait) (core : Nat) : Wait :=
  match w with
  | .yield _ | .xlate _ _ => .none
  | .acq u n => .acq (core * 4 + u % 4) n
  | w => w

/-- Restores one team on a core (R457). -/
def State.restoreTeam (s : State) (t core : Nat) : State :=
  let ths := s.teamThreads t
  let asid := (s.lrTeam t).asid.toNat
  let s := s.assignSlots t core
  let s := (s.team t).saved.foldl (fun s (p, m) => s.onMxu (core * 4 + p) fun _ => m) s
  let s := s.onTeam t fun m => { m with core, saved := [] }
  let s := ths.foldl (fun s u => s.onThread u fun th => { th with age := 0, wait := th.wait.moved core }) s
  { s with
    icache := s.icache.filter fun n => !(n.core == core && n.asid == asid)
    accs := s.accs.map fun (a : Acc) => if ths.contains a.thread ∧ a.parked = true then { a with st := .ready, parked := false } else a
    reqs := s.reqs.map fun (r : SeqReq) => if ths.contains r.thread then { r with part := core * 4 + r.part % 4 } else r
    ops := s.ops.map fun (o : EngOp) => if o.team = t then o.moved core else o }

/-- Swaps a cluster in on a rectangle (R457); records that a SQUASH has cancelled end (R413). -/
def State.swapIn (s : State) (c : Nat) (r : Nat × Nat) : State :=
  let lr := (s.grid (s.cluster c).grid).lr
  let cs := rectCores lr.w.toNat lr.h.toNat r
  let s := (List.range cs.length).foldl (fun s k => s.restoreTeam ((s.cluster c).t0 + k) (cs.getD k 0)) s
  let s := s.onCluster c fun m => { m with out := false }
  ((s.ops.filter fun o => o.can && (s.team o.team).cluster == c).foldl State.cancelOp s)

/-- The rectangle that a cluster is placed on: the reserved one once it fits (R427), else one of hardware's choice (R426). -/
def State.placeAt (s : State) (g : Nat) (c : Option Nat) (l : List (Nat × Nat)) : Nat × Nat :=
  match c, (s.grid g).resv with
  | none, some r => if l.contains r then r else l.getD (s.choose l.length) (0, 0)
  | _, _ => l.getD (s.choose l.length) (0, 0)

/-- Places the scheduler's next cluster if the test selects it (R426). -/
def State.placeNext (s : State) (p : Nat → Option Nat → Bool) : State :=
  match s.nextPlaced with
  | some ((g, c), l) =>
    if p g c then
      let r := s.placeAt g c l
      match c with
      | none => s.next.startCluster g r
      | some c => s.next.swapIn c r
    else s
  | none => s

/-- TEAM_PLACE (R426): the next cluster is placed. -/
def execTeamPlace (s : State) : Outcome State Fault Refusal := .next (s.placeNext fun _ _ => true)

/-- SWAP_IN (R426, R457): a swapped-out cluster is placed when its turn comes. -/
def execSwapIn (cluster : Nat) (s : State) : Outcome State Fault Refusal := .next (s.placeNext fun _ c => c == some cluster)

end Machine
end Sys2Proof
end

