-- ==== Sys2Proof/Machine/System.lean ====
section
/-! DEFINITION. Class P: traps and TRET, system registers, HCALL, XINV and FMODE (18 R448–R451, R460–R467). -/

namespace Sys2Proof
namespace Machine
open Host

/-! ## TRAP, BKPT and TRET (R462, R463) -/

/-- TRAP (R462). -/
def execTrap (g : Guard) (code : BitVec 14) (s : State) : Outcome State Fault Refusal :=
  .next (s.lanes (.trap g code) offMem fun _ _ => .fault 0x11 (code.setWidth 64))

/-- BKPT (R462). -/
def execBkpt (g : Guard) (code : BitVec 14) (s : State) : Outcome State Fault Refusal :=
  .next (s.lanes (.bkpt g code) offMem fun _ _ => .fault 0x12 (code.setWidth 64))

/-- A lane of the trap set returns (R463). -/
def State.returnLane (s : State) (skip : Bool) (l : Nat) : LaneRes :=
  if laneIn s.ig.tset l then .ok ((s.onIg fun g => { g with tset := laneDel g.tset l }).onLane l (·.trapReturn skip))
  else .fault 0x01 0

/-- When the trap set has emptied, the group's deferred threads become ready (R444, R463). -/
def State.afterReturn (s : State) : State := if s.ig.tset = 0 then s.wakeDeferred s.issue.grp else s

/-- TRET (R463). -/
def execTret (g : Guard) (s : State) : Outcome State Fault Refusal :=
  .next (s.lanesThen (.tret g) offMem (fun s l => s.returnLane false l) State.afterReturn)

/-- TRET.SKIP (R463). -/
def execTretSkip (g : Guard) (s : State) : Outcome State Fault Refusal :=
  .next (s.lanesThen (.tretSkip g) offMem (fun s l => s.returnLane true l) State.afterReturn)

/-! ## System registers (R448–R451, R464) -/

/-- Is the number in Table 18.2? -/
def sysKnown (r : Nat) : Bool :=
  decide (r ≤ 0x009) || (decide (0x010 ≤ r) && decide (r ≤ 0x01C)) || (decide (0x020 ≤ r) && decide (r ≤ 0x026)) ||
    (decide (0x100 ≤ r) && decide (r ≤ 0x106)) || (decide (0x201 ≤ r) && decide (r ≤ 0x209)) ||
    (decide (0x210 ≤ r) && decide (r ≤ 0x21F)) || (decide (0x300 ≤ r) && decide (r ≤ 0x305)) ||
    (decide (0x310 ≤ r) && decide (r ≤ 0x33F)) || (decide (0x380 ≤ r) && decide (r ≤ 0x3FF))

/-- Is the register read-only to threads (Table 18.2)? -/
def sysReadOnly (r : Nat) : Bool :=
  r == 0x000 || r == 0x018 || r == 0x026 || (decide (0x100 ≤ r) && decide (r ≤ 0x102)) ||
    (decide (0x201 ≤ r) && decide (r ≤ 0x209)) || decide (0x380 ≤ r)

/-- The fault that a register number raises for the whole issue set (R449). -/
def sysFault (r : Nat) (write : Bool) : Option (Nat × Word) :=
  if !sysKnown r || (write && sysReadOnly r) then some (0x02, 0)
  else if 0x300 ≤ r then some (0x08, permInfo 6 r)
  else none

/-- TID of a lane (Table 18.5). -/
def State.tid (s : State) (l : Nat) : Word :=
  let m := s.team s.ig.team
  BitVec.ofNat 64 ((s.cluster m.cluster).ci * 2 ^ 32 + m.ti * 2 ^ 16 + s.ig.gi * 2 ^ 8 + l)

/-- KVPOOL (Table 15.3). -/
def State.kvpoolVal (s : State) : Word := BitVec.ofNat 64 (s.kvTotal % 2 ^ 22 * 2 ^ 32 + s.kvFree % 2 ^ 22)

/-- GRPOOL (Table 16.1). -/
def State.grpoolVal (s : State) : Word := BitVec.ofNat 64 (nodeTotal * 2 ^ 32 + s.nodesFree)

/-- CSPSIZE in MiB (R17): codes 0, 1 and 2. -/
def cspMib (c : Nat) : Nat := if c = 1 then 64 else if c = 2 then 128 else 0

/-- A module register that threads, the host and firmware read (Table 18.2). -/
def State.modReg (s : State) (r : Nat) : Word :=
  if r = 0x205 then s.accid.setWidth 64
  else if r = 0x207 then s.kvpoolVal
  else if r = 0x208 then s.grpoolVal
  else if r = 0x209 then BitVec.ofNat 64 (cspMib s.regs.cspCur)
  else assocGet 0 s.mregs r

/-- The value of register r as lane l reaches it (R448, R464). -/
def State.sysRead (s : State) (l r : Nat) : Word :=
  let th := s.lt l
  let g := s.ig
  let gr := s.grid (s.gridOfGroup s.issue.grp)
  if r = 0x000 then s.issue.pc
  else if r = 0x001 then BitVec.ofNat 64 th.frm
  else if r ≤ 0x005 then BitVec.ofNat 64 (th.lc.getD (r - 0x002) default).word
  else if r ≤ 0x009 then th.ls.getD (r - 0x006) 0
  else if r ≤ 0x017 then BitVec.ofNat 64 (th.x.getD (r - 0x010) default).word
  else if r = 0x018 then th.stb
  else if r = 0x019 then th.stp
  else if r = 0x01A then th.stl
  else if r = 0x01B then th.spr.setWidth 64
  else if r = 0x01C then th.tspr.setWidth 64
  else if r = 0x020 then th.fflags.setWidth 64
  else if r = 0x021 then th.tpc
  else if r = 0x022 then th.tnpc
  else if r = 0x023 then th.dtag
  else if r = 0x024 then th.sqpc
  else if r = 0x025 then th.sqinfo
  else if r = 0x026 then s.tid l
  else if r = 0x100 then g.tset
  else if r = 0x101 then g.tcause.setWidth 64
  else if r = 0x102 then g.tinst
  else if r = 0x103 then g.tinfo
  else if r = 0x104 then g.fmode.setWidth 64
  else if r = 0x105 then g.audctl
  else if r = 0x106 then g.audcnt
  else if r = 0x201 then BitVec.ofNat 64 (gr.phase % 2 ^ 32)
  else if r = 0x204 then gr.lr.args
  else if r = 0x206 then gr.handle.setWidth 64
  else if 0x210 ≤ r ∧ r ≤ 0x21F then (s.team g.team).sndc.getD (r - 0x210) 0
  else s.modReg r

/-- The bits of a register that are not must-be-zero, for the registers a thread may write. -/
def sysMask (r : Nat) : Word :=
  if r = 0x001 then 0x1FFF
  else if r ≤ 0x005 then 0xFE000000FFFFFFFF
  else if r ≤ 0x009 then 0x01FFFFFFFFFFFFF8
  else if r ≤ 0x017 then 0xFFFF070007FF03FF
  else if r ≤ 0x01A then 0x01FFFFFFFFFFFFE0
  else if r ≤ 0x01C then 0xF
  else if r = 0x020 then 0x1F
  else if r ≤ 0x022 ∨ r = 0x024 then 0x01FFFFFFFFFFFFF8
  else if r = 0x023 then 0x8000000FFFFFFFFF
  else if r = 0x025 then 0x800FFFFF0000FFFF
  else if r = 0x103 then 0xFFFFFFFFFFFFFFFF
  else if r = 0x104 then 0x7C7
  else if r = 0x105 then 0x1FFFF
  else if r = 0x106 then 0x8000FFFFFFFFFFFF
  else 0xF0FFFFFFFFFFFFFF

/-- An index register of a word (Table 3.9). -/
def ixOfWord (v : Word) : IndexReg :=
  { idx := v.extractLsb' 48 16, ew := v.extractLsb' 40 3, lim := v.extractLsb' 16 11, base := v.extractLsb' 0 10 }

/-- Is the value refused by the register's own chapter (R5, R75, R79)? -/
def State.sysRefuses (s : State) (r : Nat) (v : Word) : Bool :=
  (v &&& ~~~(sysMask r)) != 0 ||
    (r == 0x001 && (decide (4 < field v.toNat 10 3) || decide (v.toNat % 8 ≠ 0) ||
      decide (s.ir.l.toNat < field v.toNat 0 10 + s.ir.g.toNat))) ||
    (decide (0x010 ≤ r) && decide (r ≤ 0x017) && decide (s.ir.l.toNat < field v.toNat 16 11))

/-- A thread register written (R464). -/
def Thread.sysWrite (th : Thread) (r : Nat) (v : Word) : Thread :=
  if r = 0x001 then { th with lvl := v.extractLsb' 10 3, fb := v.extractLsb' 0 10 }
  else if r ≤ 0x005 then { th with lc := th.lc.set (r - 0x002) { step := v.extractLsb' 57 7, count := v.setWidth 32 } }
  else if r ≤ 0x009 then { th with ls := th.ls.set (r - 0x006) v }
  else if r ≤ 0x017 then { th with x := th.x.set (r - 0x010) (ixOfWord v) }
  else if r = 0x019 then { th with stp := v }
  else if r = 0x01A then { th with stl := v }
  else if r = 0x01B then { th with spr := v.setWidth 4 }
  else if r = 0x01C then { th with tspr := v.setWidth 4 }
  else if r = 0x020 then { th with fflags := v.setWidth 5 }
  else if r = 0x021 then { th with tpc := v }
  else if r = 0x022 then { th with tnpc := v }
  else if r = 0x023 then { th with dtag := v }
  else if r = 0x024 then { th with sqpc := v }
  else { th with sqinfo := v }

/-- A group register written; AUDCNT.DRIFT clears by writing 1 (Table 11.13). -/
def Group.sysWrite (g : Group) (r : Nat) (v : Word) : Group :=
  if r = 0x103 then { g with tinfo := v }
  else if r = 0x104 then { g with fmode := v.setWidth 11 }
  else if r = 0x105 then { g with audctl := v }
  else { g with audcnt := (g.audcnt &&& ~~~v &&& 0x8000000000000000) ||| (v &&& 0x0000FFFFFFFFFFFF) }

/-- A register written by lane l under its fields' access codes (R464); SNDCn's one writable bit is NEWREF (Table 14.3). -/
def State.sysWrite (s : State) (l r : Nat) (v : Word) : State :=
  if r < 0x100 then s.onLane l (·.sysWrite r v)
  else if r < 0x200 then s.onIg (·.sysWrite r v)
  else s.onTeam s.ig.team fun t => { t with sndc := t.sndc.modify (r - 0x210) fun c => c &&& ~~~(v &&& 0x8000000000000000) }

/-- SYSRD (R449, R464). -/
def execSysrd (g : Guard) (d : Operand) (r : BitVec 10) (s : State) : Outcome State Fault Refusal :=
  match sysFault r.toNat false with
  | some (c, info) => .next (s.faultAll 6 c info).finish
  | none => .next (s.lanesOk (.sysrd g d r) offMem fun s l => s.dst l d (s.sysRead l r.toNat))

/-- SYSWR (R449, R464). -/
def execSyswr (g : Guard) (a : Operand) (r : BitVec 10) (s : State) : Outcome State Fault Refusal :=
  match sysFault r.toNat true with
  | some (c, info) => .next (s.faultAll 6 c info).finish
  | none => .next (s.lanes (.syswr g a r) offMem fun s l =>
      let v := extendW a.x a.w.bits (s.src l a a.w.bits)
      if s.sysRefuses r.toNat v then .fault 0x02 0 else .ok (s.sysWrite l r.toNat v))

/-! ## HCALL (R465) -/

/-- HCALL (R465): the lane waits for the firmware's answer. -/
def execHcall (g : Guard) (d a : Operand) (svc : BitVec 8) (s : State) : Outcome State Fault Refusal :=
  let i : Instr := .hcall g d a svc
  s.fenced i 7 fun s => s.lanesOk i offMem fun s l =>
    let arg := s.src l a 64
    let (p, s) := s.reserve l d
    let h : HCall := { id := s.nextId, thread := s.ig.t0 + l, svc := svc.toNat, arg, pend := p }
    { s with hcalls := s.hcalls ++ [h], nextId := s.nextId + 1 }.waitLane l (.hcall h.id)

/-- The firmware's answer to a service (Table 18.15); TIME is open. -/
def State.hcallVal (s : State) (svc : Nat) : Word :=
  match svc with
  | 0 => 0xB00100 ||| (Config.fwMin s.flash).setWidth 64
  | 1 => Config.freeWord s.tick
  | 2 => 0
  | _ => BitVec.allOnes 64

/-- HCALL_ANSWER (R465): the destination is written, and the thread goes on; LOG appends an event. -/
def execHcallAnswer (id : Nat) (s : State) : Outcome State Fault Refusal :=
  .next (match s.hcalls.find? fun h => h.id == id with
    | some h =>
      let gr := s.grid (s.gridOfGroup (s.thread h.thread).grp)
      let v := s.hcallVal h.svc
      let s := s.next
      let s := if h.svc = 2 then s.logEvent 3 gr.lr.asid.toNat (s.team (s.teamOf h.thread)).core gr.handle h.arg else s
      let s := (s.landPend h.thread h.pend v).endWait h.thread
      { s with hcalls := s.hcalls.filter fun x => x.id != id }
    | none => s)

/-! ## XINV (R466) -/

/-- A core drops instruction lines of an ASID that a test selects by their first address. -/
def State.dropI (s : State) (core asid : Nat) (hit : Nat → Bool) : State :=
  { s with icache := s.icache.filter fun n => !(n.core == core && n.asid == asid && hit (128 * n.line)) }

/-- XINV over a range (R466). -/
def execXinv (g : Guard) (len a : Operand) (off : BitVec 12) (s : State) : Outcome State Fault Refusal :=
  let i : Instr := .xinv g len a off
  s.fenced i 1 fun s => s.lanes i offMem fun s l =>
    let n := (s.opRaw l len).toNat
    let ea := s.ea l a off.toInt 1
    if !s.inSpace .glob ea n then .fault 0x08 (permInfo 0 ea)
    else match s.windowHit s.iasid ea n with
      | some x => .fault 0x08 (permInfo 4 x)
      | none => .ok (s.dropI s.icore s.iasid fun b => decide (0 < n) && overlap ea n b 128)

/-- XINV.ALL (R466). -/
def execXinvAll (g : Guard) (s : State) : Outcome State Fault Refusal :=
  let i : Instr := .xinvAll g
  s.fenced i 1 fun s => s.lanesOk i offMem fun s _ => s.dropI s.icore s.iasid fun _ => true

/-! ## FMODE (R467) -/

/-- FMODE changes once for the issue set, if a lane executes (R467). -/
def State.fmodeWord (s : State) (i : Instr) (f : BitVec 11 → BitVec 11) : State :=
  let any := s.executing i != []
  s.lanesThen i offMem (fun s _ => .ok s) fun s => if any then s.onIg fun g => { g with fmode := f g.fmode } else s

/-- FMODE.SET (R467). -/
def execFmodeSet (g : Guard) (v : BitVec 11) (s : State) : Outcome State Fault Refusal :=
  .next (s.fmodeWord (.fmodeSet g v) fun m => m ||| v)

/-- FMODE.CLR (R467). -/
def execFmodeClr (g : Guard) (v : BitVec 11) (s : State) : Outcome State Fault Refusal :=
  .next (s.fmodeWord (.fmodeClr g v) fun m => m &&& ~~~v)

/-- FMODE.WR (R467). -/
def execFmodeWr (g : Guard) (v : BitVec 11) (s : State) : Outcome State Fault Refusal := .next (s.fmodeWord (.fmodeWr g v) fun _ => v)

end Machine
end Sys2Proof
end

