-- ==== Sys2Proof/Machine/HostRegs.lean ====
section
/-! DEFINITION. The host's registers (19 R469–R474): BAR0 reads and writes, SRSEL and SRDATA, the translation commands, the saved
contexts and the UALink keys. -/

namespace Sys2Proof
namespace Machine
open Host

/-- Does a value set a bit outside a mask (R5)? -/
def outside (v : Word) (mask : Nat) : Bool := v &&& ~~~(BitVec.ofNat 64 mask) != 0

/-- Changes the host's registers. -/
def State.onRegs (s : State) (f : Regs → Regs) : State := { s with regs := f s.regs }

/-- Does the module serve its registers, or has it stopped in boot (R475)? -/
def State.serves (s : State) : Bool := s.regs.bootState != 3

/-! ## Register writes (R5, Table 19.2) -/

/-- HQCTL of a queue is written (Table 17.3). -/
def HostQ.writeCtl (h : HostQ) (v : Nat) : HostQ :=
  { h with en := field v 31 1 = 1, err := h.err && decide (field v 30 1 = 0), asid := field v 16 12, logn := field v 0 4 }

/-- Registers of host queue q below HQHEAD (Table 17.3). -/
def State.hqWrite (s : State) (q r : Nat) (v : Word) : State :=
  if r = 0 ∧ outside v 0xFFFFFFFF00 = false then s.onHq q fun h => { h with base := field v.toNat 8 32 * 256 }
  else if r = 8 ∧ outside v 0xCFFF000F = false ∧ field v.toNat 0 4 ≤ 12 then s.onHq q (·.writeCtl v.toNat)
  else s

/-- A register of BAR0 that has no behaviour of its own is written; a write that sets an MBZ bit, or a value outside its field's
meaning, is ignored. -/
def State.regWrite (s : State) (off : Nat) (v : Word) : State :=
  let n := v.toNat
  if 0x10000 ≤ off ∧ off < 0x10200 then s.hqWrite ((off - 0x10000) / 32) (off % 32) v
  else if off = 0x10800 ∧ outside v 0x80000FFF000003FF = false then
    s.onRegs fun r => { r with srAsid := field n 32 12, srNum := field n 0 10 }
  else if off = 0x10C00 ∧ outside v 0xFFFFFFFFC0000000 = false then s.onRegs fun r => { r with bar2 := field n 30 34 * 2 ^ 30 }
  else if off = 0x10C08 ∧ outside v 0xFFFFFFFFFFFF0000 = false then s.onRegs fun r => { r with kvbAddr := n }
  else if off = 0x10C10 ∧ outside v 0xFFFFFFFF = false then s.onRegs fun r => { r with kvbCnt := n }
  else if off = 0x10C18 ∧ outside v 0x303 = false ∧ field n 0 2 ≠ 3 then s.onRegs fun r => { r with cspNext := field n 0 2 }
  else if off = 0x11008 then s.onRegs fun r => { r with xlArg := v }
  else if off = 0x12000 ∧ outside v 0x80000000FFFFFFFF = false then { s with ellost := s.ellost && !v.getLsbD 63 }
  else if off = 0x12008 ∧ outside v 0xFFFFFFFF = false then { s with elack := v.setWidth 32 }
  else if 0x14000 ≤ off ∧ off < 0x14020 then s.onRegs fun r => { r with keyData := r.keyData.set ((off - 0x14000) / 8) v }
  else if off = 0x14028 ∧ outside v 0x1FF = false ∧ n < 288 ∧ s.runningGrids = [] then { s with accid := v.setWidth 9 }
  else if off = 0x15000 ∧ outside v 0x1FFF = false ∧ 1500 ≤ n ∧ n ≤ 4500 then s.onRegs fun r => { r with pwrLim := n }
  else s

/-- REGISTER_WRITE (R5, R469): an aligned 8-byte write to BAR0. -/
def execRegisterWrite (off : Nat) (v : Word) (s : State) : Outcome State Fault Refusal :=
  .next (if s.serves ∧ off % 8 = 0 then s.regWrite off v else s)

/-! ## SRSEL and SRDATA (R449, R471) -/

/-- Bits of a strike entry (Table 15.10). -/
def State.kvsqe (s : State) (n : Nat) : Nat :=
  match s.strikes.find? fun e => e.entry == n with
  | some e => e.dl * 2 ^ 112 + e.seq * 2 ^ 96 + e.page * 2 ^ 64 + e.h * 256 + e.action * 16 + e.st
  | none => 0

/-- A register that the host reads (R449): one of a grid or a team is open, since nothing selects its instance; a write-only or
unknown one reads zero. -/
def State.srRead (s : State) (asid n : Nat) : Word :=
  if n < 0x200 ∨ sysKnown n = false ∨ n = 0x304 then 0
  else if n = 0x201 ∨ n = 0x204 ∨ n = 0x206 ∨ (0x210 ≤ n ∧ n ≤ 0x21F) then Config.freeWord s.tick
  else if 0x380 ≤ n then BitVec.ofNat 64 (field (s.kvsqe ((n - 0x380) / 2)) (64 * (n % 2)) 64)
  else if n ≤ 0x302 ∧ 0x300 ≤ n ∨ 0x310 ≤ n then s.areg asid n
  else s.modReg n

/-- Is a CSWIN value refused (R211)? -/
def State.cswRefused (s : State) (asid : Nat) (v : Word) : Bool :=
  let b := field v.toNat 0 8
  let z := field v.toNat 32 8
  outside v 0xFF000000FF || decide (cspMib s.regs.cspCur < b + z) || decide (128 < z) || decide (127 < b) ||
    (decide (z ≠ 0) && s.aregs.any fun (k, w) =>
      k % 1024 == 0x300 && k / 1024 != asid && decide (field w.toNat 32 8 ≠ 0) && overlap b z (field w.toNat 0 8) (field w.toNat 32 8))

/-- Is an aperture record malformed (Table 9.7)? -/
def aperBad (a : Aper) : Bool :=
  let cols := field a.aux 32 16
  let rows := field a.aux 16 16
  if a.xf = 2 then decide (a.src % 64 ≠ 0) || decide (a.aux / 16 ≠ 0)
  else decide (a.src % 256 ≠ 0) ||
    (if a.xf = 0 then decide (a.aux ≠ 0)
     else if a.xf = 1 then decide (cols = 0) || decide (rows = 0) || decide (field a.aux 0 16 ≠ 0) || decide (a.aux / 2 ^ 48 ≠ 0)
     else false)

/-- Is a part of an aperture record refused by its own bits (Table 9.7): a source that no transform admits among them? -/
def aperPartBad (part : Nat) (v : Word) : Bool :=
  let xf := field v.toNat 60 3
  let ep := field v.toNat 57 3
  if part = 0 then decide (3 < xf) || decide ((if xf = 1 then 3 else if xf = 3 then 2 else 0) < ep)
  else outside v 0x01FFFFFFFFFFFFFF || (part == 1 && decide (v.toNat % 64 ≠ 0))

/-- An aperture register is written (R226). The record is three registers, so the rules between them hold of the whole once EN is 1
(log entry 42). -/
def State.aperWrite (s : State) (asid n : Nat) (v : Word) : Option State :=
  let k := (n - 0x310) / 3
  let s' := s.setAreg asid n v
  if aperPartBad ((n - 0x310) % 3) v || ((s'.aper asid k).en && aperBad (s'.aper asid k)) then none else some s'

/-- A strike command (R389, Table 15.11), or its refusal. -/
def State.kvsqcmd (s : State) (v : Word) : Option State :=
  let e := v.extractLsb' 10 6
  let h := v.extractLsb' 4 4
  let op := field v.toNat 0 4
  let run (o : Outcome State Fault Refusal) : Option State := match o with | .next s => some s | _ => none
  if outside v 0xFCFF || !s.strikeOk e || decide (op = 0) || decide (4 < op) || (if op = 4 then h == 0 || h == 15 else h != 0) then none
  else if op = 1 then run (execKvsqcmdConfirm e s)
  else if op = 2 then run (execKvsqcmdVeto e s)
  else if op = 3 then run (execKvsqcmdFront e s)
  else run (execKvsqcmdSetH e h s)

/-- Is a KVPOL value refused (R363)? -/
def kvpolBad (v : Word) : Bool :=
  let m := field v.toNat 44 4
  decide (m = 0) || decide (m = 15) || decide (field v.toNat 48 16 = 0)

/-- The host writes a register (R449), or is refused. -/
def State.srWrite (s : State) (asid n : Nat) (v : Word) : Option State :=
  let mod (bad : Bool) : Option State := if bad then none else some { s with mregs := assocSet 0 s.mregs n v }
  if n = 0x202 ∨ n = 0x203 then mod (outside v 0xFFFFFFFF)
  else if n = 0x300 then
    (if s.cswRefused asid v then none
     else
       let s := s.setAreg asid n v
       let (b, n) := (s.cswBase asid / 256, s.cswSize asid / 256)
      some { s with
        chip := s.chip.zero (s.cswBase asid) (s.cswSize asid)
        chipTags := s.chipTags.filter fun (k, _) => !(decide (b ≤ k) && decide (k < b + n)) })
  else if n = 0x301 then
    (if outside v 7 then none
     else some (s.setAreg asid n ((v &&& 3) ||| (s.areg asid n &&& ~~~v &&& 4))))
  else if n = 0x302 then (if outside v 1 then none else some (s.setAreg asid n v))
  else if n = 0x303 then mod (kvpolBad v)
  else if n = 0x304 then s.kvsqcmd v
  else if n = 0x305 then mod (outside v 0xFFFF)
  else if 0x310 ≤ n ∧ n ≤ 0x33F then s.aperWrite asid n v
  else if 0x210 ≤ n ∧ n ≤ 0x21F then (if s.choose 2 = 0 then none else some s)
  else none

/-- SRDATA_ACCESS (R471): a read returns the register selected; a refused write sets ERR; unknown numbers ignore writes. -/
def execSrdataAccess (write : Bool) (v : Word) (s : State) : Outcome State Fault Refusal :=
  let a := s.regs.srAsid
  let n := s.regs.srNum
  .next (if s.serves = false then s
    else if write = false then
      let s := if 0x380 ≤ n then s.countDl else s
      { s.next with hostData := natLe 8 (s.srRead a n).toNat }
    else if n < 0x200 ∨ sysKnown n = false then s.onRegs fun r => { r with srErr := false }
    else match s.srWrite a n v with
      | some s => s.next.onRegs fun r => { r with srErr := false }
      | none => s.next.onRegs fun r => { r with srErr := true })

/-! ## BAR0 reads (R458, R459, R469, Table 19.1) -/

/-- The device identity body (Table 18.12). -/
def State.identity (s : State) : Nat :=
  Config.serial.toNat * 2 ^ 64 + 2 ^ 40 + (Config.fwMin s.flash).toNat * 2 ^ 32 + 0xB0 * 2 ^ 16 + 0x9600

/-- The block offsets of capabilities 2–8 (Table 19.1). -/
def capBlock (id : Nat) : Nat := [0x10000, 0x10400, 0x12000, 0x20000, 0x13000, 0x14000, 0x10800].getD (id - 2) 0

/-- The block sizes of capabilities 2–8, up to the end of each block's last register in Table 19.1 (log entry 44): 16 queues of 32 bytes
(Table 17.3), SCHEDCMD, the event log to 0x19FFF, 4,096 entries of 16 bytes (Table 9.6), two registers, and the ports to 0x140FF. -/
def capBytes (id : Nat) : Nat := [512, 8, 0x8000, 65536, 16, 0x100, 16].getD (id - 2) 0

/-- Does Table 19.1 name an aligned offset beyond the capability list? -/
def barNamed (off : Nat) : Bool :=
  let within (a n : Nat) : Bool := decide (a ≤ off) && decide (off < a + n)
  within 0x10000 0x200 || within 0x14000 0x30 || within 0x14080 0x80 || within 0x15020 0x20 || within 0x18000 0x2000 || within 0x20000 0x10000 ||
    [0x10400, 0x10800, 0x10808, 0x10C00, 0x10C08, 0x10C10, 0x10C18, 0x11000, 0x11008, 0x12000, 0x12008, 0x12010, 0x13000, 0x13008,
      0x15000].contains off

/-- The length of a capability's record in 8-byte words. -/
def capLen (id : Nat) : Nat := if id = 1 then 3 else 2

/-- The capabilities in the order of their records, which the spec leaves to the module. -/
def capOrder : Nat → List Nat → List Nat
  | 0, _ => []
  | n + 1, l => let id := l.getD (Config.capPick n % l.length) 0; id :: capOrder n (l.erase id)

/-- The records' offsets: the first at an offset, each other one at or after the end of the one before. -/
def capPlaces : Nat → List Nat → List (Nat × Nat)
  | _, [] => []
  | a, id :: r => (id, a) :: capPlaces (a + 8 * (capLen id + Config.capGap id % 1000)) r

/-- The capability list (R458): it begins at offset 0. -/
def capList : List (Nat × Nat) := capPlaces 0 (capOrder 8 (List.range' 1 8))

/-- The words of a capability's record whose next one lies at an offset, or 0 (Tables 18.10 and 18.11). -/
def State.capRecord (s : State) (id next : Nat) : List Nat :=
  let hdr := next * 2 ^ 32 + capLen id * 2 ^ 24 + 2 ^ 16 + id
  if id = 1 then [hdr, s.identity % 2 ^ 64, s.identity / 2 ^ 64] else [hdr, capBytes id * 2 ^ 32 + capBlock id]

/-- The word of the capability list at an offset. -/
def State.capWord (s : State) (off : Nat) : Nat :=
  ((List.range capList.length).findSome? fun k =>
    let (id, a) := capList.getD k (0, 0)
    let next := ((capList[k + 1]?).map (·.2)).getD 0
    if a ≤ off ∧ off < a + 8 * capLen id then (s.capRecord id next)[(off - a) / 8]? else none).getD 0

/-- An event entry's 256 bits (Table 19.4). -/
def EvEntry.bits (e : EvEntry) : Nat :=
  e.time.toNat * 2 ^ 192 + e.data.toNat * 2 ^ 128 + e.handle.toNat * 2 ^ 96 + e.asid % 4096 * 2 ^ 84 + e.core % 512 * 2 ^ 75 + e.kind

/-- A fault-buffer entry's 128 bits (Table 9.6). -/
def FbEntry.bits (e : FbEntry) : Nat :=
  (if 255 < e.core then 0 else e.core) * 2 ^ 120 + e.asid * 2 ^ 108 + e.kind * 2 ^ 106 + e.page * 2 ^ 16 + e.waiters * 4 + 1

/-- A register of a host queue (Table 17.3). -/
def HostQ.word (h : HostQ) (r : Nat) : Nat :=
  if r = 0 then h.base
  else if r = 8 then (if h.en then 2 ^ 31 else 0) + (if h.err then 2 ^ 30 else 0) + h.asid * 2 ^ 16 + h.logn
  else if r = 16 then h.last.toNat * 2 ^ 32 + h.head.toNat
  else h.tail.toNat

/-- A bit at a place. -/
def bitAt (c : Bool) (k : Nat) : Nat := if c then 2 ^ k else 0

/-- What an aligned 8-byte read of BAR0 returns; SRDATA's read is SRDATA_ACCESS. In boot state 3 a register that is not served reads an
open value. A die's current is open, within the bound of the four together (R478). An event entry that nothing has
written has no Reset value (Table 19.4) and reads 0; DESIGN CHOICE (log entry 5). -/
def State.bar0 (s : State) (off : Nat) : Nat :=
  let r := s.regs
  if off % 8 ≠ 0 ∨ 2 ^ 20 ≤ off then 0
  else if off < 0x10000 then s.capWord off
  else if off = 0x13000 then r.bootReason * 256 + r.bootState
  else if barNamed off = false then 0
  else if s.serves = false then (Config.freeWord s.tick).toNat
  else if off < 0x10200 then (s.hq ((off - 0x10000) / 32)).word (off % 32)
  else if off = 0x10800 then bitAt r.srErr 63 + r.srAsid * 2 ^ 32 + r.srNum
  else if off = 0x10C00 then r.bar2
  else if off = 0x10C08 then r.kvbAddr
  else if off = 0x10C10 then r.kvbCnt
  else if off = 0x10C18 then r.cspCur * 256 + r.cspNext
  else if off = 0x11000 then bitAt r.xlCmd.isSome 63 + bitAt r.xlErr 62
  else if off = 0x11008 then r.xlArg.toNat
  else if off = 0x12000 then bitAt s.ellost 63 + s.elcnt.toNat
  else if off = 0x12008 then s.elack.toNat
  else if off = 0x13008 then bitAt r.att.isSome 63
  else if off = 0x14028 then s.accid.toNat
  else if 0x14080 ≤ off ∧ off < 0x14100 then
    (let p : Port := assocGet default s.ports ((off - 0x14080) / 8)
     (match p.send with | some (e, _) => e * 256 | none => 0) + bitAt (p.trained && p.send.isSome) 0)
  else if off = 0x15000 then r.pwrLim
  else if 0x15020 ≤ off ∧ off < 0x15040 then
    (let d := (off - 0x15020) / 8
     r.temp.getD d 0 * 2 ^ 48 + r.clk.getD d 0 * 2 ^ 40 + (Config.freeWordAt s.tick d).toNat % 9000001)
  else if 0x18000 ≤ off ∧ off < 0x1A000 then
    (let e : EvEntry := assocGet default s.evlog ((off - 0x18000) / 32)
     field e.bits (64 * (off / 8 % 4)) 64)
  else if 0x20000 ≤ off ∧ off < 0x30000 then
    (match assocGet none s.fbuf ((off - 0x20000) / 16) with
     | some e => field e.bits (64 * (off / 8 % 2)) 64
     | none => 0)
  else 0

/-! ## Translation commands (R472) -/

/-- A write to XLCMD: ignored while a command is in progress; refused with ERR, or accepted. -/
def State.xlWrite (s : State) (op : Nat) (v : Word) (ok : Bool) : State :=
  let n := v.toNat
  if s.serves = false ∨ s.regs.xlCmd.isSome = true then s
  else if field n 12 19 ≠ 0 ∨ ok = false then s.onRegs fun r => { r with xlErr := true }
  else s.onRegs fun r => { r with
    xlErr := false
    xlCmd := some { op, asid := field n 47 12, count := field n 31 16, entry := field n 0 12, arg := r.xlArg.toNat } }

/-- XLCMD ROOT (R472). -/
def execXlcmdRoot (v : Word) (s : State) : Outcome State Fault Refusal :=
  .next (s.xlWrite 1 v (decide (s.regs.xlArg.toNat % 4096 = 0) && decide (s.regs.xlArg.toNat < hbmSize)))

/-- XLCMD INVAL (R472). -/
def execXlcmdInval (v : Word) (s : State) : Outcome State Fault Refusal :=
  .next (s.xlWrite 2 v (decide (field v.toNat 31 16 ≠ 0) && decide (s.regs.xlArg.toNat % 65536 = 0)))

/-- XLCMD RESOLVE (R472). -/
def execXlcmdResolve (v : Word) (s : State) : Outcome State Fault Refusal :=
  .next (s.xlWrite 3 v (assocGet none s.fbuf (field v.toNat 0 12)).isSome)

/-- XLCMD FAIL (R472). -/
def execXlcmdFail (v : Word) (s : State) : Outcome State Fault Refusal :=
  .next (s.xlWrite 4 v (assocGet none s.fbuf (field v.toNat 0 12)).isSome)

/-- Addresses of the table entries on an address's walk, by the tables as they stand and as they are cached. -/
def State.walkEas (s : State) (asid va : Nat) : List (Nat × Nat) → Nat → List Nat
  | [], _ => []
  | (sh, n) :: r, table =>
    let ea := table + 8 * (va / 2 ^ sh % 2 ^ n)
    let vs := leNat (s.hbmSeen ea 8) :: (s.ptes.filter fun p => p.asid == asid && p.ea == ea).map (·.val)
    ea :: vs.flatMap fun v => if v % 2 = 0 ∨ v / 2 % 2 = 1 then [] else State.walkEas s asid va r (v / 256 % 2 ^ 48 * 256)

/-- The mappings of a range of an ASID are found no more; a page that was mapped twice until then is left undefined (R215). -/
def State.unmap (s : State) (asid va n : Nat) : State :=
  let gone (m : Mapping) : Bool := m.asid == asid && overlap (65536 * m.vpage) 65536 va n
  let t := { s with maps := s.maps.filter fun m => !gone m }
  let pages := ((s.maps.filter gone).map (·.ppage)).eraseDups
  (pages.filter fun p => s.aliased (65536 * p) && !t.aliased (65536 * p)).foldl State.undefine t

/-- INVAL takes effect: cached entries of the range go, others of the ASID may, and so do its L1 and LLC lines. -/
def State.inval (s : State) (asid va count : Nat) : State :=
  let pages := (List.range count).map fun k => va + 65536 * k
  let eas := match assocGet none s.roots asid with
    | some root => (pages.flatMap fun p => s.walkEas asid p xlLevels root).eraseDups
    | none => []
  let inRange (a n : Nat) : Bool := overlap a n va (65536 * count)
  let s := ((List.range 256).foldl (fun s c => s.dropL1 c asid inRange) s).unmap asid va (65536 * count)
  let s := { s with
    lines := s.lines.filter fun n => !(n.asid == asid && inRange n.la 256)
    ptes := s.ptes.filter fun p => !(p.asid == asid && eas.contains p.ea) }
  let (l, s) := State.spare (fun p : Pte => p.asid == asid) s.ptes s
  { s with ptes := l }

/-- RESOLVE takes effect (R223, R472): the entry is free, and every request attached to it waits for its replay, in the order in which
they arrived. -/
def State.resolve (s : State) (e : Nat) : State :=
  let n := replayNo
  { s with
    fbuf := assocSet none s.fbuf e none
    replays := s.replays ++ ((assocGet none s.fbuf e).map (·.order)).getD []
    accs := s.accs.map fun (a : Acc) => if a.st = .faulted e then { a with st := .faulted n } else a
    ops := s.ops.map fun (o : EngOp) => if o.st = .faulted e then { o with st := .faulted n } else o
    arrs := s.arrs.map fun (a : Arrival) => if a.st = .faulted e then { a with st := .faulted n } else a
    reqs := s.reqs.map fun (r : SeqReq) => if r.entry = some e then { r with entry := some n } else r
    ireqs := s.ireqs.map fun r => if r.entry = some e then { r with entry := some n } else r
    hqs := s.hqs.map fun ((q, h) : Nat × HostQ) => (q, if h.wait = some e then { h with wait := some n } else h)
    grids := s.grids.map fun (g : Grid) =>
      let d : List (Nat × Option Nat) := g.depWait.map fun x => (x.1, if x.2 = some e then some n else x.2)
      { g with wait := if g.wait = some e then some n else g.wait, depWait := d }
    threads := s.threads.map fun (th : Thread) =>
      match th.wait with
      | .xlate x a => if x = e then { th with wait := .xlate n a } else th
      | _ => th }

/-- An engine operation whose translation has been resolved goes on with the step that it could not take, if that is due. -/
def State.opAgain (s : State) (id : Nat) : State :=
  let s := s.onOp id fun o => { o with st := if o.st = .faulted replayNo then .run else o.st }
  let run (x : Outcome State Fault Refusal) : State := match x with | .next t => t | _ => s
  match s.opOf id with
  | none => s
  | some o =>
    if o.parked || o.st != .run then s
    else match o.kind with
      | .copy _ => s.copyMove id
      | .pdrop .. => run (execPdropComplete id s)
      | .wbload _ => run (execWbloadComplete id s)
      | .drain _ => run (execDrainComplete id s)
      | .attn a => if a.accepted then run (execAttnComplete id s) else s
      | .xfer x => if x.sent then s else s.xferSend o x
      | .mask _ => s

/-- A thread that stalled at its word for a translation makes its request again: it goes on, unless that faults once more (R222, R223). -/
def State.threadAgain (s : State) (t : Nat) : State :=
  let go (s : State) : State := s.onThread t fun th => { th with wait := .none, age := 0 }
  match (s.thread t).wait with
  | .xlate e va =>
    if e ≠ replayNo then s
    else match s.xlate (s.asidOf t) va with
      | (.miss, s) =>
        (match s.attach (s.coreOf t) (s.asidOf t) 0 va (.thread t) with
         | (s, some e) => s.onThread t fun th => { th with wait := .xlate e va }
         | (s, none) => go s)
      | (_, s) => go s
  | _ => s

/-- A request of a resolved entry is made again (R223): what is due of it happens at once. One that is gone, or has become a restart record
since, has nothing to replay. -/
def State.replay (s : State) (w : Waiter) : State :=
  let n := some replayNo
  match w with
  | .acc id => (s.onAcc id fun a => { a with st := if a.st = .faulted replayNo then .ready else a.st }).performDue id fun _ => true
  | .op id => s.opAgain id
  | .arr id =>
    (match execArrivalLand id (s.onArr id fun a => { a with st := if a.st = .faulted replayNo then .landing else a.st }) with
     | .next t => t
     | _ => s)
  | .req id =>
    let s := { s with reqs := s.reqs.map fun (r : SeqReq) => if r.id = id ∧ r.entry = n then { r with entry := none } else r }
    (match s.reqs.find? fun r => r.id == id with
     | some r => if s.reqDue r then s.reqRun r false else s
     | none => s)
  | .thread t => s.threadAgain t
  | .fetch core asid line =>
    let s := { s with ireqs := s.ireqs.filter fun r => !(r.core == core && r.asid == asid && r.line == line && r.entry == n) }
    if s.lineWaiters core asid line = [] ∨ (s.ireqs.any fun r => r.core == core && r.asid == asid && r.line == line) = true then s
    else s.fillLine core asid line
  | .queue q =>
    if (s.hq q).wait = n then
      (let s := s.onHq q fun h => { h with wait := none }
       if s.hqActs q then s.hqSubmit q false else s)
    else s
  | .launch g =>
    if (s.grid g).wait = n then
      (let s := s.onGrid g fun gr => { gr with wait := none }
       if s.completes g then s.complete g false else s)
    else s
  | .counter g k => s.depAgain g k n

/-- The oldest request that still has to replay does. -/
def State.replayNext (s : State) : State :=
  match s.replays with
  | w :: r => { s with replays := r }.replay w
  | [] => s

/-- KV_PAGE_RESTORE (R362, R474): firmware reads an offloaded page back into a frame and frees its slot, which resolves the faults on
it; a restore that meets a PCI Express error keeps them pending. -/
def execKvPageRestore (page : Nat) (s : State) : Outcome State Fault Refusal :=
  .next (if s.isOff page ∧ 0 < s.kvFree then
      if s.choose 2 = 0 then s.next
      else
        let s := { s.next.pageIn page with kvOff := s.kvOff.filter fun x => x.page != page }
        (s.fbuf.filter fun (_, e) => match e with | some e => e.page == kvAddr page / 65536 | none => false).foldl
          (fun s (k, _) => s.resolve k) s
    else s)

/-- An engine operation's translation is unresolvable: the operation ends (R281). -/
def State.opFail (s : State) (va : Nat) (o : EngOp) : State :=
  let s := s.opBad o va
  match o.kind with
  | .xfer _ => s.xferCancel o
  | _ => s.endOp o.id

/-- A queued request's translation is unresolvable. -/
def State.reqFail (s : State) (va : Nat) (r : SeqReq) : State :=
  match r.kind with
  | .launch _ _ => s.reqRun { r with entry := none } true
  | k =>
    let s := (match k with | .grmask _ _ op => s.endOp op | _ => s).fatalAt r.thread r.chain 0x08 (permLate 0 va)
    { s with reqs := s.reqs.filter fun x => x.id != r.id }

/-- FAIL takes effect (R223, R472): every request attached to the entry ends as a permission fault. Where a request's own address is
not recorded, which byte of the page TINFO names is open. -/
def State.failEntry (s : State) (e : Nat) : State :=
  let page := match assocGet none s.fbuf e with | some x => x.page | none => 0
  let va := page * 65536 + s.choose 65536
  let s := { s.next with
    fbuf := assocSet none s.fbuf e none
    grids := s.grids.map fun (g : Grid) => { g with depWait := g.depWait.filter fun x => x.2 != some e } }
  let s := (s.accs.filter fun a => a.st == .faulted e).foldl State.accBad s
  let s := (s.ops.filter fun o => o.st == .faulted e).foldl (State.opFail · va ·) s
  let s := (s.arrs.filter fun a => a.st == .faulted e).foldl (fun s a => s.arrBad a va) s
  let s := (s.reqs.filter fun r => r.entry == some e).foldl (State.reqFail · va ·) s
  let s := (List.range s.threads.length).foldl (fun s t =>
    match (s.thread t).wait with
    | .xlate x a => if x = e then s.fatalAt t (s.thread t).waitAt 0x08 (permLate 0 a) else s
    | _ => s) s
  let s := (s.ireqs.filter fun r => r.entry == some e).foldl (fun s r =>
    (s.lineWaiters r.core r.asid r.line).foldl (fun s t =>
      s.fatalAt t (s.thread t).pc 0x08 (permLate 5 (s.thread t).pc.toNat))
      { s with ireqs := s.ireqs.filter fun x => x != r }) s
  let s := (List.range 16).foldl (fun s q =>
    if (s.hq q).wait = some e then (s.onHq q fun h => { h with wait := none }).hqSubmit q true else s) s
  (List.range s.grids.length).foldl (fun s g =>
    if (s.grid g).wait = some e then (s.onGrid g fun gr => { gr with wait := none }).complete g true else s) s

/-- XLCMD_COMMAND_DONE (R472): the command in progress takes effect, and BUSY clears. -/
def execXlcmdCommandDone (s : State) : Outcome State Fault Refusal :=
  .next (match s.regs.xlCmd with
    | some c =>
      let s := s.onRegs fun r => { r with xlCmd := none }
      if c.op = 1 then { s with roots := assocSet none s.roots c.asid (some c.arg) }
      else if c.op = 2 then s.inval c.asid c.arg c.count
      else if c.op = 3 then s.resolve c.entry
      else s.failEntry c.entry
    | none => s)

/-! ## Saved contexts (R473) -/

/-- CTXFREE (R473). -/
def execCtxfree (v : Word) (s : State) : Outcome State Fault Refusal :=
  .next (if s.serves ∧ v.toNat < 2 ^ 32 then { s with ctxs := s.ctxs.filter fun c => c.handle != v.setWidth 32 } else s)

/-! ## UALink ports and keys (R358, R477) -/

/-- A port. -/
def State.port (s : State) (p : Nat) : Port := assocGet default s.ports p

/-- Changes a port. -/
def State.onPort (s : State) (p : Nat) (f : Port → Port) : State := { s with ports := assocSet default s.ports p (f (s.port p)) }

/-- KEYDATA0–3 as one key. -/
def Regs.key (r : Regs) : Nat := r.keyData.foldr (fun w v => v * 2 ^ 64 + w.toNat) 0

/-- A key command acts on its port with its epoch and key, and zeroes KEYDATA0–3; a write that sets an MBZ bit is ignored. -/
def State.keyCmd (s : State) (v : Word) (f : Nat → Nat → Port → Port) : State :=
  if s.serves = false ∨ outside v 0xE0000000000F00FF = true then s
  else (s.onPort (field v.toNat 16 4) (f (field v.toNat 0 8) s.regs.key)).onRegs fun r => { r with keyData := List.replicate 4 0 }

/-- KEYCMD op 1: install a send key (R477). -/
def execKeycmdInstallSend (v : Word) (s : State) : Outcome State Fault Refusal :=
  .next (s.keyCmd v fun e k p => { p with send := some (e, k), seq := 0 })

/-- KEYCMD op 2: install a receive key; the older of three epochs goes (R477). -/
def execKeycmdInstallReceive (v : Word) (s : State) : Outcome State Fault Refusal :=
  .next (s.keyCmd v fun e k p =>
    let l := (p.recv.filter fun x => x.1 != e) ++ [(e, k, none)]
    { p with recv := l.drop (l.length - 2) })

/-- KEYCMD op 3: retire every key of the port (R477). -/
def execKeycmdRetire (v : Word) (s : State) : Outcome State Fault Refusal :=
  .next (s.keyCmd v fun _ _ p => { p with send := none, recv := [] })

/-- UALINK_PORT_STATE_CHANGE (R358). -/
def execUalinkPortStateChange (port : BitVec 4) (up : Bool) (s : State) : Outcome State Fault Refusal :=
  .next (s.onPort port.toNat fun p => { p with trained := up })

end Machine
end Sys2Proof
end

