-- ==== Sys2Proof/Machine/Module.lean ====
section
/-! DEFINITION. The module as a whole: reset and boot, host accesses through BAR2, attestation, soft errors, heat and clocks
(19 R468, R470, R475, R476, R478; 05 R143). -/

namespace Sys2Proof
namespace Machine
open Host

/-! ## Reset and boot (R468, R475) -/

/-- MODULE_RESET (R468): every register takes its reset value, and the stored chip-scratchpad size comes into force (CSPCFG); the flash
keeps its image (R475), and a failed slice stays failed (R15). The counter of the free values and the inputs to come are the model's own
and stay. -/
def execModuleReset (s : State) : Outcome State Fault Refusal :=
  .next { State.reset with
    tick := s.tick + 1, inputs := s.inputs, resizes := s.resizes, flash := s.flash, remap := s.remap,
    regs := { Regs.reset with cspCur := s.regs.cspNext, cspNext := s.regs.cspNext } }

/-- The boot ROM stops (R475). -/
def State.bootStop (s : State) (reason : Nat) : State := s.onRegs fun r => { r with bootState := 3, bootReason := reason }

/-- The boot ROM verifies an image (R475): one that passes starts, and is what the flash holds. -/
def State.verify (s : State) (image : FlashImage) : State :=
  let c := Config.imageCheck image % 4
  if c = 0 then { s.onRegs fun r => { r with bootState := 1, bootReason := 0 } with flash := image } else s.bootStop c

/-- One step of boot (R475): the ROM reads the flash, unless that fails, and verifies its image; then the firmware starts and sets the KV
pool's size. -/
def State.bootStep (s : State) : State :=
  if s.regs.bootState = 0 then (if s.choose 2 = 0 then s.next.bootStop 4 else s.next.verify s.flash)
  else { s.onRegs fun r => { r with bootState := 2 } with kvTotal := Config.kvFrames % 2 ^ 22 }

/-! ## BAR2 (R470) -/

/-- The host resizes BAR2 to a power of two from 1 GiB to 1 TiB, by its exponent; another value is none that the capability offers
(R470). -/
def State.resizeBar2 (s : State) (n : Nat) : State :=
  if 30 ≤ n ∧ n ≤ 40 then s.onRegs fun r => { r with bar2Size := 2 ^ n } else s

/-- The byte of a context area at an address it covers (R456); one of no stated form is open, and the same at every read. -/
def Ctx.byteAt (c : Ctx) (a : Nat) : Option Byte :=
  if c.addr ≤ a ∧ a < c.addr + c.len then
    some ((c.parts.findSome? fun (o, bs) => if c.addr + o ≤ a then bs[a - c.addr - o]? else none).getD
      (Config.freeByte c.seed (a - c.addr)))
  else none

/-- A context area after bytes have been written at an address: they stand over what it holds. -/
def Ctx.put (c : Ctx) (a : Nat) (bs : List Byte) : Ctx :=
  if overlap a bs.length c.addr c.len then { c with parts := (a - c.addr, bs.drop (c.addr - a)) :: c.parts } else c

/-- A write at the memory controller; what lies at or above 768 GiB is ignored (R470). A saved context's area holds what was written last
(log entry 37). -/
def State.physWrite (s : State) (a : Nat) (bs : List Byte) : State :=
  let bs := bs.take (hbmSize - a)
  { s.storeMem { hardwareWho with strong := false } 0 0 a bs false with
    ctxs := s.ctxs.map (·.put a bs), areas := s.areas.map fun (t, c) => (t, c.put a bs) }

/-- The byte of the context area that covers an address (R456, R473); the area of a team that is no longer swapped out is firmware's to
reuse. -/
def State.ctxByte (s : State) (a : Nat) : Option Byte :=
  (s.ctxs.findSome? fun c => c.byteAt a).or
    (s.areas.findSome? fun (t, c) =>
      if (s.cluster (s.team t).cluster).out then c.byteAt a else (c.byteAt a).map fun _ => Config.freeByte s.tick a)

/-- What a host read of byte k at an address returns: all ones above HBM4; bytes of a poisoned unit are open, and of a page that
R215 leaves undefined. -/
def State.physByte (s : State) (a k : Nat) : Byte :=
  if hbmSize ≤ a + k then 0xFF
  else match s.ctxByte (a + k) with
    | some b => b
    | none =>
      if s.hbm.unitPz ((a + k) / 32) ∨ s.aliased (a + k) = true then Config.freeByte s.tick k else memGet s.hbm.bytes (a + k)

/-- The recovery image at physical address 0 (R475). -/
def State.recovery (s : State) : FlashImage := .recovery ((List.range Config.imageSize).map (s.physByte 0))

/-- BOOTSTAT.RETRY (R475): in state 3 the ROM verifies the recovery image, and writes one that passes to flash. -/
def execBootstatRetry (s : State) : Outcome State Fault Refusal :=
  .next (if s.regs.bootState = 3 then s.next.verify s.recovery else s)

/-- The physical address that an offset of BAR2 reaches: bits of BAR2BASE below BAR2's size are ignored (R470, Table 19.2). -/
def State.bar2At (s : State) (off : Nat) : Nat := s.regs.bar2 / s.regs.bar2Size * s.regs.bar2Size + off

/-- BAR2_ACCESS (R470); what lies outside BAR2 reaches nothing; a read's length is that of the bytes given. -/
def execBar2Access (write : Bool) (off : Nat) (bytes : List Byte) (s : State) : Outcome State Fault Refusal :=
  let a := s.bar2At off
  .next (if s.regs.bar2Size < off + bytes.length then s
    else if write then (if hbmSize ≤ a then s else s.physWrite a bytes)
    else { s.next with hostData := (List.range bytes.length).map (s.physByte a) })

/-! ## Attestation (R476) -/

/-- ATTCMD (R476): while a report is being written, whether a second command replaces the buffer is open. -/
def execAttcmd (v : Word) (s : State) : Outcome State Fault Refusal :=
  .next (if s.serves = false ∨ outside v 0x800000FFFFFFF000 = true then s
    else
      let a := field v.toNat 12 28 * 4096
      match s.regs.att with
      | none => s.onRegs fun r => { r with att := some a }
      | some _ => if s.choose 2 = 0 then s.next else s.next.onRegs fun r => { r with att := some a })

/-- The bytes of the report that the signatures cover; TIME is open. -/
def State.reportHead (s : State) (nonce : List Byte) : List Byte :=
  [0x41, 0x54, 0x52, 0x01, 0, 0, 0, 0].map (BitVec.ofNat 8) ++ natLe 16 s.identity ++ nonce ++
    (List.range 48).map (Config.measurement s.flash) ++ (List.range' 0x068 8).map (Config.freeByte s.tick)

/-- The report of Table 19.6: the measurement is the running firmware's, and the signatures are those of the bytes before them. -/
def State.report96 (s : State) (nonce : List Byte) : List Byte :=
  let m := s.reportHead nonce
  m ++ (List.range 64).map (Config.ed25519 m) ++ (List.range 3309).map (Config.mlDsa m s.tick) ++ List.replicate 611 0

/-- ATTEST_REPORT_DONE (R476): once the firmware runs, the buffer receives the report, and BUSY clears. -/
def execAttestReportDone (s : State) : Outcome State Fault Refusal :=
  .next (if s.regs.bootState ≠ 2 then s else match s.regs.att with
    | some a =>
      let bs := s.report96 (s.physRead a 32)
      ((if hbmSize ≤ a then s else s.physWrite a bs).next).onRegs fun r => { r with att := none }
    | none => s)

/-! ## Soft errors (R143) -/

/-- The latest recorded store to a unit leaves it poisoned. -/
def poisonLast (u : Nat) : List AccRec → List AccRec
  | [] => []
  | r :: q =>
    let hit (x : AccRec) : Bool := x.store && (unitsOf x.pa x.len).contains u
    if hit r && !q.any hit then { r with newPz := r.newPz.set (u - r.pa / 32) true } :: q else r :: poisonLast u q

/-- SOFT_ERROR (R143): a unit of HBM4, or of the chip scratchpad (space 3), becomes poisoned. -/
def execSoftError (space owner unit : Nat) (s : State) : Outcome State Fault Refusal :=
  let mark (m : Mem) : Mem := { m with pz := assocSet false m.pz unit true }
  .next (if space = 0 then { s.onMem .glob owner mark with recs := poisonLast unit s.recs }
    else if space = 3 then s.onMem .chip owner mark
    else s)

/-! ## Heat and clocks (R478) -/

/-- A die's TEMP takes a value of n from a on. -/
def State.warm (s : State) (d a n : Nat) : State := s.onRegs fun r => { r with temp := r.temp.set d (a + s.choose n) }

/-- DIE_THROTTLE (R478): a die's TEMP reaches 105 °C, short of 115: it runs at 0.9 GHz, and the event is logged. TEMP of a die that is
throttled already moves between the thresholds. -/
def execDieThrottle (d : BitVec 2) (s : State) : Outcome State Fault Refusal :=
  .next (if s.regs.hot.getD d.toNat false then (s.warm d.toNat 95 20).next
    else ((s.warm d.toNat 105 10).onRegs fun r => { r with hot := r.hot.set d.toNat true, clk := r.clk.set d.toNat 9 }).logEvent
      7 0 511 0 (d.setWidth 64))

/-- DIE_THROTTLE_END (R478): a throttled die's TEMP falls below 95 °C: it may run faster again. TEMP of another moves below 105. -/
def execDieThrottleEnd (d : BitVec 2) (s : State) : Outcome State Fault Refusal :=
  .next ((s.warm d.toNat 0 (if s.regs.hot.getD d.toNat false then 95 else 105)).next.onRegs fun r => { r with hot := r.hot.set d.toNat false })

/-- THERMAL_SHUTDOWN (R478): TEMP of some die, hardware's choice here, reaches 115 °C: every clock stops, and the link goes down. -/
def execThermalShutdown (s : State) : Outcome State Fault Refusal :=
  .next ({ (s.next.warm (s.choose 4) 115 141) with
    ports := s.ports.map fun ((n, p) : Nat × Port) => (n, { p with trained := false }) }.onRegs fun r => { r with stopped := true })

/-- CLOCK_CHANGE (R478): firmware sets a die's clock, 0.9 to 2.4 GHz; a hot die stays at 0.9 GHz. -/
def execClockChange (d : BitVec 2) (clk : BitVec 8) (s : State) : Outcome State Fault Refusal :=
  .next (if 9 ≤ clk.toNat ∧ clk.toNat ≤ 24 ∧ s.regs.hot.getD d.toNat false = false then
      s.onRegs fun r => { r with clk := r.clk.set d.toNat clk.toNat }
    else s)

end Machine
end Sys2Proof
end

