-- ==== Sys2Proof/Machine/Dispatch.lean ====
section
/-! DEFINITION. One arm per constructor of `Instr`: a direct call of its meaning, or a rejection by name. -/

namespace Sys2Proof
namespace Machine
open Host

/-- What an instruction or event does in a state. -/
def exec (i : Instr) (s : State) : Host.Outcome State Fault Refusal :=
  match i with
  | .mov g d a => Sys2Proof.Machine.execMov g d a s
  | .movi g d imm => Sys2Proof.Machine.execMovi g d imm s
  | .movhi g d imm => Sys2Proof.Machine.execMovhi g d imm s
  | .smove g d a n => Sys2Proof.Machine.execSmove g d a n s
  | .sset g d v n1 => Sys2Proof.Machine.execSset g d v n1 s
  | .loop step a off => Sys2Proof.Machine.execLoop step a off s
  | .endloopBrk m1 off => Sys2Proof.Machine.execEndloopBrk m1 off s
  | .frameadj delta => Sys2Proof.Machine.execFrameadj delta s
  | .ixset g d x count => Sys2Proof.Machine.execIxset g d x count s
  | .ixstepAdd g x a imm => Sys2Proof.Machine.execIxstepAdd g x a imm s
  | .ixstepSet g x a imm => Sys2Proof.Machine.execIxstepSet g x a imm s
  | .spill g d n => Sys2Proof.Machine.execSpill g d n s
  | .fill g d n => Sys2Proof.Machine.execFill g d n s
  | .stashq g d q => Sys2Proof.Machine.execStashq g d q s
  | .iadd g d a b => Sys2Proof.Machine.execIadd g d a b s
  | .iadds g d a b => Sys2Proof.Machine.execIadds g d a b s
  | .isub g d a b => Sys2Proof.Machine.execIsub g d a b s
  | .isubs g d a b => Sys2Proof.Machine.execIsubs g d a b s
  | .imul g d a b => Sys2Proof.Machine.execImul g d a b s
  | .imulh g d a b => Sys2Proof.Machine.execImulh g d a b s
  | .imad g d a b => Sys2Proof.Machine.execImad g d a b s
  | .imin g d a b => Sys2Proof.Machine.execImin g d a b s
  | .imax g d a b => Sys2Proof.Machine.execImax g d a b s
  | .iabs g d a => Sys2Proof.Machine.execIabs g d a s
  | .ineg g d a => Sys2Proof.Machine.execIneg g d a s
  | .and g d a b => Sys2Proof.Machine.execAnd g d a b s
  | .or g d a b => Sys2Proof.Machine.execOr g d a b s
  | .xor g d a b => Sys2Proof.Machine.execXor g d a b s
  | .andn g d a b => Sys2Proof.Machine.execAndn g d a b s
  | .not g d a => Sys2Proof.Machine.execNot g d a s
  | .shl g d a n => Sys2Proof.Machine.execShl g d a n s
  | .shr g d a n => Sys2Proof.Machine.execShr g d a n s
  | .sar g d a n => Sys2Proof.Machine.execSar g d a n s
  | .rot g d a n => Sys2Proof.Machine.execRot g d a n s
  | .popc g d a => Sys2Proof.Machine.execPopc g d a s
  | .clz g d a => Sys2Proof.Machine.execClz g d a s
  | .brev g d a => Sys2Proof.Machine.execBrev g d a s
  | .bfx g d a sx len1 pos => Sys2Proof.Machine.execBfx g d a sx len1 pos s
  | .bfi g d a len1 pos => Sys2Proof.Machine.execBfi g d a len1 pos s
  | .icmp g c m p a b => Sys2Proof.Machine.execIcmp g c m p a b s
  | .sel g d a b => Sys2Proof.Machine.execSel g d a b s
  | .amov g d a b => Sys2Proof.Machine.execAmov g d a b s
  | .aadd g d a b => Sys2Proof.Machine.execAadd g d a b s
  | .amul g d a b => Sys2Proof.Machine.execAmul g d a b s
  | .aget g d a q => Sys2Proof.Machine.execAget g d a q s
  | .afrom g d a => Sys2Proof.Machine.execAfrom g d a s
  | .alea g d a n sx => Sys2Proof.Machine.execAlea g d a n sx s
  | .fadd g d a b => Sys2Proof.Machine.execFadd g d a b s
  | .fsub g d a b => Sys2Proof.Machine.execFsub g d a b s
  | .fmul g d a b => Sys2Proof.Machine.execFmul g d a b s
  | .ffma g d a b => Sys2Proof.Machine.execFfma g d a b s
  | .fmin g d a b => Sys2Proof.Machine.execFmin g d a b s
  | .fmax g d a b => Sys2Proof.Machine.execFmax g d a b s
  | .fneg g d a => Sys2Proof.Machine.execFneg g d a s
  | .fabs g d a => Sys2Proof.Machine.execFabs g d a s
  | .fcmp g c m p a b => Sys2Proof.Machine.execFcmp g c m p a b s
  | .fclass g d a => Sys2Proof.Machine.execFclass g d a s
  | .frcp g d a => Sys2Proof.Machine.execFrcp g d a s
  | .frsq g d a => Sys2Proof.Machine.execFrsq g d a s
  | .fsqrt g d a => Sys2Proof.Machine.execFsqrt g d a s
  | .fexp2 g d a => Sys2Proof.Machine.execFexp2 g d a s
  | .flog2 g d a => Sys2Proof.Machine.execFlog2 g d a s
  | .ftanh g d a => Sys2Proof.Machine.execFtanh g d a s
  | .fscl g d a b => Sys2Proof.Machine.execFscl g d a b s
  | .frnd g d a m => Sys2Proof.Machine.execFrnd g d a m s
  | .cvtfTo g d a slot => Sys2Proof.Machine.execCvtfTo g d a slot s
  | .cvtfFrom g d a slot => Sys2Proof.Machine.execCvtfFrom g d a slot s
  | .cvtfi g d a sx m => Sys2Proof.Machine.execCvtfi g d a sx m s
  | .cvtif g d a m => Sys2Proof.Machine.execCvtif g d a m s
  | .qblk d a slot sc => Sys2Proof.Machine.execQblk d a slot sc s
  | .dqblk d a slot sc => Sys2Proof.Machine.execDqblk d a slot sc s
  | .bra g off => Sys2Proof.Machine.execBra g off s
  | .braLv g n off => Sys2Proof.Machine.execBraLv g n off s
  | .brx g a => Sys2Proof.Machine.execBrx g a s
  | .call g d off => Sys2Proof.Machine.execCall g d off s
  | .callx g d a => Sys2Proof.Machine.execCallx g d a s
  | .ret g a => Sys2Proof.Machine.execRet g a s
  | .join g n => Sys2Proof.Machine.execJoin g n s
  | .leave g n => Sys2Proof.Machine.execLeave g n s
  | .jwait g n => Sys2Proof.Machine.execJwait g n s
  | .mget g d arr n => Sys2Proof.Machine.execMget g d arr n s
  | .mput g a n => Sys2Proof.Machine.execMput g a n s
  | .exit g => Sys2Proof.Machine.execExit g s
  | .yield g c => Sys2Proof.Machine.execYield g c s
  | .nop g => Sys2Proof.Machine.execNop g s
  | .shfl p d a b => Sys2Proof.Machine.execShfl p d a b s
  | .shflup p d a n => Sys2Proof.Machine.execShflup p d a n s
  | .shfldn p d a n => Sys2Proof.Machine.execShfldn p d a n s
  | .shflx p d a n => Sys2Proof.Machine.execShflx p d a n s
  | .bcast p d a low n => Sys2Proof.Machine.execBcast p d a low n s
  | .scan p d a op excl => Sys2Proof.Machine.execScan p d a op excl s
  | .reduce p d a op => Sys2Proof.Machine.execReduce p d a op s
  | .ballot p d q => Sys2Proof.Machine.execBallot p d q s
  | .prank p d t q => Sys2Proof.Machine.execPrank p d t q s
  | .sample p d a b => Sys2Proof.Machine.execSample p d a b s
  | .ldg g d a hint off => Sys2Proof.Machine.execLdg g d a hint off s
  | .stg g d a hint off => Sys2Proof.Machine.execStg g d a hint off s
  | .lds g d a off => Sys2Proof.Machine.execLds g d a off s
  | .sts g d a off => Sys2Proof.Machine.execSts g d a off s
  | .ldc g d a off => Sys2Proof.Machine.execLdc g d a off s
  | .stc g d a off => Sys2Proof.Machine.execStc g d a off s
  | .ldx g d a off => Sys2Proof.Machine.execLdx g d a off s
  | .stx g d a off => Sys2Proof.Machine.execStx g d a off s
  | .ldt g d l n1 t => Sys2Proof.Machine.execLdt g d l n1 t s
  | .stt g d l n1 t => Sys2Proof.Machine.execStt g d l n1 t s
  | .pref g w a hint off => Sys2Proof.Machine.execPref g w a hint off s
  | .l1inv g len a off => Sys2Proof.Machine.execL1inv g len a off s
  | .l1invAll g => Sys2Proof.Machine.execL1invAll g s
  | .fence sc => Sys2Proof.Machine.execFence sc s
  | .bart n => Sys2Proof.Machine.execBart n s
  | .bartN n a => Sys2Proof.Machine.execBartN n a s
  | .barc n => Sys2Proof.Machine.execBarc n s
  | .pld d r slot n dflt out => Sys2Proof.Machine.execPld d r slot n dflt out s
  | .prfn d r slot n dflt => Sys2Proof.Machine.execPrfn d r slot n dflt s
  | .pst a r slot n dflt => Sys2Proof.Machine.execPst a r slot n dflt s
  | .pcopy desc bar n f => Sys2Proof.Machine.execPcopy desc bar n f s
  | .pcopyx desc bar n f => Sys2Proof.Machine.execPcopyx desc bar n f s
  | .pbinit bar => Sys2Proof.Machine.execPbinit bar s
  | .pbwait q bar n => Sys2Proof.Machine.execPbwait q bar n s
  | .pbtest d bar hi => Sys2Proof.Machine.execPbtest d bar hi s
  | .pgate d pair est thr => Sys2Proof.Machine.execPgate d pair est thr s
  | .paudit d e thr => Sys2Proof.Machine.execPaudit d e thr s
  | .pdrop desc h => Sys2Proof.Machine.execPdrop desc h s
  | .ptagGet d t chip => Sys2Proof.Machine.execPtagGet d t chip s
  | .ptagSet t chip v => Sys2Proof.Machine.execPtagSet t chip v s
  | .mma tile rb e slot a chunk sc => Sys2Proof.Machine.execMma tile rb e slot a chunk sc s
  | .mmap tile rb e r chunk idx => Sys2Proof.Machine.execMmap tile rb e r chunk idx s
  | .wbload e c1 slot sx src b => Sys2Proof.Machine.execWbload e c1 slot sx src b s
  | .wbdrop e => Sys2Proof.Machine.execWbdrop e s
  | .acq tile => Sys2Proof.Machine.execAcq tile s
  | .rel tile => Sys2Proof.Machine.execRel tile s
  | .accrd tile rb cols d => Sys2Proof.Machine.execAccrd tile rb cols d s
  | .accwr tile rb cols a => Sys2Proof.Machine.execAccwr tile rb cols a s
  | .accz tile => Sys2Proof.Machine.execAccz tile s
  | .drain tile mode space w z a stride => Sys2Proof.Machine.execDrain tile mode space w z a stride s
  | .atom g d a op n off => Sys2Proof.Machine.execAtom g d a op n off s
  | .cas g d a b => Sys2Proof.Machine.execCas g d a b s
  | .atomf g d a op n off => Sys2Proof.Machine.execAtomf g d a op n off s
  | .waitv g d a c off => Sys2Proof.Machine.execWaitv g d a c off s
  | .dqpush g w0 w1 w2 => Sys2Proof.Machine.execDqpush g w0 w1 w2 s
  | .dqpop g d q => Sys2Proof.Machine.execDqpop g d q s
  | .dqsteal g d q => Sys2Proof.Machine.execDqsteal g d q s
  | .fork g ctr entry arg => Sys2Proof.Machine.execFork g ctr entry arg s
  | .tjoin g ctr => Sys2Proof.Machine.execTjoin g ctr s
  | .tend g ctr => Sys2Proof.Machine.execTend g ctr s
  | .wreg g d base space w r sz => Sys2Proof.Machine.execWreg g d base space w r sz s
  | .wregRe g d => Sys2Proof.Machine.execWregRe g d s
  | .wdereg g d h => Sys2Proof.Machine.execWdereg g d h s
  | .put g src dst ctl => Sys2Proof.Machine.execPut g src dst ctl s
  | .putm g src list ctl => Sys2Proof.Machine.execPutm g src list ctl s
  | .get g dst src ctl => Sys2Proof.Machine.execGet g dst src ctl s
  | .wcntW g d h => Sys2Proof.Machine.execWcntW g d h s
  | .wcntDone g d c => Sys2Proof.Machine.execWcntDone g d c s
  | .wcntRef g d c => Sys2Proof.Machine.execWcntRef g d c s
  | .wwaitW g d h => Sys2Proof.Machine.execWwaitW g d h s
  | .wwaitSnd g d c => Sys2Proof.Machine.execWwaitSnd g d c s
  | .rsend g m dst size st => Sys2Proof.Machine.execRsend g m dst size st s
  | .rwait g d hdr => Sys2Proof.Machine.execRwait g d hdr s
  | .radv g hdr n => Sys2Proof.Machine.execRadv g hdr n s
  | .kvmap g d key => Sys2Proof.Machine.execKvmap g d key s
  | .kvalloc g d a rsv => Sys2Proof.Machine.execKvalloc g d a rsv s
  | .kvfree g d a => Sys2Proof.Machine.execKvfree g d a s
  | .kvfork g d a n => Sys2Proof.Machine.execKvfork g d a n s
  | .kvapp g d key src => Sys2Proof.Machine.execKvapp g d key src s
  | .kvcommit g d a n => Sys2Proof.Machine.execKvcommit g d a n s
  | .kvtrim g d a n => Sys2Proof.Machine.execKvtrim g d a n s
  | .attn g d key desc => Sys2Proof.Machine.execAttn g d key desc s
  | .attnwait g q desc => Sys2Proof.Machine.execAttnwait g q desc s
  | .grinit g d a img => Sys2Proof.Machine.execGrinit g d a img s
  | .grmask g d seq off => Sys2Proof.Machine.execGrmask g d seq off s
  | .gradv g d a q => Sys2Proof.Machine.execGradv g d a q s
  | .grckptSave g d seq c => Sys2Proof.Machine.execGrckptSave g d seq c s
  | .grckptRel g d seq c => Sys2Proof.Machine.execGrckptRel g d seq c s
  | .grckptRelall g d seq => Sys2Proof.Machine.execGrckptRelall g d seq s
  | .grroll g d seq c => Sys2Proof.Machine.execGrroll g d seq c s
  | .grfork g d a => Sys2Proof.Machine.execGrfork g d a s
  | .grstat g d seq ck => Sys2Proof.Machine.execGrstat g d seq ck s
  | .squash g d a n => Sys2Proof.Machine.execSquash g d a n s
  | .sqsetTag g d a => Sys2Proof.Machine.execSqsetTag g d a s
  | .sqsetOff g d => Sys2Proof.Machine.execSqsetOff g d s
  | .sqsetEntry g d a => Sys2Proof.Machine.execSqsetEntry g d a s
  | .sqsetUnreg g d => Sys2Proof.Machine.execSqsetUnreg g d s
  | .rng g d a b => Sys2Proof.Machine.execRng g d a b s
  | .launch g d a => Sys2Proof.Machine.execLaunch g d a s
  | .ldepAdd g d a => Sys2Proof.Machine.execLdepAdd g d a s
  | .ldepGo g d => Sys2Proof.Machine.execLdepGo g d s
  | .lquery g d h => Sys2Proof.Machine.execLquery g d h s
  | .seqadm g d a => Sys2Proof.Machine.execSeqadm g d a s
  | .seqret g d seq => Sys2Proof.Machine.execSeqret g d seq s
  | .seqinfo g d a q => Sys2Proof.Machine.execSeqinfo g d a q s
  | .trap g code => Sys2Proof.Machine.execTrap g code s
  | .tret g => Sys2Proof.Machine.execTret g s
  | .tretSkip g => Sys2Proof.Machine.execTretSkip g s
  | .sysrd g d r => Sys2Proof.Machine.execSysrd g d r s
  | .syswr g a r => Sys2Proof.Machine.execSyswr g a r s
  | .bkpt g code => Sys2Proof.Machine.execBkpt g code s
  | .hcall g d a svc => Sys2Proof.Machine.execHcall g d a svc s
  | .xinv g len a off => Sys2Proof.Machine.execXinv g len a off s
  | .xinvAll g => Sys2Proof.Machine.execXinvAll g s
  | .fmodeSet g v => Sys2Proof.Machine.execFmodeSet g v s
  | .fmodeClr g v => Sys2Proof.Machine.execFmodeClr g v s
  | .fmodeWr g v => Sys2Proof.Machine.execFmodeWr g v s
  | .yieldDelayEnd t => Sys2Proof.Machine.execYieldDelayEnd t s
  | .crossLaneComplete grp addr => Sys2Proof.Machine.execCrossLaneComplete grp addr s
  | .sliceWriteComplete t id => Sys2Proof.Machine.execSliceWriteComplete t id s
  | .loadDataReturn id => Sys2Proof.Machine.execLoadDataReturn id s
  | .storePerformed id => Sys2Proof.Machine.execStorePerformed id s
  | .strongAccessPerformed id => Sys2Proof.Machine.execStrongAccessPerformed id s
  | .waitvReread t => Sys2Proof.Machine.execWaitvReread t s
  | .icacheFill core asid line => Sys2Proof.Machine.execIcacheFill core asid line s
  | .faultBufferRetry id => Sys2Proof.Machine.execFaultBufferRetry id s
  | .barrierEpisodeComplete cluster owner n => Sys2Proof.Machine.execBarrierEpisodeComplete cluster owner n s
  | .teamPhaseArrival team => Sys2Proof.Machine.execTeamPhaseArrival team s
  | .phaseBoundaryComplete grid => Sys2Proof.Machine.execPhaseBoundaryComplete grid s
  | .squashEventTaken t => Sys2Proof.Machine.execSquashEventTaken t s
  | .copyEngineStart id => Sys2Proof.Machine.execCopyEngineStart id s
  | .copyRegionComplete id => Sys2Proof.Machine.execCopyRegionComplete id s
  | .copyPoisonEnd id => Sys2Proof.Machine.execCopyPoisonEnd id s
  | .pdropComplete id => Sys2Proof.Machine.execPdropComplete id s
  | .matrixPass unit => Sys2Proof.Machine.execMatrixPass unit s
  | .wbloadComplete id => Sys2Proof.Machine.execWbloadComplete id s
  | .drainComplete id => Sys2Proof.Machine.execDrainComplete id s
  | .windowFree idx => Sys2Proof.Machine.execWindowFree idx s
  | .arrivalAccept id => Sys2Proof.Machine.execArrivalAccept id s
  | .arrivalLand id => Sys2Proof.Machine.execArrivalLand id s
  | .transferComplete id => Sys2Proof.Machine.execTransferComplete id s
  | .transferRefused id => Sys2Proof.Machine.execTransferRefused id s
  | .attnComplete id => Sys2Proof.Machine.execAttnComplete id s
  | .sequenceRequestComplete id => Sys2Proof.Machine.execSequenceRequestComplete id s
  | .walkerRequestStart id => Sys2Proof.Machine.execWalkerRequestStart id s
  | .strikeDeadline e => Sys2Proof.Machine.execStrikeDeadline e s
  | .kvPageRestore page => Sys2Proof.Machine.execKvPageRestore page s
  | .kvsqcmdConfirm e => Sys2Proof.Machine.execKvsqcmdConfirm e s
  | .kvsqcmdVeto e => Sys2Proof.Machine.execKvsqcmdVeto e s
  | .hostQueueConsume q => Sys2Proof.Machine.execHostQueueConsume q s
  | .launchReady grid => Sys2Proof.Machine.execLaunchReady grid s
  | .placeageExpiry grid => Sys2Proof.Machine.execPlaceageExpiry grid s
  | .placeevictExpiry grid => Sys2Proof.Machine.execPlaceevictExpiry grid s
  | .launchComplete grid => Sys2Proof.Machine.execLaunchComplete grid s
  | .gridFatalTrap grid => Sys2Proof.Machine.execGridFatalTrap grid s
  | .swapDecision team => Sys2Proof.Machine.execSwapDecision team s
  | .swapOut cluster => Sys2Proof.Machine.execSwapOut cluster s
  | .swapIn cluster => Sys2Proof.Machine.execSwapIn cluster s
  | .swapwaitExpiry id => Sys2Proof.Machine.execSwapwaitExpiry id s
  | .linkBlockReceive port header payload tag => Sys2Proof.Machine.execLinkBlockReceive port header payload tag s
  | .hcallAnswer id => Sys2Proof.Machine.execHcallAnswer id s
  | .kvsqcmdFront e => Sys2Proof.Machine.execKvsqcmdFront e s
  | .kvsqcmdSetH e h => Sys2Proof.Machine.execKvsqcmdSetH e h s
  | .hqtailWrite q v => Sys2Proof.Machine.execHqtailWrite q v s
  | .schedcmdAbort handle => Sys2Proof.Machine.execSchedcmdAbort handle s
  | .schedcmdSuspend handle => Sys2Proof.Machine.execSchedcmdSuspend handle s
  | .schedcmdResume handle => Sys2Proof.Machine.execSchedcmdResume handle s
  | .attcmd v => Sys2Proof.Machine.execAttcmd v s
  | .xlcmdRoot v => Sys2Proof.Machine.execXlcmdRoot v s
  | .xlcmdInval v => Sys2Proof.Machine.execXlcmdInval v s
  | .xlcmdResolve v => Sys2Proof.Machine.execXlcmdResolve v s
  | .xlcmdFail v => Sys2Proof.Machine.execXlcmdFail v s
  | .keycmdInstallSend v => Sys2Proof.Machine.execKeycmdInstallSend v s
  | .keycmdInstallReceive v => Sys2Proof.Machine.execKeycmdInstallReceive v s
  | .keycmdRetire v => Sys2Proof.Machine.execKeycmdRetire v s
  | .srdataAccess write v => Sys2Proof.Machine.execSrdataAccess write v s
  | .ctxfree v => Sys2Proof.Machine.execCtxfree v s
  | .registerWrite off v => Sys2Proof.Machine.execRegisterWrite off v s
  | .bar2Access write off bytes => Sys2Proof.Machine.execBar2Access write off bytes s
  | .softError space owner unit => Sys2Proof.Machine.execSoftError space owner unit s
  | .ualinkPortStateChange port up => Sys2Proof.Machine.execUalinkPortStateChange port up s
  | .dieThrottle d => Sys2Proof.Machine.execDieThrottle d s
  | .dieThrottleEnd d => Sys2Proof.Machine.execDieThrottleEnd d s
  | .clockChange d clk => Sys2Proof.Machine.execClockChange d clk s
  | .endloop => Sys2Proof.Machine.execEndloop s
  | .phase => Sys2Proof.Machine.execPhase s
  | .phasea => Sys2Proof.Machine.execPhasea s
  | .phasew => Sys2Proof.Machine.execPhasew s
  | .trapDecision => Sys2Proof.Machine.execTrapDecision s
  | .strikePropose => Sys2Proof.Machine.execStrikePropose s
  | .strikeActionRun => Sys2Proof.Machine.execStrikeActionRun s
  | .teamPlace => Sys2Proof.Machine.execTeamPlace s
  | .priorityRecompute => Sys2Proof.Machine.execPriorityRecompute s
  | .moduleReset => Sys2Proof.Machine.execModuleReset s
  | .bootstatRetry => Sys2Proof.Machine.execBootstatRetry s
  | .attestReportDone => Sys2Proof.Machine.execAttestReportDone s
  | .xlcmdCommandDone => Sys2Proof.Machine.execXlcmdCommandDone s
  | .thermalShutdown => Sys2Proof.Machine.execThermalShutdown s

end Machine
end Sys2Proof
end

