-- ==== Sys2Proof/Machine/Wake.lean ====
section
/-! DEFINITION. What follows from the state after each event, without an event of its own: range-lock entries are taken in issue
order (R253), waiting threads whose condition holds go on (R11), cross-lane words whose participants all wait complete (R197), and
teams whose threads have all exited end (R192). -/

namespace Sys2Proof
namespace Machine
open Host

/-! ## Range locks and first steps (R253, R278, R379) -/

/-- May an ATTN go to the sequence table: is no earlier request of its partition on its sequence outstanding (R379, R394)? -/
def State.attnTurn (s : State) (o : EngOp) (a : AttnOp) : Bool :=
  a.accepted || !s.earlierOf (o.core * 4 + (s.group (s.thread o.thread).grp).partition) o.id false [(kvKey a.key).seq]

/-- An operation takes its entries. -/
def State.grant (s : State) (o : EngOp) : State :=
  (o.want.foldl (fun s w => s.takeLock o.core o.id w) s).onOp o.id fun o => { o with st := .run, parked := false }

/-- The sequence table turns an attention operation away at its turn, before it takes entries (R379). -/
def State.attnRefused (s : State) (o : EngOp) : Option State :=
  match o.kind with
  | .attn a =>
    if s.attnTurn o a && decide ((s.attnSt o.asid a.key a.n).1 ≠ 0) && !o.parked then some (s.attnAccept o a) else none
  | _ => none

/-- Does an attention operation wait for its turn at the table, before it takes entries? -/
def State.attnEarly (s : State) (o : EngOp) : Bool :=
  match o.kind with
  | .attn a => !s.attnTurn o a
  | _ => false

/-- Does a word that stalls for entries stand back for a restart record of its team that takes its own (R457)? -/
def State.behindRestart (s : State) (o : EngOp) : Bool :=
  !o.parked && s.ops.any fun x => x.team == o.team && x.parked && x.st == .locking

/-- An operation that waits for entries takes them at once unless it must stall; the stalled ones of a core, which `blocked` lists once
one of them must wait on, take theirs in issue order (R253). -/
def State.grantNext (x : State × List Nat) (o : EngOp) : State × List Nat :=
  let (s, blocked) := x
  if (s.cluster (s.team o.team).cluster).out || s.attnEarly o || s.behindRestart o then (s, blocked)
  else match s.attnRefused o with
  | some s => (s, blocked)
  | none =>
  if o.stalled && blocked.contains o.core then (s, blocked)
  else if s.canLock o then (s.grant o, blocked)
  else (s.onOp o.id fun o => { o with stalled := true }, o.core :: blocked)

/-- The operations that wait for entries take them (R253). -/
def State.grants (s : State) : State := ((s.ops.filter fun o => o.st == .locking).foldl State.grantNext (s, [])).1

/-- May an operation with its entries take its first step: the issuing threads' earlier accesses to the locked bytes are performed, and
an ATTN has its turn? -/
def State.firstDue (s : State) (o : EngOp) : Bool :=
  o.st == .run && !o.first && !o.parked && s.opClear o && match o.kind with | .attn a => s.attnTurn o a | _ => true

/-- An operation takes its first step; a GRMASK reaches its die's walker queue (R26). -/
def State.firstStep (s : State) (o : EngOp) : State :=
  let s := s.onOp o.id fun o => { o with first := true }
  match o.kind with
  | .copy c => s.copyFirst o c
  | .attn a => if a.accepted then s else s.attnAccept o a
  | .mask r => { s with reqs := s.reqs.map (fun x => if x.id = r then { x with ord := s.nextId } else x), nextId := s.nextId + 1 }
  | _ => s

/-- The operations that may take their first steps take them, in issue order. -/
def State.firsts (s : State) : State := s.ops.foldl (fun s o => if s.firstDue o then s.firstStep o else s) s

/-! ## Waiting threads (R11) -/

/-- Writes a predicate bit of a thread outside any issue. -/
def State.putPredOf (s : State) (t : Nat) (q : PredBit) (c : Bool) : State :=
  let th := s.thread t
  (s.atGroup th.grp [th.lane]).putPred th.lane q c

/-- What re-testing a waiting thread gives: the state, and the fault that its wait ends in. -/
abbrev Retest := State × Option WaitFault

/-- PBWAIT's condition again (R285). -/
def State.retestPb (s : State) (t : Nat) (q : PredBit) (off n : Nat) : Retest :=
  let v := s.barObj (s.teamOf t) off
  match s.corePoison (s.teamOf t) off 16 with
  | some i => (s, some { t, pend := s.nextId, cause := 0x0B, info := i })
  | none =>
  if barObjBad v then (s, some { t, pend := s.nextId, cause := 0x02, info := 0 })
  else if barDone v n then ((s.putPredOf t q (barLevel v n)).endWait t, none)
  else (s, none)

/-- WWAIT.SND's condition again (R349). -/
def State.retestSends (s : State) (t c : Nat) (n : W32) (p : Nat) : Retest :=
  let v := (s.sndc (s.teamOf t) c).toNat
  let done : W32 := BitVec.ofNat 32 (field v 0 32)
  let ref := field v 32 24
  if serialGe (done + BitVec.ofNat 32 ref) n then
    if field v 63 1 = 1 then
      (s, some { t, pend := p, cause := 0x15, info := BitVec.ofNat 64 (c + ref * 16 + field v 60 3 * 2 ^ 28) })
    else ((s.landPend t p (done.setWidth 64)).endWait t, none)
  else (s, none)

/-- RWAIT's condition again (R353, R354). -/
def State.retestRing (s : State) (t off : Nat) (n : W32) (p : Nat) : Retest :=
  let r := s.ringAt (s.teamOf t) off
  match s.corePoison (s.teamOf t) off 16 with
  | some i => (s, some { t, pend := p, cause := 0x0B, info := i })
  | none =>
  if r.bad then (s, some { t, pend := p, cause := 0x02, info := 0 })
  else if n.toNat ≤ r.count then ((s.landPend t p (BitVec.ofNat 64 r.count)).endWait t, none)
  else (s, none)

/-- A thread at a barrier arrives once its accesses have been performed (R244). -/
def State.retestBarrier (s : State) (t : Nat) (cl : Bool) (n : Nat) (cnt : Option Nat) : State :=
  if s.fenceOk t 7 then
    let owner := if cl then (s.team (s.teamOf t)).cluster else s.teamOf t
    (s.onBar cl owner n (·.arrive t cnt)).onThread t fun th => { th with wait := .barrier cl n cnt true }
  else s

/-- ATTNWAIT's condition again (R385). -/
def State.retestAttn (s : State) (t : Nat) (q : PredBit) (off : Nat) : Retest :=
  let v := s.attnBits (s.teamOf t) off
  match s.corePoison (s.teamOf t) off 64 with
  | some i => (s, some { t, pend := s.nextId, cause := 0x0B, info := i })
  | none => if field v 256 1 = 0 then ((s.putPredOf t q (field v 257 1 = 1)).endWait t, none) else (s, none)

/-- Re-tests one thread: a wait whose condition holds ends. Waits that an event ends are left to it. -/
def State.retest (s : State) (t : Nat) : Retest :=
  let th := s.thread t
  let go (c : Bool) : Retest := if c then (s.endWait t, none) else (s, none)
  match th.wait with
  | .fence sc => go (s.fenceOk t sc)
  | .barrier cl n cnt false => (s.retestBarrier t cl n cnt, none)
  | .phase _ _ => (s.phaseStep t, none)
  | .lock id => go (match s.opOf id with | some o => o.st != .locking | none => true)
  | .op id => go (s.opOf id).isNone
  | .pbwait q off n => s.retestPb t q off n
  | .attn q off => s.retestAttn t q off
  | .acq unit tile => go (!(s.mxu unit).busy tile)
  | .arrivals i n p =>
    let v := (s.win i).arrived
    if serialGe v n then ((s.landPend t p (v.setWidth 64)).endWait t, none) else (s, none)
  | .sends c n p => s.retestSends t c n p
  | .ring off n p => s.retestRing t off n p
  | _ => (s, none)

/-- Re-tests every waiting thread that is not swapped out. A wait that would fault beside a decision to come waits on until that is
taken (R442). -/
def State.retestAll (s : State) : State × List WaitFault :=
  (List.range s.threads.length).foldl (fun ((s, fs) : State × List WaitFault) t =>
    let th := s.thread t
    if th.exited || th.wait == .none || (s.cluster (s.team (s.teamOf t)).cluster).out then (s, fs)
    else match s.retest t with
      | (s', some f) => if s.deciding t then (s, fs) else (s', fs ++ [f])
      | (s', none) => (s', fs)) (s, [])

/-- NEWREF of the counters whose refusal was reported is cleared (R349). -/
def State.clearNewref (s : State) (fs : List WaitFault) : State :=
  (fs.filter fun (f : WaitFault) => f.cause == 0x15).foldl (fun s f => s.onTeam (s.teamOf f.t) fun m =>
    { m with sndc := m.sndc.modify (field f.info.toNat 0 4) fun v => v &&& 0x7FFFFFFFFFFFFFFF }) s

/-- Teams whose threads have all exited end, once. -/
def State.endTeams (s : State) : State :=
  (List.range s.teams.length).foldl (fun s t => if s.teamEnded t && !(s.team t).ended then s.endTeam t else s) s

/-- Every waiting thread goes on whose wait's condition holds, or traps if its wait ends in a fault. -/
def State.retested (s : State) : State :=
  let (s, fs) := s.retestAll
  (s.waitTraps fs).clearNewref fs

/-- The class F words of a group that complete now, by address (R197). -/
def State.crossAddrs (s : State) (g : Nat) : List Word :=
  let as := ((List.range (s.group g).w).filterMap fun l => (s.thread ((s.group g).t0 + l)).arrival.map (·.2)).eraseDups
  as.filter fun a => (s.crossReady g a).isSome

/-- Every class F word whose participants all wait at it completes (R197). -/
def State.crossings (s : State) : State :=
  (List.range s.groups.length).foldl (fun s g => (s.crossAddrs g).foldl (fun s a => s.crossed g a) s) s

/-- What follows an event: words and waits whose condition holds end first, then operations take entries, whose first steps may change
what a thread waits for (R11). -/
def State.wake (s : State) : State :=
  let s := s.crossings.retested.grants.firsts
  let s := (s.arrs.filter fun a => a.st == .accepted).foldl State.arrLock s
  s.crossings.retested.endTeams

end Machine
end Sys2Proof
end

