-- ==== Sys2Proof/Machine/Pick.lean ====
section
/-! DEFINITION. Which chain a partition issues: readiness (07 R169), paths and their selection (R171), issue sets (R173, R174), slots
(17 R430), runs that hold a partition (02 R38), wait ages (R170). -/

namespace Sys2Proof
namespace Machine
open Host

/-! ## Readiness (R169) -/

/-- The issue slot of a thread: lanes 32–63 of a 64-lane group are in the odd slot of its pair (R19). -/
def State.slotOf (s : State) (t : Nat) : Nat :=
  let th := s.thread t
  let g := s.group th.grp
  if g.w = 64 ∧ 32 ≤ th.lane then g.slot + 1 else g.slot

/-- The threads of a partition that have not exited. -/
def State.partThreads (s : State) (core p : Nat) : List Nat :=
  (s.resident core).flatMap fun tm =>
    ((List.range' (s.team tm).g0 (s.team tm).ng).filter fun g => (s.group g).partition == p).flatMap fun g =>
      ((List.range (s.group g).w).map ((s.group g).t0 + ·)).filter fun t => !(s.thread t).exited

/-- May a team's chains issue: it is not being swapped out, and its restart records have their range-lock entries (R452, R457)? -/
def State.teamIssues (s : State) (tm : Nat) : Bool :=
  let c := s.cluster (s.team tm).cluster
  !c.swapping && !c.out && !(s.ops.any fun o => o.team == tm && o.parked)

/-- Is a chain with a class J word kept back by another team's claim (R295)? -/
def State.claimed (s : State) (t : Nat) (c : Chain) : Bool :=
  (c.words.any fun w => match decode w with | some i => i.cls == 12 | none => false) &&
    match (s.mxu (s.coreOf t * 4 + (s.group (s.thread t).grp).partition)).claim with
    | some m => m != s.teamOf t
    | none => false

/-- The chain at a thread's program counter, if the thread may issue but for the scoreboard. A chain without words stands for a
fetch from a page that may not be executed (R29). -/
def State.nextChain (s : State) (t : Nat) : Option Chain :=
  let th := s.thread t
  if th.exited || th.wait != .none || th.delay.isSome || th.later.isSome || s.deciding t || !s.teamIssues (s.teamOf t) || s.takesEvent t then none
  else match s.fetchOf t with
    | .line _ => none
    | .noX => some { pc := th.pc.toNat, words := [], ok := true, last := true, skip := th.pc.toNat }
    | .chain c => some c

/-- May a thread's chain issue under the scoreboard, with the matrix unit free for it (R69, R295)? -/
def State.allowed (s : State) (t : Nat) : Bool :=
  match s.nextChain t with
  | some c => s.scoreOk t c && !s.claimed t c
  | none => false

/-! ## Paths (R171) -/

/-- What the threads of a path share (R76, R443), in the order of R171's ties. The spec does not break the tie between a path of the
trap set and one outside it that share all the rest; DESIGN CHOICE: the one outside goes first (log entry 15). -/
def State.pathKey (s : State) (t : Nat) : List Nat :=
  let th := s.thread t
  [th.pc.toNat, th.lvl.toNat, th.fb.toNat, th.spr.toNat, if laneIn (s.group th.grp).tset th.lane then 1 else 0]

/-- Does every word of a chain act for each thread by itself (R173)? -/
def Chain.laneWise (c : Chain) : Bool := c.words.all fun w => match decode w with | some i => i.laneWise | none => true

/-- Does an issue set that would hold a thread hold another one of its path (R173): one of its group, or any for a lane-wise chain? -/
def State.together (s : State) (t u : Nat) : Bool :=
  s.slotOf u == s.slotOf t && s.pathKey u == s.pathKey t &&
    ((s.thread u).grp == (s.thread t).grp || match s.nextChain t with | some c => c.laneWise | none => false)

/-- The ready threads of a partition: a chain that one lane of an issue set may not issue yet waits for all of it (R71, R169). -/
def State.readyThreads (s : State) (core p : Nat) : List Nat :=
  let ts := (s.partThreads core p).filter fun t => (s.nextChain t).isSome
  let late := ts.filter fun t => !s.allowed t
  ts.filter fun t => !late.any (s.together t)

/-- The lower of two lists of numbers, the first member counting most. -/
def lexLt : List Nat → List Nat → Bool
  | a :: r, b :: q => decide (a < b) || (decide (a = b) && lexLt r q)
  | _, _ => false

/-- The thread a path is chosen for: the greatest age, then the lowest key (R171), then the lowest group and lane. -/
def State.oldest (s : State) : List Nat → Option Nat
  | [] => none
  | t :: r => match s.oldest r with
    | none => some t
    | some u =>
      let a := (s.thread t).age
      let b := (s.thread u).age
      if b < a ∨ (a = b ∧ lexLt (s.pathKey u) (s.pathKey t) = false) then some t else some u

/-- The issue set of a slot's ready threads: the oldest thread's path, in that thread's group (R171, R173, R174). -/
def State.issueSet (s : State) (ts : List Nat) : Option (Nat × List Nat) :=
  (s.oldest ts).map fun t =>
    let g := (s.thread t).grp
    (g, (ts.filter fun u => (s.thread u).grp == g && s.pathKey u == s.pathKey t).map fun u => (s.thread u).lane)

/-! ## Slots (R430) -/

/-- When a slot last issued; 0 since its groups were placed. -/
def State.slotAge (s : State) (core p slot : Nat) : Nat := assocGet 0 s.slotLast ((core * 4 + p) * 32 + slot)

/-- Does slot a go before slot b (R430): effective priority, then age, then number? -/
def slotLt (a b : Nat × Nat × Nat) : Bool :=
  decide (b.1 < a.1) || (decide (a.1 = b.1) && lexLt [a.2.1, a.2.2] [b.2.1, b.2.2])

/-- The slot a partition chooses among those with ready threads. -/
def State.pickSlot (s : State) (core p : Nat) (ts : List Nat) : Option Nat :=
  let rank (t : Nat) : Nat × Nat × Nat :=
    ((s.grid (s.gridOfGroup (s.thread t).grp)).eff, s.slotAge core p (s.slotOf t), s.slotOf t)
  (ts.foldl (fun (b : Option (Nat × Nat × Nat)) t => match b with
    | none => some (rank t)
    | some r => if slotLt (rank t) r then some (rank t) else some r) none).map fun r => r.2.2

/-- The parts, one per group, of the run that holds a partition (R38, R173). -/
def State.runsOf (s : State) (core p : Nat) : List Run := s.runs.filter fun u => u.core == core && u.part == p

/-- What a partition issues next: the next chain of the run that holds it once every lane may issue it (R38), or a path. -/
def State.pick (s : State) (core p : Nat) : Option Ready :=
  match s.runsOf core p with
  | u :: us =>
    let ts := (u :: us).flatMap fun u => u.lanes.map fun l => (s.group u.grp).t0 + l
    match ts with
    | [] => none
    | t :: _ => match s.nextChain t with
      | some c => if ts.all s.allowed then some { iss := s.nextId, grp := u.grp, lanes := u.lanes, chain := c, run := some u } else none
      | none => none
  | [] =>
    let ts := s.readyThreads core p
    match s.pickSlot core p ts with
    | none => none
    | some k => match s.issueSet (ts.filter fun t => s.slotOf t == k) with
      | none => none
      | some (g, ls) => match s.nextChain ((s.group g).t0 + ls.headD 0) with
        | some c => some { iss := s.nextId, grp := g, lanes := ls, chain := c, run := none }
        | none => none

/-- The first thread of an issue set. -/
def State.leader (s : State) (r : Ready) : Nat := (s.group r.grp).t0 + r.lanes.headD 0

/-- The ready threads of an issue's path, those of the slot's other groups among them (R171). -/
def State.pathOf (s : State) (core p : Nat) (r : Ready) : List Nat :=
  let t := s.leader r
  (s.readyThreads core p).filter fun u => s.slotOf u == s.slotOf t && s.pathKey u == s.pathKey t

/-- The issue set by groups, in increasing group index: a lane-wise chain issues for the whole path, any other for one group
(R173). A run keeps the issue set of its first chain (R38). The spec does not say what that means for a chain that is not lane-wise in a
run that several groups began; DESIGN CHOICE: it issues for each of them in turn, as lane-wise ones do (log entry 15). -/
def State.parts (s : State) (core p : Nat) (r : Ready) : List Ready :=
  if r.run.isSome then (s.runsOf core p).map fun u => { r with grp := u.grp, lanes := u.lanes, run := some u }
  else if r.chain.laneWise then
    let ts := s.pathOf core p r
    ((ts.map fun t => (s.thread t).grp).eraseDups).map fun g =>
      { r with grp := g, lanes := (ts.filter fun t => (s.thread t).grp == g).map fun t => (s.thread t).lane }
  else [r]

/-- The ages of a slot's ready threads that do not issue rise (R170), and the slot has issued (R430). The threads of the path's other
groups keep their ages as the issuing ones' fall to 0 (R173), and rise as every ready thread's that does not issue: DEDUCED, since R172's
bound holds only so (log entry 15). -/
def State.age (s : State) (core p : Nat) (r : Ready) : State :=
  let k := s.slotOf (s.leader r)
  let now := (s.parts core p r).flatMap fun q => q.lanes.map fun l => (s.group q.grp).t0 + l
  let ts := (s.readyThreads core p).filter fun t => s.slotOf t == k && !now.contains t
  let s := if r.run.isNone then ts.foldl (fun s t => s.onThread t fun th => { th with age := Nat.min 31 (th.age + 1) }) s else s
  { s with slotLast := assocSet 0 s.slotLast ((core * 4 + p) * 32 + k) (s.nextId + 1) }

/-- The cores that hold teams. -/
def State.busyCores (s : State) : List Nat :=
  (((List.range s.teams.length).filter fun t => !(s.cluster (s.team t).cluster).out && !s.teamEnded t).map fun t => (s.team t).core).eraseDups

end Machine
end Sys2Proof
end

