-- ==== Sys2Proof/Machine/Chain.lean ====
section
/-! DEFINITION. The issue of one chain (02 R34, R35, R37–R41, Table 2.2; 18 R441, R442): a chain of one word is its word's meaning in
the begun state; of a longer one every word's faults are found first, then the lanes without a fault execute every word, then the
faults are decided together. -/

namespace Sys2Proof
namespace Machine
open Host

/-- The state an execution answers; a stop keeps the state before it. -/
def State.after (s : State) (i : Instr) : State :=
  match exec i s with
  | .next t => t
  | _ => s

/-- Changes the issue record. -/
def State.onIssue (s : State) (f : Issue → Issue) : State := { s with issue := f s.issue }

/-! ## Faults found before a word's own (Table 2.2 steps 1 to 4) -/

/-- Every lane of the issue takes one fault, reported with word k. -/
def State.faultWord (s : State) (r : Ready) (stage cause k : Nat) (info : Word) : State :=
  (s.atWord r [] k).faultAll stage cause info

/-- The lanes of an issue that clash under R33 or R37, with the word, unless an earlier step of Table 2.2 already found a fault. -/
def State.clashes (s : State) (r : Ready) (is : List Instr) : List (Nat × Nat) :=
  r.lanes.filterMap fun l => (s.laneClash r is l).map fun k => (l, k)

/-! ## Chains of several words -/

/-- The faults and stalls that a word finds, without its effects. -/
def State.probe (s : State) (r : Ready) (is : List Instr) (ls : List Nat) (k : Nat) : List LaneFault × List (Nat × Option Nat) :=
  match is[k]? with
  | some i =>
    let t := (((s.atWord r is k).onIssue fun u => { u with lanes := ls, collect := true, faults := [], stalls := [] })).after i
    (t.issue.faults, t.issue.stalls)
  | none => ([], [])

/-- The fault of a lane that counts: the earliest step of Table 2.2, then the first word. -/
def firstFault (l : Nat) (fs : List LaneFault) : Option LaneFault :=
  (fs.filter fun (f : LaneFault) => f.lane == l).foldl (fun b f => match b with
    | none => some f
    | some x => if f.stage < x.stage then some f else some x) none

/-- The order in which a chain's words act: SYSRD, which reads before any word writes (R34); then SYSWR, so that the flags a class D word
raises as it completes are ORed into what SYSWR wrote (R147); then the arithmetic words and the memory word; then class E (R184). -/
def commitKey (i : Instr) : Nat :=
  match i with
  | .sysrd .. => 0
  | .syswr .. => 1
  | i => if i.frameOrBranch || i.classE then 4 else if i.pipe = .mem then 3 else 2

/-- A register of a frame that a word leaves: what the word changed from what the chain began with, else what earlier words left. -/
def changed {α : Type} [DecidableEq α] (start old new : α) : α := if new = start then old else new

/-- The thread with the frame registers of another state of it. -/
def Thread.withFrame (th f : Thread) : Thread := { th with fb := f.fb, lvl := f.lvl, lc := f.lc, ls := f.ls }

/-- What a word leaves a thread as, which found the frame registers that the chain began with (R77, R464): changes that earlier words
of the chain made to them stand. -/
def Thread.reframe (start old new : Thread) : Thread :=
  { new with
    fb := changed start.fb old.fb new.fb, lvl := changed start.lvl old.lvl new.lvl
    lc := (List.range new.lc.length).map fun k => changed (start.lc.getD k default) (old.lc.getD k default) (new.lc.getD k default)
    ls := (List.range new.ls.length).map fun k => changed (start.ls.getD k 0) (old.ls.getD k 0) (new.ls.getD k 0) }

/-- FMODE of the issuing group. -/
def State.withFmode (s : State) (v : BitVec 11) : State := s.onIg fun g => { g with fmode := v }

/-- Does a lane wait at its chain's memory word, so that the chain's class E word takes effect later (R184)? -/
def Thread.waitsFirst (th : Thread) : Bool := match th.wait with | .none | .cross _ _ _ => false | _ => true

/-- May a wait end in a fault, or has the waiting word itself still to be taken? Then no other word of the chain may act before (R34,
R442). -/
def Wait.undecided : Wait → Bool
  | .pbwait .. | .attn .. | .sends .. | .ring .. | .lock _ | .xlate _ _ => true
  | _ => false

/-- Words that read or write masks and do nothing else but move the pc or wait: they act when their chain issues (R176). -/
def maskWord : Instr → Bool
  | .join .. | .leave .. | .jwait .. | .mget .. | .mput .. | .braLv .. => true
  | _ => false

/-- Does the class E word of a chain wait with a lane for the chain's memory word? A mask word does not, unless the wait may end in a
fault (R34, R176, R184; log entry 10). -/
def Thread.putsOff (i : Instr) (th : Thread) : Bool := th.waitsFirst && (!maskWord i || th.wait.undecided)

/-- The class E word of the chain being executed waits with a lane for the chain's memory word (R184). -/
def State.putLater (s : State) (i : Instr) (l : Nat) : State :=
  let u := s.issue
  s.onLane l fun th => { th with later := some { i, iss := u.iss, wordAddr := u.wordAddr, nextPc := u.nextPc, runPc := u.runPc, skipPc := u.skipPc, word := u.word } }

/-- The lanes of an EXIT that ends later leave every mask as their chain issues (R176, R192). -/
def State.exitMasks (s : State) (i : Instr) (ls : List Nat) : State :=
  match i with
  | .exit g =>
    let out := ls.filter fun l => s.guardHolds l g && !(s.lt l).wait.undecided
    let del (m : Word) : Word := out.foldl laneDel m
    if out = [] then s else (List.range 12).foldl State.check (s.onIg fun x => { x with m := x.m.map del, a := x.a.map del })
  | _ => s

/-- A chain's word acts for the lanes of the issue; a class E word for those that need not wait first. -/
def State.actWord (s : State) (i : Instr) : State :=
  if i.classE then
    let late := s.issue.lanes.filter fun l => (s.lt l).putsOff i
    let s := (late.foldl (fun s l => s.putLater i l) s).exitMasks i late
    let now := s.issue.lanes.filter fun l => !late.contains l
    if now = [] then s else (s.onIssue fun u => { u with lanes := now }).after i
  else s.after i

/-- The indexes of a chain's words in the order they act. -/
def commitOrder (is : List Instr) : List Nat :=
  (List.range 5).flatMap fun k => (List.range is.length).filter fun j => commitKey (is.getD j default) == k

/-- Word k acts for the lanes that execute the chain, which began in the state `b`; every word of a chain reads the same free values,
maps its operands with the frame the chain began with (R77) and uses the FMODE it began with (R146). -/
def State.commit (r : Ready) (is : List Instr) (b s : State) (k : Nat) : State :=
  match is[k]? with
  | some i =>
    let ls := s.issue.lanes
    let u := ls.foldl (fun u l => u.onLane l (·.withFrame (b.lt l))) (({ s with tick := b.tick }.atWord r is k).withFmode b.ig.fmode)
    let t := u.actWord i
    let t := t.withFmode (changed b.ig.fmode s.ig.fmode t.ig.fmode)
    let t := ls.foldl (fun t l => t.onLane l fun th => Thread.reframe (b.lt l) (s.lt l) th) t
    { t with tick := Nat.max s.tick t.tick }.onIssue fun x => { x with lanes := ls }
  | none => s

/-- A word whose faults depend on which lanes execute it: an entry of a lane that does not is none (R330, R334), and such a lane counts
as none of the executing lanes of a class C write (R114; log entry 13). -/
def countsLanes : Instr → Bool
  | .dqpush .. | .fork .. => true
  | i => i.affWrites != []

/-- The faults and stalls that each word of a chain finds. -/
def State.probes (s : State) (r : Ready) (is : List Instr) (ls : List Nat) : List (List LaneFault × List (Nat × Option Nat)) :=
  let one := (List.range is.length).map (s.probe r is ls)
  (List.range is.length).map fun k =>
    let out := ls.filter fun l => (List.range is.length).any fun j => j != k && (one.getD j ([], [])).1.any fun f => f.lane == l
    let p := one.getD k ([], [])
    if countsLanes (is.getD k default) && out != [] then
      let q := s.probe r is (ls.filter fun l => !out.contains l) k
      ((p.1.filter fun f => out.contains f.lane && f.cause != 0x17) ++ q.1, (p.2.filter fun x => out.contains x.1) ++ q.2)
    else p

/-- A word that does nothing for any lane when one lane's operand faults: ACCWR (R313). -/
def allOrNone : Instr → Bool
  | .accwr .. => true
  | _ => false

/-- Issues a chain whose words decode, for the lanes that no earlier check stopped; the faults already found are in the issue
record. The answer names the lanes that executed and those that did not issue. -/
def State.runChain (s : State) (r : Ready) (is : List Instr) (ls : List Nat) : State × List Nat × List Nat :=
  let s := s.onIssue fun u => { u with lead := r.lanes.head? }
  let found := s.probes r is ls
  let idle (k : Nat) : Bool := allOrNone (is.getD k default) && (found.getD k ([], [])).1 != []
  let fs := found.flatMap (·.1)
  let st := found.flatMap (·.2)
  let stalls (l : Nat) : Bool :=
    st.any (fun x => x.1 == l) && (match firstFault l fs with | some f => decide (6 ≤ f.stage) | none => true)
  let bad := (ls.filter fun l => !stalls l).filterMap fun l => firstFault l fs
  let good := ls.filter fun l => !stalls l && (firstFault l fs).isNone
  let held := ls.filter stalls
  let s1 := s.onIssue fun u => { u with lanes := good, collect := true, sure := true, faults := [], stalls := [] }
  let s2 := if good = [] then s1 else ((commitOrder is).filter (!idle ·)).foldl (State.commit r is s1) s1
  let late := s2.issue.faults ++ bad ++ s.issue.faults
  let s3 := s2.onIssue fun u =>
    { u with lanes := r.lanes, collect := false, sure := false, lead := none, faults := late,
             stalls := u.stalls ++ held.filterMap fun l => (st.find? fun x => x.1 == l) }
  (s3, good.filter fun l => !(s2.issue.faults.any fun f => f.lane == l) && !(s2.issue.stalls.any fun x => x.1 == l),
    held ++ s2.issue.stalls.map (·.1))

/-! ## Runs (R36–R41) -/

/-- The run after a chain: further chains are to come for the lanes that executed it; a last chain is issued again for lanes that
could not yet, and the run ends otherwise. A run that a lane-wise chain began for several groups (R173) goes on for all of them, also
with a chain that is not lane-wise, of which R38 and R173 leave the issue set open: DESIGN CHOICE (log entry 15). -/
def State.nextRun (s : State) (core p : Nat) (r : Ready) (is : List Instr) (reads : List (Nat × List Nat)) (good held : List Nat) :
    State :=
  let s := match r.run with | some u => { s with runs := s.runs.filter (· != u) } | none => s
  if r.chain.last then
    match r.run with
    | some u => if held = [] then s else { s with runs := s.runs ++ [{ u with lanes := held, next := BitVec.ofNat 64 r.chain.pc }] }
    | none => s
  else if good = [] then s
  else
    let wrote := (List.range is.length).filterMap (latchOf r.k is)
    let u : Run := { core, part := p, grp := r.grp, lanes := good, first := r.first, k := r.k + 1,
                     next := BitVec.ofNat 64 r.chain.next, reads := reads.filter fun x => good.contains x.1,
                     latched := r.latched ++ wrote }
    { s with runs := s.runs ++ [u] }

/-- The slices that each lane's chains of the run have read (R37). -/
def State.runReadsAfter (s : State) (r : Ready) (is : List Instr) : List (Nat × List Nat) :=
  r.lanes.map fun l =>
    (l, r.runReads l ++ is.flatMap fun i => ((s.thread ((s.group r.grp).t0 + l)).rw (s.recOf r.grp) i).rs)

/-- Lanes that leave a run before its last chain begin it again (R41). -/
def State.restart (s : State) (r : Ready) (ls : List Nat) : State :=
  if r.chain.last then s
  else ls.foldl (fun s l => s.onThread ((s.group r.grp).t0 + l) fun th =>
    if th.wait = .none then { th with pc := r.first } else th) s

/-! ## The issue -/

/-- When a chain's faults are decided, if not as it issues: the latency of its class D words, while a trap of FMODE is enabled (R442). -/
def State.decideAt (s : State) (r : Ready) (is : List Instr) : Option Nat :=
  let ds := is.filter (·.classD)
  if ds = [] ∨ (s.group r.grp).fmode.extractLsb' 6 5 = 0 then none else some (ds.foldl (fun n i => Nat.max n i.fpLatency) 0)

/-- A chain whose faults have been collected: they are decided now, or when its class D words' results are ready (R442). -/
def State.decided (s : State) (at? : Option Nat) : State :=
  match at? with
  | some n => s.putDecision n
  | none => s.after .trapDecision

/-- Is the chain one word that no earlier chain, clash or check concerns? -/
def State.plain (s : State) (r : Ready) (is : List Instr) : Bool :=
  decide (is.length = 1) && r.run.isNone && r.chain.last && (s.clashes r is).isEmpty

/-- Issues a ready chain for the threads of one group. -/
def State.issueChain (s : State) (core p : Nat) (r : Ready) : State :=
  let b := s.begin r
  let drop (s : State) : State := match r.run with | some u => { s with runs := s.runs.filter (· != u) } | none => s
  if r.chain.words = [] then drop (b.faultAll 1 0x08 (permInfo 5 r.chain.pc)).trapDecide
  else match s.staticFault r with
    | some (2, c, k) => drop (b.faultWord r 2 c k 0).trapDecide
    | some (3, c, k) => drop (b.faultWord r 3 c k 0).trapDecide
    | st =>
      let is := r.chain.words.filterMap decode
      let cl := s.clashes r is
      let b1 := cl.foldl (fun b (l, k) => (b.atWord r is k).faultAt 3 l 0x03 0) b
      let ls := r.lanes.filter fun l => !cl.any fun x => x.1 == l
      match st with
      | some (stage, c, k) =>
        drop ((ls.foldl (fun b l => (b.atWord r is k).faultAt stage l c 0) b1).trapDecide)
      | none =>
        if s.plain r is then
          match s.decideAt r is with
          | none => (b.atWord r is 0).after (is.headD default)
          | some n => (((b.atWord r is 0).onIssue fun u => { u with collect := true }).after (is.headD default)).putDecision n
        else
          let reads := s.runReadsAfter r is
          let (t, good, held) := b1.runChain r is ls
          ((t.decided (s.decideAt r is)).restart r held).nextRun core p r is reads good held

/-- Can a word change a lane's program counter (R90, R91, R184, R463)? -/
def redirects (i : Instr) : Bool :=
  i.classE || match i with
    | .loop .. | .endloop | .endloopBrk .. | .tret .. | .tretSkip .. => true
    | _ => false

/-- The delay that a thread has after an issue (Tables 3.13, 7.3, 18.14; R177, R442): 4 clocks to a handler, 2 after a taken branch, a
return or a release at JWAIT, and none otherwise. `mine` says whether the thread is of the issue and `moves` whether a word of the chain
redirects; `at_` and `next` are the chain's address and the next one's. -/
def delayOf (iss : Nat) (mine moves : Bool) (at_ next : Word) (trapped : Bool) (old new : Thread) : Option (Nat × Nat) :=
  if trapped then some (iss, 4)
  else if mine && new.pc != next && (moves || new.pc != at_) then some (iss, 2)
  else match old.wait, new.wait with
    | .jwait _, .none => some (iss, 2)
    | _, _ => new.delay

/-- Threads have their delays after an event in a state `b`: of an issue, for the lanes of the groups in `rs`, or of a decision. -/
def State.delayed (s b : State) (iss : Nat) (rs : List (Nat × List Nat)) (moves : Bool) (at_ next : Word) : State :=
  { s with threads := s.threads.mapIdx fun t th =>
      let trapped := laneIn (s.group th.grp).tset th.lane && !laneIn (b.group th.grp).tset th.lane
      let mine := rs.any fun r => r.1 == th.grp && r.2.contains th.lane
      { th with delay := delayOf iss mine moves at_ next trapped (b.thread t) th } }

/-- A delay of an issue runs out, for every thread that has it (R169, R177). -/
def State.endDelay (s : State) (d : Nat × Nat) : State :=
  { s with threads := s.threads.map fun th => if th.delay = some d then { th with delay := none } else th }

/-- Issues what a partition has picked, for the threads of each group in turn (R173). -/
def State.issuePicked (s : State) (core p : Nat) (r : Ready) : State :=
  let asid := (s.recOf r.grp).asid.toNat
  let ps := s.parts core p r
  (ps.foldl (fun s r => s.issueChain core p r) ((s.touchLine core asid (r.chain.pc / 128)).age core p r)).delayed s r.iss
    (ps.map fun q => (q.grp, q.lanes)) ((r.chain.words.filterMap decode).any redirects) (BitVec.ofNat 64 r.chain.pc) (BitVec.ofNat 64 r.chain.next)

/-- A decision that was to come is taken (R445). -/
def State.decideDelayed (s : State) (d : Decision) : State := (s.decideLater d).delayed s d.issue.iss [] false 0 0

/-! ## Class E words that waited (R184) -/

/-- May a thread's class E word take effect: its chain's memory word is done? An arrival at a class F word keeps it no longer than it would
in a chain of two words (R198). -/
def Thread.laterDue (th : Thread) : Bool := th.later.isSome && !th.exited && !th.waitsFirst

/-- The class E word of a chain takes effect for the lanes of a group whose other words are done, those of one issue together. -/
def State.runLater (s : State) (grp : Nat) (x : Later) : State :=
  let g := s.group grp
  let ls := (List.range g.w).filter fun l => let th := s.thread (g.t0 + l); th.laterDue && th.later == some x
  let b := ls.foldl (fun s l => s.onThread (g.t0 + l) fun th => { th with later := none }) s
  (({ b with issue := { (default : Issue) with
      iss := x.iss, grp, lanes := ls, pc := x.runPc, wordAddr := x.wordAddr, nextPc := x.nextPc, runPc := x.runPc, skipPc := x.skipPc, word := x.word } }).after x.i).delayed b x.iss [(grp, ls)] true x.runPc x.nextPc

/-- The class E words that may take effect, by group. -/
def State.laters (s : State) : List (Nat × Later) :=
  ((s.threads.filter Thread.laterDue).filterMap fun th => th.later.map fun x => (th.grp, x)).eraseDups

/-- What follows an event (R11, R143, R184): waits end, the class E words that waited for them take effect, and event entries that are
due are written; pages, slots and strike targets that have gone are given up. -/
def State.follow (s : State) : State :=
  let s := s.wake
  let l := s.laters
  (if l = [] then s else (l.foldl (fun s x => s.runLater x.1 x.2) s).wake).flushPoison.kvTidy

end Machine
end Sys2Proof
end

