-- ==== Sys2Proof/Machine/Actions.lean ====
section
/-! DEFINITION. What may happen next: boot, the issue of a chain by a partition, an event of a unit whose condition holds, or the next
input from outside. Which of them happens is open (R11, R13; log entry 1). -/

namespace Sys2Proof
namespace Machine
open Host

/-- One thing that may happen next. -/
inductive Act
  | boot
  | issue (core part : Nat)
  | event (i : Instr)
  /-- a transfer reads its source and sends (R344) -/
  | send (op : Nat)
  /-- a plane copy delivers bytes of its region (R279) -/
  | move (op : Nat)
  /-- firmware answers an HCALL (R465) -/
  | answer (id : Nat)
  /-- an MSI-X vector is delivered, and its pending bit clears (R471) -/
  | deliver (n : Nat)
  /-- the host resizes BAR2 (R470) -/
  | resize (n : Nat)
  /-- another accelerator asks for bytes of a window (R345) -/
  | remoteGet
  /-- the faults of a chain with a class D word are decided (R442) -/
  | decide (d : Decision)
  /-- the delay of a branch, a release or a trap entry runs out (R169, R177, R442) -/
  | ready (d : Nat × Nat)
  /-- the oldest request of a resolved fault-buffer entry replays (R223) -/
  | replay
  /-- the scheduler makes again a counter read that a full fault buffer refused (R222, R422) -/
  | counter (g k : Nat)
  /-- a port sends more of a destination's bytes under a new send epoch (R477) -/
  | sendRest (id : Nat)
  | input (i : Instr)
deriving DecidableEq, Repr, Inhabited

/-- Chains that partitions may issue. -/
def State.issues (s : State) : List Act :=
  s.busyCores.flatMap fun c => ((List.range 4).filter fun p => (s.pick c p).isSome).map fun p => .issue c p

/-- Events of threads: the end of a YIELD delay, arithmetic results, squash events, instruction lines. -/
def State.threadEvents (s : State) : List Instr :=
  (List.range s.threads.length).flatMap fun t =>
    let th := s.thread t
    (match th.wait with | .yield _ => [Instr.yieldDelayEnd t] | _ => []) ++
      ((th.pend.filter (·.known)).map fun w => Instr.sliceWriteComplete t w.id) ++
      (if s.takesEvent t then [Instr.squashEventTaken t] else []) ++
      (if th.exited || th.wait != .none || s.deciding t then [] else
        match s.fetchOf t with
        | .line n =>
          if s.ireqs.any fun r => r.core == s.coreOf t && r.asid == s.asidOf t && r.line == n then []
          else if (s.lineWaiters (s.coreOf t) (s.asidOf t) n).head? = some t then [Instr.icacheFill (s.coreOf t) (s.asidOf t) n]
          else []
        | _ => [])

/-- Cross-lane words whose participants have all arrived. -/
def State.crossEvents (s : State) : List Instr :=
  (List.range s.groups.length).flatMap fun g => (s.crossAddrs g).map fun a => .crossLaneComplete g a

/-- Accesses that may be performed now, re-read or retried. -/
def State.accEvents (s : State) : List Instr :=
  s.accs.flatMap fun a =>
    if a.st = .refused then [Instr.faultBufferRetry a.id]
    else if a.st = .watch then (if !a.parked && s.unwatched a then [Instr.waitvReread a.thread] else [])
    else if s.eligible a then
      [if a.op.isLoad then .loadDataReturn a.id else if a.op.isStore then .storePerformed a.id else .strongAccessPerformed a.id]
    else []

/-- Barriers, team arrivals and boundaries that are complete. -/
def State.orderEvents (s : State) : List Instr :=
  ((List.range s.teams.length).flatMap fun t =>
    (((List.range 16).filter fun n => (s.barReady false t n).isSome).map fun n => Instr.barrierEpisodeComplete false t n) ++
      (if s.teamArrives t then [Instr.teamPhaseArrival t] else [])) ++
  ((List.range s.clusters.length).flatMap fun c =>
    ((List.range 4).filter fun n => (s.barReady true c n).isSome).map fun n => .barrierEpisodeComplete true c n) ++
  ((List.range s.grids.length).filter s.boundaryReady).map .phaseBoundaryComplete

/-- Engine operations that may take a step. -/
def State.engineEvents (s : State) : List Instr :=
  s.ops.flatMap fun o =>
    if o.parked then []
    else match o.st with
      | .refused => [Instr.faultBufferRetry o.id]
      | .run => match o.kind with
        | .copy _ => if o.engine then [.copyRegionComplete o.id, .copyPoisonEnd o.id] else if o.first then [.copyEngineStart o.id] else []
        | .pdrop .. => if o.engine then [.pdropComplete o.id] else if o.first then [.copyEngineStart o.id] else []
        | .wbload _ => [.wbloadComplete o.id]
        | .drain _ => [.drainComplete o.id]
        | .attn a => if a.accepted then [.attnComplete o.id] else []
        | _ => []
      | _ => []

/-- Matrix passes, windows and arrivals. -/
def State.fabricEvents (s : State) : List Instr :=
  (s.mxus.filter fun (_, m) => m.passes != []).map (fun (u, _) => Instr.matrixPass u) ++
    (s.wins.filter fun (i, w) => w.st == .draining && !s.winBusy i).map (fun (i, _) => .windowFree i) ++
    s.arrs.flatMap fun a => match a.st with
      | .sent =>
        if a.acc = s.accid.toNat then [.arrivalAccept a.id]
        else if s.remoteOk a then (if a.more then [] else [.transferComplete a.id]) ++ [.transferRefused a.id] else [.transferRefused a.id]
      | .landing => if a.more then [] else [.arrivalLand a.id]
      | .done => [.transferComplete a.id]
      | .refusal _ => [.transferRefused a.id]
      | .refused => [.faultBufferRetry a.id]
      | _ => []

/-- Events of the strike queue. Firmware that runs confirms each proposal as soon as it appears, in queue order, or vetoes an offload when
every backing slot is in use, those of confirmed offloads among them (R474); without it a proposal's deadline comes (R389). -/
def State.strikeEvents (s : State) : List Instr :=
  let taken := s.kvOff.length + (s.strikes.filter fun e => e.action == 2 && e.st != 1).length
  (match s.strikes.find? fun e => e.st == 1 && !e.due with
    | some e =>
      if s.regs.bootState ≠ 2 then [.strikeDeadline e.entry]
      else if e.action = 2 ∧ s.regs.kvbCnt ≤ taken then [.kvsqcmdVeto (BitVec.ofNat 6 e.entry)]
      else [.kvsqcmdConfirm (BitVec.ofNat 6 e.entry)]
    | none => []) ++
    (if (s.strikes.any fun e => e.st == 3) || s.strikeNext.isSome then [.strikeActionRun] else [])

/-- Requests, strikes and restores (R369, R387, R474). -/
def State.tableEvents (s : State) : List Instr :=
  s.reqs.flatMap (fun r =>
    (if r.refused then [Instr.faultBufferRetry r.id] else []) ++ (if s.reqDue r then [.sequenceRequestComplete r.id] else []) ++
      (if s.queued r then [.walkerRequestStart r.id] else [])) ++
    (if s.strikeWants then [.strikePropose] else []) ++
    s.strikeEvents ++ (if s.kvOff = [] then [] else if 0 < s.kvFree then s.kvOff.map (.kvPageRestore ·.page) else [])

/-- Events of the scheduler for one grid. -/
def State.gridEvents (s : State) (g : Nat) : List Instr :=
  let gr := s.grid g
  (if gr.alive && !gr.held && !gr.ready && gr.deps.all (·.2.2) then [Instr.launchReady g] else []) ++
    (if gr.waiting && gr.resv.isNone && (s.bestRect g).isSome then [.placeageExpiry g] else []) ++
    (if gr.waiting && gr.resv.isSome && !gr.evict then [.placeevictExpiry g] else []) ++
    (if s.completes g then [.launchComplete g] else []) ++
    (if gr.fatal.isSome && !gr.ended && gr.stop.isNone then [.gridFatalTrap g] else [])

/-- Events of the scheduler. -/
def State.schedEvents (s : State) : List Instr :=
  ((s.hqs.filter fun (q, _) => s.hqActs q).map fun (q, _) => Instr.hostQueueConsume (BitVec.ofNat 4 q)) ++
    ((List.range s.grids.length).filter fun g => !(s.grid g).ended).flatMap s.gridEvents ++
    (match s.nextPlaced with
      | some ((_, none), _) => [.teamPlace]
      | some ((_, some c), _) => [.swapIn c]
      | none => []) ++
    (if s.effs = s.grids.map (·.eff) then [] else [.priorityRecompute]) ++
    ((List.range s.teams.length).filter s.swapCause).map .swapDecision ++
    ((List.range s.clusters.length).filter s.swapReady).map .swapOut ++
    ((s.accs.filter fun a => s.swappingTeam (s.teamOf a.thread) && s.accParks a).map fun a => .swapwaitExpiry a.id) ++
    ((s.ops.filter fun o => s.swappingTeam o.team && !o.parked && s.parks o).map fun o => .swapwaitExpiry o.id)

/-- Events of the firmware and the host's commands in progress. -/
def State.firmEvents (s : State) : List Instr :=
  (if s.regs.att.isSome ∧ s.regs.bootState = 2 then [.attestReportDone] else []) ++
    (if s.regs.xlCmd.isSome then [.xlcmdCommandDone] else [])

/-- Every event of the module's own units that may happen now. -/
def State.events (s : State) : List Instr :=
  s.threadEvents ++ s.crossEvents ++ s.accEvents ++ s.orderEvents ++ s.engineEvents ++ s.fabricEvents ++ s.tableEvents ++
    s.schedEvents ++ s.firmEvents

/-- Does an input come from outside the module's own units: the host, the links, the package, an error? -/
def isExternal : Instr → Bool
  | .linkBlockReceive .. | .hqtailWrite .. | .schedcmdAbort .. | .schedcmdSuspend .. | .schedcmdResume .. | .moduleReset
  | .bootstatRetry | .attcmd .. | .xlcmdRoot .. | .xlcmdInval .. | .xlcmdResolve .. | .xlcmdFail .. | .keycmdInstallSend ..
  | .keycmdInstallReceive .. | .keycmdRetire .. | .srdataAccess .. | .ctxfree .. | .registerWrite .. | .bar2Access ..
  | .softError .. | .ualinkPortStateChange .. | .dieThrottle .. | .dieThrottleEnd .. | .thermalShutdown | .clockChange .. => true
  | _ => false

/-- Transfers that have not read their source. -/
def State.sends (s : State) : List Act :=
  (s.ops.filter fun o => !o.parked && o.st == .run && match o.kind with | .xfer x => !x.sent | _ => false).map fun o => .send o.id

/-- Plane copies that deliver. -/
def State.moves (s : State) : List Act :=
  (s.ops.filter fun o => o.engine && o.st == .run && !o.parked && o.kind.copyLeft != []).map fun o => .move o.id

/-- Destinations whose bytes a port may send on, or that none can any more (R358, R477). -/
def State.rests (s : State) : List Act := (s.arrs.filter s.sendsRest).map fun a => .sendRest a.id

/-- Counter reads of launches that a full fault buffer refused. -/
def State.counterReads (s : State) : List Act :=
  (List.range s.grids.length).flatMap fun g => ((s.grid g).depWait.filter fun x => x.2 == none).map fun x => .counter g x.1

/-- Everything that may happen next. -/
def State.acts (s : State) : List Act :=
  (if s.regs.bootState < 2 then [.boot] else []) ++ s.issues ++ s.events.map .event ++ s.sends ++ s.moves ++ (s.hcalls.map fun h => .answer h.id) ++
    (if s.vectors = 0 then [] else ((List.range 64).filter s.vectors.getLsbD).map .deliver) ++ (s.resizes.take 1).map .resize ++
    (if s.ports.any fun q => q.2.trained then [.remoteGet] else []) ++ (s.decs.filter s.decidable).map .decide ++
    ((s.threads.filterMap (·.delay)).eraseDups).map .ready ++ (if s.replays = [] then [] else [.replay]) ++ s.counterReads ++ s.rests ++ (s.inputs.take 1).map .input

/-- A transfer that has not read its source is sent (R344). -/
def State.sendOp (s : State) (id : Nat) : State :=
  match s.opOf id with
  | some o => match o.kind with
    | .xfer x => if !x.sent && o.st == .run && !o.parked then s.xferSend o x else s
    | _ => s
  | none => s

/-- The input's place in the list is taken; an input that is not an event from outside has no effect. -/
def State.input (s : State) (i : Instr) : Outcome State Fault Refusal :=
  let s := { s with inputs := s.inputs.drop 1 }
  if isExternal i then exec i s else .next s

/-- Does one thing. -/
def State.act (s : State) (a : Act) : Outcome State Fault Refusal :=
  match a with
  | .boot => .next s.bootStep
  | .issue c p => .next (match s.pick c p with | some r => s.issuePicked c p r | none => s)
  | .event i => exec i s
  | .send id => .next (s.sendOp id)
  | .move id => .next (s.copyMove id)
  | .answer id => execHcallAnswer id s
  | .deliver n => .next { s with vectors := s.vectors &&& ~~~(1#64 <<< n) }
  | .resize n => .next { s.resizeBar2 n with resizes := s.resizes.drop 1 }
  | .remoteGet => .next s.remoteGet
  | .decide d => .next (s.decideDelayed d)
  | .ready d => .next (s.endDelay d)
  | .replay => .next s.replayNext
  | .counter g k => .next (s.depAgain g k none)
  | .sendRest id => .next ({ s with wire := [] }.sendRest id)
  | .input i => s.input i

/-- What happens next: a free choice among what may; with one thing to do there is no choice. -/
def State.chosen (s : State) : Option Act :=
  match s.acts with
  | [] => none
  | l => l[s.choose l.length]?

/-- The counter of the free values moves past a choice. -/
def State.chose (s : State) : State := if s.acts.length ≤ 1 then s else s.next

/-- The outcome of an execution with what follows from it. -/
def wakeOutcome (o : Outcome State Fault Refusal) : Outcome State Fault Refusal :=
  match o with
  | .next s => .next s.follow
  | o => o

/-- One step of a module whose clocks run. -/
def State.stepRunning (s : State) : Outcome State Fault Refusal :=
  match s.chosen with
  | some a => wakeOutcome (s.chose.act a)
  | none => .next s.follow

/-- One step of a module whose clocks have stopped: its link is down, so an input is lost, and only a module reset acts (R478). -/
def State.stepStopped (s : State) : Outcome State Fault Refusal :=
  match s.inputs with
  | .moduleReset :: _ => s.input .moduleReset
  | _ :: rest => .next { s with inputs := rest }
  | [] => .fault .stopped

end Machine
end Sys2Proof
end

