-- ==== Sys2Proof/Machine/Step.lean ====
section
/-! DEFINITION. One step of the module, and the placing of one instruction for the host's query. -/

namespace Sys2Proof
namespace Machine
open Host

/-- One step: one of the things that may happen next, and what follows from it; a module whose clocks have stopped only resets. -/
def step (s : State) : Host.Outcome State Fault Refusal := if s.regs.stopped then s.stepStopped else s.stepRunning

/-- A launch of one 8-lane group of full allocation, as the query's program runs in. -/
def queryLaunch : LaunchRec := { (default : LaunchRec) with entry := 0x1000, trapv := 0x2000, ncl := 1, tpc := 1, w := 1, h := 1, ngrp := 1, l := 960, g := 64, scr := 8, nbar := 1 }

/-- The state with one launch running whose only group is about to fetch the word: a program reaches the module from the host, as a
launch of words in HBM4, and its first fetch fills the instruction line that stands here. -/
def State.withFetchWord (s : State) (_nbits w : Nat) : State :=
  let r := s.regs
  { s with
    grids := [{ newGrid queryLaunch 1024 0 0 0 [] with ready := true, nextCl := 1 }]
    clusters := [{ grid := 0, ci := 0, t0 := 0, nt := 1, swapping := false, out := false, cmem := default, bars := List.replicate 4 default }]
    teams := [{ cluster := 0, ti := 0, core := 0, g0 := 0, ng := 1, scratch := default, tags := [], bars := List.replicate 16 default,
                sndc := List.replicate 16 0, arrived := 0, ended := false, saved := [] }]
    groups := [newGroup queryLaunch 0 0 0 0]
    threads := (List.range 8).map fun l => newThread queryLaunch 0 l l
    icache := [{ core := 0, asid := 0, line := 32, x := true, bytes := natLe 8 (w % 2 ^ 64) ++ List.replicate 120 0 }]
    accs := [], locks := [], recs := [], ops := [], mxus := [], ireqs := [], replays := [], deques := [], wins := [], arrs := [], reqs := [],
    strikes := [], hqs := [], hcalls := [], runs := [], slotLast := [], kvOff := [], inputs := []
    resizes := [], decs := [], ports := [], vectors := 0
    regs := { r with bootState := 2, stopped := false, xlCmd := none, att := none } }

end Machine
end Sys2Proof
end

