-- ==== Sys2Proof/WellFormed.lean ====
section
/-! DEFINITION. Which instructions are well formed: words whose fields have a legal value (Table 2.2 step 2) and whose operands their
instruction allows (Table 2.2 step 4). An event has no word; it is well formed as it stands. -/

namespace Sys2Proof

/-- Is the instruction one that a word encodes? An event is not. -/
def Instr.isWord (i : Instr) : Bool := (encodeFields i).isSome

/-- The operand's selector and X bit suit its position (R45 and the class tables). -/
def Use.selOk (u : Use) : Bool := u.rule.allows u.o

/-- The operand has a width its position allows. -/
def Use.widthOk (u : Use) : Bool := u.ws.contains u.o.w

/-- The slices of an unindexed operand are slices that some lane may own: a view slice maps to its own number or above (R65), and a
lane owns at most 960 (R64). -/
def Use.rangeOk (u : Use) : Bool :=
  match u.o.sel with
  | .slice n => decide (n.val + u.count ≤ 960)
  | _ => true

/-- The operand is legal in some lane. -/
def Use.ok (u : Use) : Bool := u.selOk && u.widthOk && u.rangeOk

/-- A well-formed instruction: its fields have legal values and its operands are legal in some lane. -/
def Instr.wf (i : Instr) : Bool := i.fieldsOk && i.uses.all Use.ok

end Sys2Proof
end

