-- ==== Sys2Proof/Safety.lean ====
section
/-! DEFINITION. What a claim about runs is stated in: which states one step leads to, when a run goes on, the canonical form of
every memory of a state, and the form of its groups' masks. -/

namespace Sys2Proof
namespace Machine
open Host

/-- One step leads from s to t. -/
def StepsTo (s t : State) : Prop := step s = .next t

/-- Some number of steps leads from s to t. -/
inductive Reaches : State → State → Prop
  | refl (s : State) : Reaches s s
  | tail {s t u : State} : Reaches s t → StepsTo t u → Reaches s u

/-- The module goes on from a state: a step answers a next state. -/
def State.goesOn (s : State) : Prop := ∃ t, StepsTo s t

/-- A run from a state is safe: from every state it reaches, the module goes on. -/
def State.runSafe (s : State) : Prop := ∀ t, Reaches s t → t.goesOn

/-- Every memory of the state is in its canonical form: HBM4, the chip scratchpad, the host's backing area, each team's scratchpad
and each cluster's cluster memory; and so are the line tags and the tables of matrix units, windows and
sequence contexts. -/
def State.memsWf (s : State) : Bool :=
  s.hbm.wf && s.chip.wf && s.host.wf && s.teams.all (fun t => t.scratch.wf && assocWf 0 none t.tags) && s.clusters.all (fun c => c.cmem.wf) &&
    assocWf 0 none s.chipTags && assocWf default none s.mxus && assocWf default none s.wins &&
    assocWf none none s.seqs

/-- A group has a member set and an arrival set for each of its 12 mask indices (R175). -/
def Group.masksWf (g : Group) : Bool := decide (g.m.length = 12) && decide (g.a.length = 12)

/-- Every group of the state does. -/
def State.masksWf (s : State) : Bool := s.groups.all Group.masksWf

end Machine
end Sys2Proof
end

