-- ==== Sys2Proof/Effects.lean ====
section
/-! DEFINITION. What claims about single instructions are stated in: the state a meaning begins in, lanes that execute, and what a
word leaves changed and unchanged in the threads of its issue set. -/

namespace Sys2Proof
namespace Machine
open Host

/-! ## The state a meaning begins in -/

/-- The issue record stands as the issue of a chain leaves it for a meaning (R34): no fault and no stall is recorded, the lanes
are distinct lanes of a group that exists, of at most 64 lanes, with a mask of each of its kinds for each of its 12
indices (R175), and their threads exist. -/
def State.begun (s : State) : Bool :=
  s.issue.faults.isEmpty && s.issue.stalls.isEmpty && s.issue.lead.isNone && decide s.issue.lanes.Nodup && decide (s.issue.grp < s.groups.length) &&
    decide (s.ig.w ≤ 64) && s.ig.masksWf && s.issue.lanes.all fun l => decide (l < s.ig.w) && decide (s.ig.t0 + l < s.threads.length)

/-- No lane of the issue set faults on its guard or its operands (R72, R80). -/
def State.clear (s : State) (i : Instr) : Bool :=
  s.issue.lanes.all fun l =>
    (s.lowestMark l i.markedGuard).isNone && (!s.guardHolds l i.guard || (s.operandFault l i i.uses).isNone)

/-- A well-formed word stands at the beginning of its meaning and no lane faults on its guard or operands. -/
def State.canRun (s : State) (i : Instr) : Bool := i.wf && s.begun && s.clear i

/-- The word whose bits below w are those of f, its others 0. -/
def wordBits (w : Nat) (f : Nat → Bool) : Word := laneSet ((List.range w).filter f)

/-! ## Words in which each lane acts for itself -/

/-- t is s but for threads of the issue set, each of which `P` relates to what it was, and the model's own counters. -/
structure LanesDo (s t : State) (P : Nat → Thread → Thread → Prop) : Prop where
  rest : t = { s with threads := t.threads, nextId := t.nextId, tick := t.tick }
  others : ∀ n, (∀ l ∈ s.issue.lanes, n ≠ s.ig.t0 + l) → t.thread n = s.thread n
  lanes : ∀ l ∈ s.issue.lanes, P l (s.lt l) (t.lt l)

/-- A thread whose latch of the word being executed holds a value and its width (R39). -/
def Thread.latched (th : Thread) (k : Option Nat) (v : Word) (w : Width) : Thread :=
  match k with
  | some k => { th with latches := th.latches.set k (v, w) }
  | none => th

/-- b is a but for what a destination's slices hold, in program order, from now on: the values given; and for the latches of c. -/
structure Thread.Wrote (a b c : Thread) (ps : List Nat) (vs : List Slice) : Prop where
  values : ps.map b.slice = vs
  others : ∀ p, p ∉ ps → b.slice p = a.slice p
  rest : b = { c with pend := b.pend }

/-- A lane of a word of the arithmetic pipes that writes the value v to D: a lane whose guard is false writes nothing; a set
no-write-back bit keeps D as it is; the latch gets the value at D's width (R39, R42, R44, R67, R72). -/
def arithLane (s : State) (i : Instr) (d : Operand) (v : Nat → Word) (l : Nat) (a b : Thread) : Prop :=
  if s.guardHolds l i.guard then
    let c := a.latched s.issue.latch (truncW d.w.bits (v l)) d.w
    if d.x then b = c
    else a.Wrote b c (a.locate s.gs d d.w.slices) (sliceVals d.w.slices (v l))
  else b = a.latched s.issue.latch (if d.x then 0 else s.dstVal l d) d.w

/-- The instruction's execution answers a next state of which Q holds. -/
def runsTo (i : Instr) (s : State) (Q : State → Prop) : Prop := ∃ t, exec i s = .next t ∧ Q t

/-- A word that runs in every state in which no lane faults on its operands, and writes v to D in each lane. -/
def writesD (i : Instr) (d : Operand) (v : State → Nat → Word) : Prop :=
  ∀ s : State, s.canRun i = true → runsTo i s fun t => LanesDo s t (arithLane s i d (v s))

/-- A lane of a compare: the bit named of the predicate slice is set, ANDed or ORed with the result, the slice's other bits stay,
and the latch gets the slice at width 4 (R110). -/
def predLane (s : State) (i : Instr) (m : PMode) (p : PredBit) (c : Nat → Bool) (l : Nat) (a b : Thread) : Prop :=
  let q := p.slice.toNat
  if s.guardHolds l i.guard then
    a.Wrote b (a.latched s.issue.latch ((b.slice q).v.setWidth 64) .w4) [q] [b.slice q] ∧ (b.slice q).poison = false ∧
      ∀ k < 4, (b.slice q).v.getLsbD k =
        if k = p.bit.toNat then
          (match m with | .set => c l | .and => (a.slice q).v.getLsbD k && c l | .or => (a.slice q).v.getLsbD k || c l)
        else (a.slice q).v.getLsbD k
  else b = a.latched s.issue.latch ((a.slice q).v.setWidth 64) .w4

/-- A class D lane that delivers a value and flags to D: the flags are ORed into FFLAGS (R147). -/
def fpLane (s : State) (i : Instr) (d : Operand) (r : Nat → Word × FFlags) (l : Nat) (a b : Thread) : Prop :=
  if s.guardHolds l i.guard then
    let c := ({ a with fflags := a.fflags ||| (r l).2 }).latched s.issue.latch (truncW d.w.bits (r l).1) d.w
    if d.x then b = c
    else a.Wrote b c (a.locate s.gs d d.w.slices) (sliceVals d.w.slices (r l).1)
  else b = a.latched s.issue.latch (if d.x then 0 else s.dstVal l d) d.w

/-- A class D word that runs in every state in which no lane faults on its operands and no exception raised is enabled (R150). -/
def deliversD (i : Instr) (d : Operand) (r : State → Nat → Word × FFlags) : Prop :=
  ∀ s : State, s.canRun i = true → (∀ l ∈ s.issue.lanes, s.guardHolds l i.guard = true → (r s l).2 &&& s.fpEnables = 0) →
    runsTo i s fun t => LanesDo s t (fpLane s i d (r s))

/-- A lane that changes as `f` says where its guard holds, and not at all where it does not; a word of the arithmetic pipes
without a result leaves zero at width 4 in its latch (R39). -/
def moveLane (s : State) (i : Instr) (latch : Bool) (f : Nat → Thread → Thread) (l : Nat) (a b : Thread) : Prop :=
  let c := if s.guardHolds l i.guard then f l a else a
  b = if latch then c.latched s.issue.latch 0 .w4 else c

/-- A word in which each lane's thread changes as `f` says, in every state in which no lane faults on its operands and no lane
meets `bad`. -/
def movesLanes (i : Instr) (latch : Bool) (ok : State → Nat → Bool) (f : State → Nat → Thread → Thread) : Prop :=
  ∀ s : State, s.canRun i = true → (∀ l ∈ s.issue.lanes, s.guardHolds l i.guard = true → ok s l = true) →
    runsTo i s fun t => LanesDo s t (moveLane s i latch (f s))

/-- The lanes of the issue set whose guard holds, as a set. -/
def State.actors (s : State) (i : Instr) : Word := laneSet (s.issue.lanes.filter fun l => s.guardHolds l i.guard)

/-- Faults recorded for lanes, in order. -/
def State.faultLanes (s : State) (ls : List Nat) (c : Nat → Nat × Word) : State :=
  ls.foldl (fun s l => s.fault l (c l).1 (c l).2) s

/-- A thread that waits from now on at the word being executed (Table 18.9). -/
def State.waiting (s : State) (th : Thread) (w : Wait) : Thread :=
  { th with wait := w, waitAt := s.issue.wordAddr, waitNext := s.issue.skipPc, waitWord := s.issue.word, waitIss := s.issue.iss, waitRun := s.issue.runPc, held := th.arrival }

/-! ## Join masks (R175, R177) -/

/-- t is s after a word that leaves join mask n with members M and arrivals A, its lanes' threads changed to u, and the release
check done: where every member has arrived, the arrival set empties and each arrived thread that waits at the mask goes on. -/
structure MaskDo (s t : State) (n : Nat) (M A : Word) (u : Nat → Thread) : Prop where
  rest : t = { s with threads := t.threads, groups := t.groups }
  groups : ∀ g, g ≠ s.issue.grp → t.group g = s.group g
  mask : t.ig = { s.ig with m := s.ig.m.set n M, a := s.ig.a.set n (if A ≠ 0 ∧ A = M then 0 else A) }
  others : ∀ k, (∀ l < s.ig.w, k ≠ s.ig.t0 + l) → t.thread k = s.thread k
  lanes : ∀ l < s.ig.w, t.lt l =
    if A ≠ 0 ∧ A = M ∧ laneIn A l = true ∧ (u l).wait = .jwait n then { u l with wait := .none, age := 0 } else u l

/-! ## Affine registers (R112–R114) -/

/-- A class C word that writes register d, in a group of a width that groups have (R174), all of whose issuing lanes lie in one
domain and whose register file is whole: the pair, if its result is one, and the value of each lane, from the lowest executing lane.
The write is full when every non-exited lane of the domain executes. -/
structure AffineWrite (s : State) (i : Instr) (d : Operand) (l0 : Nat) (ex : List Nat) : Prop where
  run : s.canRun i = true
  width : s.ig.w ∈ [8, 16, 32, 64]
  file : (s.ig.aff.getD (affDomain s.ig.w l0) []).length = 16
  executing : (s.issue.lanes.filter fun l => s.guardHolds l i.guard) = l0 :: ex
  domain : ∀ l ∈ s.issue.lanes, affDomain s.ig.w l = affDomain s.ig.w l0

/-- Does every non-exited lane of a lane's domain execute (R114)? -/
def State.fullWrite (s : State) (l0 : Nat) (ex : List Nat) : Bool := (s.domainLive l0).all fun k => (l0 :: ex).contains k

/-- The base that a demoting write leaves (R114). -/
def State.newBase (s : State) (d : Operand) (l0 : Nat) (ex : List Nat) (v : Nat → Word) : Word :=
  if s.fullWrite l0 ex then v l0 else (s.ig.affReg l0 (affNum d)).base

/-- Does every offset that a demoting write needs fit 32 signed bits (R114)? -/
def State.offsetsFit (s : State) (d : Operand) (l0 : Nat) (ex : List Nat) (v : Nat → Word) : Prop :=
  (∀ l ∈ l0 :: ex, fits32 (v l - s.newBase d l0 ex v).toInt = true) ∧
    (s.fullWrite l0 ex = false → ∀ j < min s.ig.w 32, l0 / 32 * 32 + j ∉ l0 :: ex →
      fits32 ((s.ig.affReg l0 (affNum d)).offset (l0 / 32 * 32 + j)) = true)

/-- A class C word sets v(l) of its register for the lanes that execute, keeps it for the domain's others, keeps every other register
and the other domain, leaves a full write of a pair promoted, and records v(l) in the latch (R113, R114, R116). -/
def writesAffine (i : Instr) (d : Operand) (pair : State → Nat → Option (Word × BitVec 32)) (v : State → Nat → Nat → Word) : Prop :=
  ∀ (s : State) (l0 : Nat) (ex : List Nat), AffineWrite s i d l0 ex →
    (s.fullWrite l0 ex = true ∧ (pair s l0).isSome = true ∨ affNum d < s.ir.aback.toNat ∧ s.offsetsFit d l0 ex (v s l0)) →
    runsTo i s fun t =>
      t = { s with threads := t.threads, groups := t.groups } ∧ (∀ g, g ≠ s.issue.grp → t.group g = s.group g) ∧
      t.ig = { s.ig with aff := t.ig.aff } ∧
      (∀ l m, m ≠ affNum d ∨ affDomain s.ig.w l ≠ affDomain s.ig.w l0 → t.ig.affReg l m = s.ig.affReg l m) ∧
      (s.fullWrite l0 ex = true → ∀ p, pair s l0 = some p → t.ig.affReg l0 (affNum d) = .promoted p.1 p.2) ∧
      (∀ l ∈ l0 :: ex, t.affVal l (affNum d) = v s l0 l) ∧
      (s.fullWrite l0 ex = false → ∀ l < s.ig.w, affDomain s.ig.w l = affDomain s.ig.w l0 → l ∉ l0 :: ex →
        t.affVal l (affNum d) = s.affVal l (affNum d)) ∧
      (∀ n, (∀ l ∈ s.issue.lanes, n ≠ s.ig.t0 + l) → t.thread n = s.thread n) ∧
      ∀ l ∈ s.issue.lanes, t.lt l = (s.lt l).latched s.issue.latch (t.affVal l (affNum d)) .w64

/-- A class C word whose write would leave its register demoted without backing raises affine divergence for every executing lane,
with the register's number in TINFO; with backing but an offset out of range, the same with bit 4 set (R114). -/
def divergesAffine (i : Instr) (d : Operand) (pair : State → Nat → Option (Word × BitVec 32)) (v : State → Nat → Nat → Word) : Prop :=
  ∀ (s : State) (l0 : Nat) (ex : List Nat), AffineWrite s i d l0 ex → (s.fullWrite l0 ex = false ∨ pair s l0 = none) →
    (s.ir.aback.toNat ≤ affNum d → runsTo i s fun t =>
      t = (s.faultLanes (l0 :: ex) fun _ => (0x17, BitVec.ofNat 64 (affNum d))).finish) ∧
    (affNum d < s.ir.aback.toNat → ¬ s.offsetsFit d l0 ex (v s l0) → runsTo i s fun t =>
      t = (s.faultLanes (l0 :: ex) fun _ => (0x17, BitVec.ofNat 64 (16 + affNum d))).finish)

/-! ## Words that add to a queue of the machine -/

/-- What an access accesses, and the write of its thread that it serves. -/
def Acc.what (a : Acc) : Space × Nat × Nat × Nat × AccOp × Option Nat × Nat × Nat :=
  (a.space, a.owner, a.addr, a.len, a.op, a.pend, a.pos, a.total)

/-- A queue grows by what threads of the issue set add to it, each as `P` says; and those threads change, each as `P` says. -/
structure QueueDo {α : Type} (s t : State) (q : State → List α) (owner : α → Nat)
    (P : Nat → Thread → Thread → List α → Prop) : Prop where
  others : ∀ n, (∀ l ∈ s.issue.lanes, n ≠ s.ig.t0 + l) → t.thread n = s.thread n
  grows : ∃ new, q t = q s ++ new ∧ (∀ x ∈ new, ∃ l ∈ s.issue.lanes, owner x = s.ig.t0 + l) ∧
    ∀ l ∈ s.issue.lanes, P l (s.lt l) (t.lt l) (new.filter fun x => owner x == s.ig.t0 + l)

/-- An access just issued by a thread of the issue: it waits, and belongs to the thread's phase, or to the next one if it is a store
to global memory in a gap (R212, R246). -/
def Acc.issued (s : State) (a : Acc) : Prop :=
  let th := s.thread a.thread
  a.iss = s.issue.iss ∧ a.st = .ready ∧ a.parked = false ∧
    a.phase = th.passed + (if th.passed < th.arrived ∧ a.space = .glob ∧ a.op.isStrong = false ∧ a.pend = none then 1 else 0)

/-- A word by which each lane issues accesses as `P` says, and nothing else of the machine changes. -/
structure IssuesDo (s t : State) (P : Nat → Thread → Thread → List Acc → Prop) : Prop where
  rest : t = { s with threads := t.threads, accs := t.accs, nextId := t.nextId }
  queue : QueueDo s t State.accs Acc.thread P
  fresh : ∀ a ∈ t.accs, a ∈ s.accs ∨ a.issued s

/-- A word that issues accesses in every state in which no lane faults on its operands and every lane that executes meets `ok`. -/
def issuesAccesses (i : Instr) (ok : State → Nat → Prop) (P : State → Nat → Thread → Thread → List Acc → Prop) : Prop :=
  ∀ s : State, s.canRun i = true → (∀ l ∈ s.issue.lanes, s.guardHolds l i.guard = true → ok s l) →
    runsTo i s fun t => IssuesDo s t (P s)

/-- A lane of a load: D's slices wait for the bytes of the parts (address, length, position) of a value of D's width (R69, R216). -/
def loadLane (i : Instr) (d : Operand) (sp : Space) (parts : State → Nat → List (Nat × Nat × Nat)) (s : State) (l : Nat)
    (a b : Thread) (as : List Acc) : Prop :=
  if s.guardHolds l i.guard then
    ∃ p, b = a.addPend { id := p, slices := a.locate s.gs d d.w.slices, vals := [], known := false } ∧
      as.map Acc.what = (parts s l).map fun (c, k, q) => (sp, s.spaceOwner sp, c, k, AccOp.load, some p, q, d.w.bits / 8)
  else b = a ∧ as = []

/-- A lane of a store of the source's low bytes, in parts (address, length, position) (R3, R216). -/
def storeLane (i : Instr) (d : Operand) (sp : Space) (parts : State → Nat → List (Nat × Nat × Nat)) (s : State) (l : Nat)
    (a b : Thread) (as : List Acc) : Prop :=
  b = a ∧ as.map Acc.what = if s.guardHolds l i.guard then
    (parts s l).map fun (c, k, q) =>
      (sp, s.spaceOwner sp, c, k, .store (((natLe (d.w.bits / 8) (s.src l d d.w.bits).toNat).drop q).take k) false, none, 0, 0)
    else []

/-- The address that a word of format M names in its space, in units of its operand's width (R50). -/
def memEa (d a : Operand) (off : BitVec 12) (s : State) (l : Nat) : Nat := s.ea l a off.toInt (d.w.bits / 8)

/-- No line that an access of the issuing core at an address may hit is known to forbid it (R214, R225). -/
def State.hitOpen (s : State) (store : Bool) (a : Nat) : Bool :=
  (s.hitLine s.icore s.iasid a).all fun (r, w) => if store then w else r

/-- The parts in which an access to global memory is made: as they are, relocated, or byte by byte of a transposed view, within its
extent (R216, R227, R228). -/
def State.globParts (s : State) (a n : Nat) : List (Nat × Nat × Nat) :=
  (splitAt128 a n).flatMap fun (c, k, q) =>
    match s.window s.iasid c with
    | none => [(c, k, q)]
    | some w =>
      if w.xf = 0 then (splitAt128 (w.src + (c - w.wbase)) k).map fun (x, m, j) => (x, m, q + j)
      else (xposeBytes w (c - w.wbase) k).map fun (j, x) => (x, 1, q + j)

/-- Do a global access's parts lie where its form reaches them at once: through no view, and in no line known to forbid it? -/
def State.globOpen (s : State) (a n : Nat) (store : Bool) : Prop :=
  (∀ x ∈ splitAt128 a n, (s.window s.iasid x.1).all (fun w => decide (w.xf < 2)) = true) ∧ ∀ y ∈ s.globParts a n, s.hitOpen store y.1 = true

/-- A strong access passes its checks (R319), and hits no line known to forbid what it needs (R214). -/
def State.strongOpen (s : State) (sp : Space) (a n : Nat) (op : AccOp) : Prop :=
  s.strongCheck sp a n = none ∧
    (sp = .glob → (op.needs.1 = true → s.hitOpen false a = true) ∧ (op.needs.2 = true → s.hitOpen true a = true))

/-! ## Performing accesses -/

/-- The access with an identifier may be performed now (R212, R222, R246). -/
def State.isDue (s : State) (id : Nat) (a : Acc) : Prop :=
  a ∈ s.accs ∧ a.id = id ∧ (∀ x ∈ s.accs, x.id = id → x = a) ∧ s.eligible a = true ∧ a.thread < s.threads.length

/-- It is the only access that serves the write p of its thread, and so brings the whole value, to slices of which the record w tells. -/
def State.brings (s : State) (a : Acc) (p : Nat) (w : Pend) : Prop :=
  a.pend = some p ∧ a.pos = 0 ∧ a.total = a.len ∧
    (∀ x ∈ s.accs, x.thread = a.thread → x.pend = some p → x = a) ∧
    (s.thread a.thread).pend.find? (fun x => x.id == p) = some w

/-- The thread of a state after a write's bytes have landed, marked or not (R70, R145). -/
def State.landed (s : State) (a : Acc) (p : Nat) (w : Pend) (pz : Bool) (bs : List Byte) : Thread :=
  (s.thread a.thread).land p ((nibbles pz bs).take w.slices.length)

/-- An access to global memory lies at pa, with the permissions that its translation gives, in a line that is mapped writable under no
second tag (R215), and no recorded access of the open phases touches a byte of it. -/
def State.quiet (s : State) (a : Acc) (pa : Nat) (r w : Bool) : Prop :=
  a.space = .glob ∧ (∃ x, (s.xlate a.owner a.addr).1 = .ok pa r w x) ∧ (s.xlate a.owner a.addr).2.aliased pa = false ∧
    ∀ c ∈ s.recs, overlap c.pa c.len pa a.len = false

/-- t is s but for threads, accesses and memory, what the memory system records of the access (cached translations, LLC and L1 lines,
the records of the open phases, and ORDDBG.LOST), and a FORK's entries that are now pushed. -/
structure Performed (s t : State) (a : Acc) : Prop where
  rest : t = { s with threads := t.threads, accs := t.accs, hbm := t.hbm, chip := t.chip, teams := t.teams, clusters := t.clusters, lines := t.lines, l1 := t.l1, ptes := t.ptes, maps := t.maps, recs := t.recs, deques := t.deques, aregs := t.aregs, tick := t.tick }
  teams : ∀ n, t.team n = { s.team n with scratch := (t.team n).scratch }
  clusters : ∀ n, t.cluster n = { s.cluster n with cmem := (t.cluster n).cmem }
  others : ∀ n, n ≠ a.thread → t.thread n = s.thread n

/-- No memory changes. -/
def sameMemories (s t : State) : Prop := t.hbm = s.hbm ∧ t.chip = s.chip ∧ t.teams = s.teams ∧ t.clusters = s.clusters

/-- Is it that memory: the space, and the owner where the space has several? -/
abbrev sameSpace (sp sp' : Space) (o o' : Nat) : Prop := sp = sp' ∧ (sp = .glob ∨ sp = .chip ∨ o = o')

/-- Bytes are stored at an address of one memory; every other byte of every memory reads as before, and the stored units' poison bits
are those of R143, all others as before. -/
def storesBytes (s t : State) (sp : Space) (o pa : Nat) (bs : List Byte) (bad : Bool) : Prop :=
  (∀ sp' o' x, memGet (t.mem sp' o').bytes x =
    if sameSpace sp sp' o o' ∧ pa ≤ x ∧ x < pa + bs.length then bs.getD (x - pa) 0 else memGet (s.mem sp' o').bytes x) ∧
  ∀ sp' o' u, (t.mem sp' o').unitPz u =
    if sameSpace sp sp' o o' ∧ u ∈ unitsOf pa bs.length then
      pzAfter ((s.mem sp' o').unitPz u) bad pa bs.length u
    else (s.mem sp' o').unitPz u

/-- Is it a byte of the contents of a ring whose header lies at an offset: its TAIL or a slot? -/
def Ring.holds (r : Ring) (off x : Nat) : Prop := (off + 4 ≤ x ∧ x < off + 8) ∨ (r.base ≤ x ∧ x < r.base + 8 * 2 ^ r.sz * 2 ^ r.logn)

/-- The owner of a space exists. -/
def State.owns (s : State) (sp : Space) (o : Nat) : Prop :=
  match sp with
  | .core => o < s.teams.length
  | .cluster => o < s.clusters.length
  | _ => True

/-- A thread whose wait has ended (R170, R175): ready with age 0, unless a join mask still holds it. -/
def State.released (s : State) (th : Thread) : Thread :=
  th.resume ((s.group th.grp).arrivedAt th.lane)

/-- A strong access lies at pa, in units that are not poisoned, and meets no recorded access but strong ones of its own size (R214,
R252, R259, R320, R321). -/
def State.strongQuiet (s : State) (a : Acc) (pa : Nat) : Prop :=
  (a.space = .glob ∨ a.space = .chip) ∧ (s.strongPlace a).1 = .at pa ∧ (s.mem a.space a.owner).pzIn pa a.len = false ∧
    (a.space = .glob → (s.strongPlace a).2.aliased pa = false) ∧
    ∀ c ∈ s.recs, overlap c.pa c.len (recKey a.space a.owner pa) a.len = false ∨ (c.strong = true ∧ c.len = a.len)

/-- What a strong access at pa does: it writes its function of the value found, if it writes; a WAITV that its value does not satisfy
is watched; otherwise the value found goes to its thread's slices, and a thread that waits for it goes on (R320, R324–R327). -/
structure StrongDo (s t : State) (a : Acc) (pa : Nat) : Prop where
  performed : Performed s t a
  memory : ∀ v, a.op.newVal (8 * a.len) (leNat ((s.mem a.space a.owner).read pa a.len)) = some v →
    storesBytes s t a.space a.owner pa (natLe a.len v) false
  reads : a.op.newVal (8 * a.len) (leNat ((s.mem a.space a.owner).read pa a.len)) = none → sameMemories s t
  watched : a.op.satisfied (8 * a.len) (leNat ((s.mem a.space a.owner).read pa a.len)) = false →
    t.threads = s.threads ∧ t.accs = s.accs.map fun x => if x.id = a.id then { x with st := .watch } else x
  ends : a.op.satisfied (8 * a.len) (leNat ((s.mem a.space a.owner).read pa a.len)) = true →
    (∀ p w, s.brings a p w →
      let th := s.landed a p w false (natLe a.len (leNat ((s.mem a.space a.owner).read pa a.len)))
      t.accs = (s.accs.filter fun x => !(x.thread == a.thread && x.pend == some p)) ∧
        t.thread a.thread = if th.wait = .strong a.id then s.released th else { th with age := (t.thread a.thread).age }) ∧
    (a.pend = none → t.accs = (s.accs.filter fun x => x.id != a.id) ∧
      t.thread a.thread = if (s.thread a.thread).wait = .strong a.id then s.released (s.thread a.thread) else s.thread a.thread)

/-! ## Group-level words (R268, R298) -/

/-- A well-formed word without a guard begins for the whole group or half, and its lowest lane's operands do not fault. -/
def State.groupRuns (s : State) (i : Instr) : Prop :=
  i.wf = true ∧ s.begun = true ∧ s.whole = true ∧ s.issue.lanes ≠ [] ∧ s.operandFault s.low i i.uses = none

/-- What a lane's thread is after a word that writes v to D without a latch. -/
def Thread.WroteD (a b : Thread) (s : State) (d : Operand) (v : Word) : Prop :=
  if d.x then b = a else a.Wrote b a (a.locate s.gs d d.w.slices) (sliceVals d.w.slices v)

/-- t is s but for what reads of global memory at issue leave behind: cached translations and lines, the records of the open phases and
what their detection reports. -/
structure ReadsOnly (s t : State) : Prop where
  rest : t = { s with threads := t.threads, grids := t.grids, lines := t.lines, ptes := t.ptes, maps := t.maps, recs := t.recs, aregs := t.aregs, tick := t.tick }
  slices : ∀ n, (t.thread n).slices = (s.thread n).slices ∧ (t.thread n).pend = (s.thread n).pend

/-- An engine operation has been started for the whole issue set and waits for its range-lock entries; it is the last in the list. -/
structure StartsOp (s t : State) (kind : OpKind) (want : List (Bool × Space × Nat × Nat × Nat)) (st : OpSt) (id : Nat) : Prop where
  op : ∃ o, t.ops = s.ops ++ [o] ∧ o.id = id ∧ o.kind = kind ∧ o.want = want ∧ o.st = st ∧ o.thread = s.ig.t0 + s.low ∧
    o.lanes = laneSet s.issue.lanes ∧ o.team = s.ig.team ∧ o.core = s.icore ∧ o.asid = s.iasid ∧ o.engine = false ∧ o.first = false
  others : ∀ n, (∀ l ∈ s.issue.lanes, n ≠ s.ig.t0 + l) → t.thread n = s.thread n

/-- An engine operation has ended: it is gone, with its range-lock entries (R254). -/
def opEnded (s t : State) (id : Nat) : Prop := t.ops = (s.ops.filter fun o => o.id != id) ∧ t.locks = s.locks.filter fun k => k.op != id

/-! ## Matrix units (R294, R295) -/

/-- May the issuing team use its unit: does no other team claim it (R294)? -/
def State.mayClaim (s : State) : Prop := (s.mxu s.unit).claim = none ∨ (s.mxu s.unit).claim = some s.ig.team

/-- The issuing group's unit as a class J word finds it: as the claim leaves it, if the word makes the claim (R294). -/
def State.claimedUnit (s : State) : Mxu :=
  if (s.mxu s.unit).claim = none then Mxu.fresh s.ig.team else s.mxu s.unit

/-- The issuing group's unit becomes m and every other unit stays as it is. -/
def unitBecomes (s t : State) (m : Mxu) : Prop := t.mxu s.unit = m ∧ ∀ u, u ≠ s.unit → t.mxu u = s.mxu u

/-- Tile n of a unit as `f` changes it. -/
def Mxu.withTile (m : Mxu) (n : Nat) (f : Tile → Tile) : Mxu := { m with tiles := m.tiles.modify n f }

/-! ## Windows, transfers and rings (14 R337–R353) -/

/-- The free entries of the window table in the order in which WREG takes them (R337). -/
def State.freeWins (s : State) : List Nat := List.range' s.winNext (4096 - s.winNext) ++ s.winFreed

/-- A handle names entry i, a window of the issuing team in one of the states given (R337, R338). -/
def State.holds (s : State) (h : W32) (i : Nat) (st : List WinSt) : Prop :=
  i < 4096 ∧ 0 < (s.win i).gen ∧ (s.win i).gen < 2048 ∧ h.toNat = s.accid.toNat * 2 ^ 23 + i * 2 ^ 11 + (s.win i).gen ∧
    (s.win i).team = s.ig.team ∧ (s.win i).st ∈ st

/-- A thread with a write of D pending, whose value is not yet known (R69). -/
def Thread.reserved (a : Thread) (s : State) (d : Operand) (p : Nat) : Thread :=
  a.addPend { id := p, slices := a.locate s.gs d d.w.slices, vals := [], known := false }

/-- A thread whose pending write p lands with a value (R70). -/
def Thread.given (a : Thread) (p : Nat) (v : Word) : Thread :=
  match a.pend.find? fun w => w.id == p with
  | some w => a.land p (sliceVals w.slices.length v)
  | none => a

/-- A transfer is counted with `v`, what becomes of its counter: its arrival is gone; its operation counts one less, and ends with the
last, when the threads that wait for it go on (R342, R254). -/
structure Counted (s t : State) (a : Arrival) (o : EngOp) (x : XferOp) (v : Word → Word → Prop) : Prop where
  rest : t = { s with threads := t.threads, teams := t.teams, ops := t.ops, arrs := s.arrs.filter fun b => b.id != a.id, locks := t.locks }
  counter : ∃ c, v ((s.team o.team).sndc.getD x.ctr 0) c ∧
    t.team o.team = { s.team o.team with sndc := (s.team o.team).sndc.set x.ctr c }
  others : ∀ n, n ≠ o.team → t.team n = s.team n
  more : 1 < x.left → t.threads = s.threads ∧ t.locks = s.locks ∧
    t.ops = s.ops.map fun y => if y.id = o.id then { y with kind := .xfer { x with left := x.left - 1 } } else y
  last : x.left ≤ 1 → opEnded s t o.id ∧ ∀ n, t.thread n =
    if (s.thread n).wait = .op o.id ∨ (s.thread n).wait = .lock o.id then s.released (s.thread n) else s.thread n

/-- A completed transfer: DONE rises by 1, modulo 2^32 (R341, R342). -/
def sentDone (c c' : Word) : Prop := c'.toNat % 2 ^ 32 = (c.toNat + 1) % 2 ^ 32 ∧ c'.toNat / 2 ^ 32 = c.toNat / 2 ^ 32

/-- A refused transfer: REFUSED rises by 1, modulo 2^24, LAST is its status, and NEWREF is 1 (R341, R342). -/
def sentRefused (st : Nat) (c c' : Word) : Prop :=
  c'.toNat % 2 ^ 32 = c.toNat % 2 ^ 32 ∧ c'.toNat / 2 ^ 32 % 2 ^ 24 = (c.toNat / 2 ^ 32 + 1) % 2 ^ 24 ∧
    c'.toNat / 2 ^ 56 % 16 = c.toNat / 2 ^ 56 % 16 ∧ c'.toNat / 2 ^ 60 % 8 = st ∧ c'.toNat / 2 ^ 63 = 1

/-! ## Requests (R369, R394, R434) -/

/-- A word by which each lane that executes queues a request to the sequence table, a walker or the scheduler, with D pending. -/
def requests (i : Instr) (d : Operand) (ok : State → Nat → Prop) (kind : State → Nat → ReqKind) : Prop :=
  ∀ s : State, s.canRun i = true → (∀ l ∈ s.issue.lanes, s.guardHolds l i.guard = true → ok s l) → runsTo i s fun t =>
    t = { s with threads := t.threads, reqs := t.reqs, nextId := t.nextId } ∧
    QueueDo s t State.reqs SeqReq.thread fun l a b rs =>
      if s.guardHolds l i.guard then ∃ r p, rs = [r] ∧ b = a.reserved s d p ∧ r.pend = p ∧ r.kind = kind s l ∧ r.tag = a.dtag ∧
        r.asid = s.iasid ∧ r.grid = s.gridOfGroup s.issue.grp ∧ r.part = s.unit ∧ r.walker = false ∧ r.entry = none ∧ r.refused = false
      else b = a ∧ rs = []

/-- A request has been answered with v: it is gone, and its thread's destination has got the value (R369, R394). -/
structure Answered (s t : State) (r : SeqReq) (v : Word) : Prop where
  thread : t.thread r.thread = (s.thread r.thread).given r.pend v
  others : ∀ n, n ≠ r.thread → t.thread n = s.thread n
  queue : t.reqs = s.reqs.filter fun x => x.id != r.id
  rest : t = { s with threads := t.threads, reqs := t.reqs, seqs := t.seqs, gnodes := t.gnodes, grids := t.grids }

/-- Sequence n is q from now on, and every other as it was. -/
def seqBecomes (s t : State) (n : Nat) (q : Option Seq) : Prop := t.seq n = q ∧ ∀ k, k ≠ n → t.seq k = s.seq k

/-- One event entry has been written, of a kind, with its DATA; vector 0 is raised (R471, R473). -/
def Logged (s t : State) (kind : Nat) (data : Word) : Prop :=
  (∃ e : EvEntry, e.kind = kind ∧ e.data = data ∧ t.evlog = assocSet default s.evlog (s.elcnt.toNat % 256) e) ∧ t.elcnt = s.elcnt + 1 ∧
    t.ellost = (s.ellost || s.elcnt - s.elack == 256) ∧ t.vectors = s.vectors ||| 1

/-! ## Traps (R441–R446) -/

/-- The group's trap registers after an entry of the lanes of `fs` (R443). -/
def Group.entered (g : Group) (fs : List LaneFault) (cause : Nat) (inst info : Word) : Group :=
  { g with tset := laneSet (fs.map (·.lane)), tcause := BitVec.ofNat 8 cause, tinst := inst, tinfo := info }

/-- A thread that is deferred at its chain or run (R444). -/
def Thread.deferred (th : Thread) (s : State) : Thread :=
  { th with pc := s.issue.runPc, wait := .deferred, waitAt := s.issue.runPc, held := none, later := none }

/-- A thread after it has entered the handler (R443). -/
def Thread.entered (th : Thread) (s : State) : Thread :=
  { th with
    tpc := s.issue.runPc, tnpc := s.issue.skipPc, tspr := th.spr, spr := 0, pc := s.ir.trapv, age := 0, wait := .none, held := none,
    later := none }

end Machine
end Sys2Proof
end

