-- ==== Sys2Proof/Certificates/Slice0/Obligations.lean ====
section
/-! DEFINITION. The statements about the model for the provers: each cites the rules of the spec it rests on in OBLIGATIONS.json. -/

section

open Sys2Proof Sys2Proof.Machine

/-! ## Class B: integer words -/

namespace Sys2Proof

/-- Sums, differences and products are those of the exact integers, modulo 2^w; IMAD adds its product to D; IABS and INEG count
their source as signed (R98, R101, R105). -/
def integerSumsWrap : Prop :=
  (∀ g d a b, writesD (.iadd g d a b) d fun s l => wordOf (s.val l a d.w.bits + s.val l b d.w.bits)) ∧
  (∀ g d a b, writesD (.isub g d a b) d fun s l => wordOf (s.val l a d.w.bits - s.val l b d.w.bits)) ∧
  (∀ g d a b, writesD (.imul g d a b) d fun s l => wordOf (s.val l a d.w.bits * s.val l b d.w.bits)) ∧
  (∀ g d a b, writesD (.imad g d a b) d fun s l =>
    wordOf ((s.dstVal l d).toNat + s.val l a d.w.bits * s.val l b d.w.bits)) ∧
  (∀ g d a, writesD (.iabs g d a) d fun s l => wordOf (sval d.w.bits (s.src l a d.w.bits)).natAbs) ∧
  (∀ g d a, writesD (.ineg g d a) d fun s l => wordOf (-sval d.w.bits (s.src l a d.w.bits)))

/-- The ends of the range that a saturating word at width w writes, chosen by A's X bit (R102). -/
def satLow (a : Operand) (w : Nat) : Int := if a.x then -2 ^ (w - 1) else 0
def satHigh (a : Operand) (w : Nat) : Int := if a.x then 2 ^ (w - 1) - 1 else 2 ^ w - 1

/-- IADDS and ISUBS clamp the exact result to the range A's X bit chooses; IMULH writes the upper half of the exact product; IMIN
and IMAX compare exact integers (R102–R104). -/
def integerExactResults : Prop :=
  (∀ g d a b, writesD (.iadds g d a b) d fun s l =>
    wordOf (min (max (s.val l a d.w.bits + s.val l b d.w.bits) (satLow a d.w.bits)) (satHigh a d.w.bits))) ∧
  (∀ g d a b, writesD (.isubs g d a b) d fun s l =>
    wordOf (min (max (s.val l a d.w.bits - s.val l b d.w.bits) (satLow a d.w.bits)) (satHigh a d.w.bits))) ∧
  (∀ g d a b, writesD (.imulh g d a b) d fun s l => wordOf (s.val l a d.w.bits * s.val l b d.w.bits / 2 ^ d.w.bits)) ∧
  (∀ g d a b, writesD (.imin g d a b) d fun s l => wordOf (min (s.val l a d.w.bits) (s.val l b d.w.bits))) ∧
  (∀ g d a b, writesD (.imax g d a b) d fun s l => wordOf (max (s.val l a d.w.bits) (s.val l b d.w.bits)))

end Sys2Proof

/-- Class B arithmetic: sums, differences, products, saturating and comparing words (R98, R101–R105). -/
def Obligations.IntegerArithmetic : Prop := integerSumsWrap ∧ integerExactResults

namespace Sys2Proof

/-- AND, OR, XOR, ANDN, NOT and SEL bit by bit, and BREV's reversal (R106, R108). -/
def logicIsBitwise : Prop :=
  (∀ g d a b, writesD (.and g d a b) d fun s l =>
    wordBits d.w.bits fun k => (s.src l a d.w.bits).getLsbD k && (s.src l b d.w.bits).getLsbD k) ∧
  (∀ g d a b, writesD (.or g d a b) d fun s l =>
    wordBits d.w.bits fun k => (s.src l a d.w.bits).getLsbD k || (s.src l b d.w.bits).getLsbD k) ∧
  (∀ g d a b, writesD (.xor g d a b) d fun s l =>
    wordBits d.w.bits fun k => (s.src l a d.w.bits).getLsbD k != (s.src l b d.w.bits).getLsbD k) ∧
  (∀ g d a b, writesD (.andn g d a b) d fun s l =>
    wordBits d.w.bits fun k => (s.src l a d.w.bits).getLsbD k && !(s.src l b d.w.bits).getLsbD k) ∧
  (∀ g d a, writesD (.not g d a) d fun s l => wordBits d.w.bits fun k => !(s.src l a d.w.bits).getLsbD k) ∧
  (∀ g d a b, writesD (.sel g d a b) d fun s l =>
    wordBits d.w.bits fun k => if (s.src l b d.w.bits).getLsbD k then (s.src l a d.w.bits).getLsbD k else (s.dstVal l d).getLsbD k) ∧
  (∀ g d a, writesD (.brev g d a) d fun s l => wordBits d.w.bits fun k => (s.src l a d.w.bits).getLsbD (d.w.bits - 1 - k))

/-- Shifts multiply and divide by powers of two without a limit on the amount; ROT turns its w bits (R107). -/
def shiftsAndRotation : Prop :=
  (∀ g d a n, writesD (.shl g d a n) d fun s l => BitVec.ofNat 64 ((s.src l a d.w.bits).toNat * 2 ^ s.amount l n)) ∧
  (∀ g d a n, writesD (.shr g d a n) d fun s l => BitVec.ofNat 64 ((s.src l a d.w.bits).toNat / 2 ^ s.amount l n)) ∧
  (∀ g d a n, writesD (.sar g d a n) d fun s l => wordOf (sval d.w.bits (s.src l a d.w.bits) / 2 ^ s.amount l n)) ∧
  (∀ g d a n, writesD (.rot g d a n) d fun s l =>
    wordBits d.w.bits fun k => (s.src l a d.w.bits).getLsbD ((k + d.w.bits - s.amount l n % d.w.bits) % d.w.bits))

end Sys2Proof

/-- Class B logic, bit reversal, shifts and rotation (R106–R108). -/
def Obligations.LogicAndShifts : Prop := logicIsBitwise ∧ shiftsAndRotation

/-- POPC and CLZ count over the source's own width; BFX extracts a field; BFI inserts one and keeps D's other bits;
RNG hashes its operands (R108, R109, R416). -/
def Obligations.BitCountsAndFields : Prop :=
  (∀ g d a, writesD (.popc g d a) d fun s l =>
    BitVec.ofNat 64 ((List.range a.w.bits).countP fun k => (s.src l a a.w.bits).getLsbD k)) ∧
  (∀ g d a, writesD (.clz g d a) d fun s l =>
    BitVec.ofNat 64 (if s.src l a a.w.bits = 0 then a.w.bits else a.w.bits - 1 - Nat.log2 (s.src l a a.w.bits).toNat)) ∧
  (∀ g d a len1 pos, writesD (.bfx g d a false len1 pos) d fun s l =>
    wordBits 64 fun k => decide (k < len1.toNat + 1) && (s.src l a 64).getLsbD (pos.toNat + k)) ∧
  (∀ g d a len1 pos, writesD (.bfx g d a true len1 pos) d fun s l =>
    wordBits 64 fun k => (s.src l a 64).getLsbD (pos.toNat + min k len1.toNat)) ∧
  (∀ g d a len1 pos, writesD (.bfi g d a len1 pos) d fun s l =>
    wordBits d.w.bits fun k =>
      if pos.toNat ≤ k ∧ k < pos.toNat + (len1.toNat + 1) then (s.src l a 64).getLsbD (k - pos.toNat) else (s.dstVal l d).getLsbD k) ∧
  ∀ g d a b, writesD (.rng g d a b) d fun s l =>
    let w := s.src l a 64
    let x : W32 := w.setWidth 32 ^^^ (BitVec.ofNat 32 (w.toNat / 2 ^ 32) * 0x9E3779B9)
    let h := x ^^^ ((s.src l b 32).setWidth 32 * 0x85EBCA6B)
    let h := (h ^^^ (h >>> 16)) * 0x6C8E9CF5
    let h := (h ^^^ (h >>> 15)) * 0xA3B195A7
    let h := h ^^^ (h >>> 16)
    if d.w = .w24 then (h >>> 8).setWidth 64 else h.setWidth 64

/-- ICMP sets, ANDs or ORs one bit of a predicate slice with the condition, at A's own width (R110, R111). -/
def Obligations.IntegerCompareWritesBit : Prop :=
  ∀ g c m p a b, ∀ s : State, s.canRun (.icmp g c m p a b) = true →
    runsTo (.icmp g c m p a b) s fun t => LanesDo s t (predLane s (.icmp g c m p a b) m p fun l =>
      let x := s.src l a a.w.bits
      let y := s.src l b a.w.bits
      match c with
      | .eq => x == y
      | .ne => x != y
      | .lt => decide (sval a.w.bits x < sval a.w.bits y)
      | .le => decide (sval a.w.bits x ≤ sval a.w.bits y)
      | .gt => decide (sval a.w.bits y < sval a.w.bits x)
      | .ge => decide (sval a.w.bits y ≤ sval a.w.bits x)
      | .ltu => decide (x.toNat < y.toNat)
      | .leu => decide (x.toNat ≤ y.toNat)
      | .gtu => decide (y.toNat < x.toNat)
      | .geu => decide (y.toNat ≤ x.toNat)
      | .tst => x &&& y != 0
      | .ntst => x &&& y == 0)

/-! ## Classes A and C: moves, slice ranges, frames, index registers -/

namespace Sys2Proof

/-- MOV, MOVI, MOVHI, and the words that read a mask or an affine register, write one value to D (R87, R120, R121, R190). -/
def movesAndReadsWriteD : Prop :=
  (∀ g d a, writesD (.mov g d a) d fun s l => s.src l a d.w.bits) ∧
  (∀ g d imm, writesD (.movi g d imm) d fun _ _ => imm.signExtend 64) ∧
  (∀ g d imm, writesD (.movhi g d imm) d fun _ _ => BitVec.ofNat 64 (imm.toNat * 2 ^ (d.w.bits - 28))) ∧
  (∀ g d arr n, writesD (.mget g d arr n) d fun s _ => if arr then s.ig.a.getD n.val 0 else s.ig.m.getD n.val 0) ∧
  (∀ g d a q, writesD (.aget g d a q) d fun s l =>
    match q, s.ig.affReg l (affNum a) with
    | .base, .promoted β _ => β
    | .base, .demoted β _ => β
    | .stride, .promoted _ σ => σ.signExtend 64
    | .stride, .demoted _ _ => 0
    | .form, .promoted _ _ => 0
    | .form, .demoted _ _ => 1) ∧
  (∀ g d a n sc, writesD (.alea g d a n sc) d fun s l =>
    wordOf ((affValue (s.ig.affReg l n.toNat) l).toNat + s.val l a 64 * 2 ^ sc.toNat))

/-- SMOVE copies slices with their marks as if through a buffer; SSET fills slices with one value, unmarked; STASHQ reads the
stash registers (R88, R89, R96). -/
def sliceRangesAndStash : Prop :=
  (∀ g d a n, ∀ s : State, s.canRun (.smove g d a n) = true → runsTo (.smove g d a n) s fun t => LanesDo s t fun l x y =>
    if s.guardHolds l g then
      x.Wrote y (x.latched s.issue.latch 0 .w4) (x.locate s.gs d n.toNat) ((x.locate s.gs a n.toNat).map x.slice)
    else y = x.latched s.issue.latch 0 .w4) ∧
  (∀ g d v n1, ∀ s : State, s.canRun (.sset g d v n1) = true → runsTo (.sset g d v n1) s fun t => LanesDo s t fun l x y =>
    if s.guardHolds l g then
      x.Wrote y (x.latched s.issue.latch 0 .w4) (x.locate s.gs d (n1.toNat + 1))
        (List.replicate (n1.toNat + 1) { v, poison := false })
    else y = x.latched s.issue.latch 0 .w4) ∧
  (∀ g d q, ∀ s : State, s.canRun (.stashq g d q) = true → runsTo (.stashq g d q) s fun t => LanesDo s t fun l x y =>
    if s.guardHolds l g then
      x.Wrote y x (x.locate s.gs d d.w.slices) (sliceVals d.w.slices
        (if q = 1 then x.stp else if q = 2 then x.stl else if q = 3 then x.stb
         else BitVec.ofNat 64 (min ((x.stl.toNat - x.stp.toNat) / 32) (2 ^ d.w.bits - 1))))
    else y = x)

end Sys2Proof

/-- Moves, mask and affine reads, slice ranges and stash reads (R87–R89, R96, R120, R121, R190). -/
def Obligations.MovesAndSliceRanges : Prop := movesAndReadsWriteD ∧ sliceRangesAndStash

namespace Sys2Proof

/-- LOOP pushes a level or leaves for its exit; ENDLOOP counts down, repeats or pops; ENDLOOP.BRK pops its levels and branches;
FRAMEADJ moves FB (R90–R92). -/
def loopsAndFrames : Prop :=
  (∀ step a off, movesLanes (.loop step a off) true
    (fun s l => s.src l a 32 = 0 ∨ (s.lt l).lvl.toNat < 4 ∧ (s.lt l).fb.toNat + 8 * step.toNat ≤ s.fbMax)
    fun s l th =>
      if s.src l a 32 = 0 then { th with pc := s.target off.toInt }
      else { th with lc := th.lc.set th.lvl.toNat { step := step.setWidth 7, count := (s.src l a 32).setWidth 32 },
                     ls := th.ls.set th.lvl.toNat (s.issue.nextPc &&& 0x01FFFFFFFFFFFFF8),
                     fb := BitVec.ofNat 10 (th.fb.toNat + 8 * step.toNat), lvl := th.lvl + 1 }) ∧
  (movesLanes .endloop true
    (fun s l => (s.lt l).lvl ≠ 0 ∧ (((s.lt l).lc.getD ((s.lt l).lvl.toNat - 1) default).count = 1 →
      8 * ((s.lt l).lc.getD ((s.lt l).lvl.toNat - 1) default).step.toNat ≤ (s.lt l).fb.toNat))
    fun _ _ th =>
      let k := th.lvl.toNat - 1
      let c := th.lc.getD k default
      if c.count = 1 then
        { th with fb := BitVec.ofNat 10 (th.fb.toNat - 8 * c.step.toNat), lc := th.lc.set k { c with count := 0 }, lvl := th.lvl - 1 }
      else { th with lc := th.lc.set k { c with count := c.count - 1 }, pc := th.ls.getD k 0 }) ∧
  (∀ m1 off, movesLanes (.endloopBrk m1 off) true
    (fun s l => m1.toNat + 1 ≤ (s.lt l).lvl.toNat ∧ (Thread.popLevels (m1.toNat + 1) (s.lt l)).isSome = true)
    fun s _ th => { (Thread.popLevels (m1.toNat + 1) th).getD th with pc := s.target off.toInt }) ∧
  (∀ delta, movesLanes (.frameadj delta) true
    (fun s l => 0 ≤ (s.lt l).fb.toNat + 8 * delta.toInt ∧ (s.lt l).fb.toNat + 8 * delta.toInt ≤ s.fbMax)
    fun _ _ th => { th with fb := BitVec.ofNat 10 (th.fb.toNat + 8 * delta.toInt).toNat })

/-- IXSET points an index register at its operand's physical slice; IXSTEP moves its index modulo 2^16 (R93, R94). -/
def indexRegisters : Prop :=
  (∀ g d x count, movesLanes (.ixset g d x count) true
    (fun s l => ((s.lt l).locate s.gs d 1).headD 0 + count.toNat * d.w.slices ≤ s.ir.l.toNat)
    fun s _ th =>
      let base := (th.locate s.gs d 1).headD 0
      let r : IndexReg := { idx := 0, ew := d.w.code, lim := BitVec.ofNat 11 (base + count.toNat * d.w.slices), base := BitVec.ofNat 10 base }
      { th with x := th.x.set (ixNum x) r }) ∧
  (∀ g x a imm, movesLanes (.ixstepAdd g x a imm) true (fun _ _ => true) fun s l th =>
    { th with x := th.x.modify (ixNum x) fun r => { r with idx := r.idx + (s.src l a 64).setWidth 16 + BitVec.ofInt 16 imm.toInt } }) ∧
  (∀ g x a imm, movesLanes (.ixstepSet g x a imm) true (fun _ _ => true) fun s l th =>
    { th with x := th.x.modify (ixNum x) fun r => { r with idx := (s.src l a 64).setWidth 16 + BitVec.ofInt 16 imm.toInt } })

end Sys2Proof

/-- Loop counters, frames and index registers (R90–R94). -/
def Obligations.LoopsFramesAndIndexes : Prop := loopsAndFrames ∧ indexRegisters

/-! ## Class E: branches, masks, EXIT, YIELD -/

/-- Branches, calls and returns move the program counter; CALL and CALLX write the return address to D; YIELD gives way; NOP only
leaves its latch (R184–R187, R193, R194). -/
def Obligations.BranchesMovePc : Prop :=
  (∀ g off, movesLanes (.bra g off) false (fun _ _ => true) fun s _ th => { th with pc := s.target off.toInt }) ∧
  (∀ g a, movesLanes (.brx g a) false (fun _ _ => true) fun s l th => { th with pc := s.src l a 64 &&& ~~~7#64 }) ∧
  (∀ g a, movesLanes (.ret g a) false (fun _ _ => true) fun s l th => { th with pc := s.src l a 64 &&& ~~~7#64 }) ∧
  (∀ g d off, ∀ s : State, s.canRun (.call g d off) = true → runsTo (.call g d off) s fun t => LanesDo s t fun l a b =>
    ∃ c, arithLane s (.call g d off) d (fun _ => s.issue.nextPc) l a c ∧
      b = if s.guardHolds l g then { c with pc := s.target off.toInt } else c) ∧
  (∀ g d a, ∀ s : State, s.canRun (.callx g d a) = true → runsTo (.callx g d a) s fun t => LanesDo s t fun l x y =>
    ∃ c, arithLane s (.callx g d a) d (fun _ => s.issue.nextPc) l x c ∧
      y = if s.guardHolds l g then { c with pc := s.src l a 64 &&& ~~~7#64 } else c) ∧
  (∀ g c, movesLanes (.yield g c) false (fun _ _ => true) fun s _ th =>
    { th with age := 0, wait := if c = 0 ∨ th.wait ≠ .none then th.wait else .yield s.issue.iss }) ∧
  (∀ g, movesLanes (.nop g) true (fun _ _ => true) fun _ _ th => th)

namespace Sys2Proof

/-- JOIN, LEAVE, BRA.LV, MPUT and JWAIT change a join mask for the lanes that execute them, then its release check runs (R177,
R185, R189, R191). -/
def joinMasks : Prop :=
  (∀ g n, ∀ s : State, s.canRun (.join g n) = true → runsTo (.join g n) s fun t =>
    MaskDo s t n.val (s.ig.m.getD n.val 0 ||| s.actors (.join g n)) (s.ig.a.getD n.val 0) s.lt) ∧
  (∀ g n, ∀ s : State, s.canRun (.leave g n) = true → runsTo (.leave g n) s fun t =>
    MaskDo s t n.val (s.ig.m.getD n.val 0 &&& ~~~s.actors (.leave g n)) (s.ig.a.getD n.val 0 &&& ~~~s.actors (.leave g n)) s.lt) ∧
  (∀ g n off, ∀ s : State, s.canRun (.braLv g n off) = true → runsTo (.braLv g n off) s fun t =>
    let e := s.actors (.braLv g n off)
    MaskDo s t n.val (s.ig.m.getD n.val 0 &&& ~~~e) (s.ig.a.getD n.val 0 &&& ~~~e)
      fun l => if laneIn e l then { s.lt l with pc := s.target off.toInt } else s.lt l) ∧
  (∀ g a n, ∀ s : State, s.canRun (.mput g a n) = true → runsTo (.mput g a n) s fun t =>
    let e := s.actors (.mput g a n)
    let b := wordBits 64 fun l => laneIn e l && (s.src l a a.w.bits).getLsbD l
    MaskDo s t n.val ((s.ig.m.getD n.val 0 &&& ~~~e) ||| b) (s.ig.a.getD n.val 0) s.lt) ∧
  (∀ g n, ∀ s : State, s.canRun (.jwait g n) = true → runsTo (.jwait g n) s fun t =>
    let e := s.actors (.jwait g n) &&& s.ig.m.getD n.val 0
    MaskDo s t n.val (s.ig.m.getD n.val 0) (s.ig.a.getD n.val 0 ||| e) fun l =>
      if laneIn e l ∧ (s.lt l).wait = .none then
        s.waiting (s.lt l) (.jwait n.val)
      else s.lt l)

/-- Does an EXIT of the lanes e free another lane of the group: it waits at a mask whose members left have all arrived, or is deferred by a
trap set that has emptied (R177, R192, R444)? -/
def exitFrees (s : State) (e : Word) (l : Nat) : Prop :=
  (∃ n < 12, let a := s.ig.a.getD n 0 &&& ~~~e
    a ≠ 0 ∧ a = s.ig.m.getD n 0 &&& ~~~e ∧ laneIn a l = true ∧ (s.lt l).wait = .jwait n) ∨
  (s.ig.tset &&& ~~~e = 0 ∧ (s.lt l).wait = .deferred)

/-- EXIT ends the lanes that execute it, takes them out of every mask and of the trap set; each lane that this frees is ready with age 0,
and every other is as it was; the end of a YIELD delay frees the threads of that issue (R177, R192, R193). -/
def exitAndYieldEnd : Prop :=
  (∀ g, ∀ s : State, s.canRun (.exit g) = true → runsTo (.exit g) s fun t =>
    let e := s.actors (.exit g)
    (∀ l < s.ig.w, laneIn e l = true → (t.lt l).exited = true ∧ (t.lt l).ev = none) ∧
    (∀ l < s.ig.w, laneIn e l = false → (exitFrees s e l → t.lt l = { s.lt l with wait := .none, age := 0 }) ∧
      (¬ exitFrees s e l → t.lt l = s.lt l)) ∧
    (∀ k, (∀ l < s.ig.w, k ≠ s.ig.t0 + l) → t.thread k = s.thread k) ∧
    (∀ n < 12, t.ig.m.getD n 0 = s.ig.m.getD n 0 &&& ~~~e) ∧
    (∀ n < 12, let a := s.ig.a.getD n 0 &&& ~~~e
      t.ig.a.getD n 0 = if a ≠ 0 ∧ a = s.ig.m.getD n 0 &&& ~~~e then 0 else a) ∧
    t.ig.tset = s.ig.tset &&& ~~~e ∧
    t = { s with threads := t.threads, groups := t.groups, seqs := t.seqs }) ∧
  (∀ n k, ∀ s : State, (s.thread n).wait = .yield k → runsTo (.yieldDelayEnd n) s fun t =>
    (∀ m, t.thread m = if (s.thread m).wait = .yield k then { s.thread m with wait := .none, age := 0 } else s.thread m) ∧
    t = { s with threads := t.threads })

end Sys2Proof

/-- Join masks, EXIT and the end of a YIELD delay (R177, R185, R189, R191–R193). The model's choices in it: log entry 16 (the end
of a YIELD delay). -/
def Obligations.MasksAndThreadEnds : Prop := joinMasks ∧ exitAndYieldEnd

/-! ## Class F: words across lanes -/

namespace Sys2Proof

/-- A class F word issued by lanes of which the participants arrive with their operand values and wait, and the others go on. -/
def arrives (i : Instr) (p : PSet) (vals : State → Nat → List Word) : Prop :=
  ∀ s : State, s.canRun i = true → (p = .tset ∨ ∀ l ∈ s.issue.lanes, laneIn s.ig.tset l = false) →
    runsTo i s fun t => LanesDo s t fun l a b => b = if laneIn (s.pset p) l then s.waiting a (.cross i (vals s l) (if (crossDst i).x then [] else a.locate s.gs (crossDst i) (crossDst i).w.slices)) else a

/-- Every class F word waits for its participants, each of which brings its operands as it reads them (R197, R198, R202, R207,
R208). -/
def crossLaneArrival : Prop :=
  (∀ p d a b, arrives (.shfl p d a b) p fun s l => [s.src l a d.w.bits, s.src l b b.w.bits]) ∧
  (∀ p d a n, arrives (.shflup p d a n) p fun s l => [s.src l a d.w.bits]) ∧
  (∀ p d a n, arrives (.shfldn p d a n) p fun s l => [s.src l a d.w.bits]) ∧
  (∀ p d a n, arrives (.shflx p d a n) p fun s l => [s.src l a d.w.bits]) ∧
  (∀ p d a low n, arrives (.bcast p d a low n) p fun s l => [s.src l a d.w.bits]) ∧
  (∀ p d a op excl, arrives (.scan p d a op excl) p fun s l => [s.src l a d.w.bits]) ∧
  (∀ p d a op, arrives (.reduce p d a op) p fun s l => [s.src l a d.w.bits]) ∧
  (∀ p d q, arrives (.ballot p d q) p fun s l => [if ((s.lt l).slice q.slice.toNat).v.getLsbD q.bit.toNat then 1 else 0]) ∧
  (∀ p d t q, arrives (.prank p d t q) p fun s l => [if ((s.lt l).slice q.slice.toNat).v.getLsbD q.bit.toNat then 1 else 0]) ∧
  (∀ p d a b, arrives (.sample p d a b) p fun s l => [s.src l a 32, s.src l b 24])

/-- Once every participant waits at the word, it executes once: each participant's D gets its value, each goes on, and no other
thread changes (R197, R199). -/
def crossLaneCompletion : Prop :=
  ∀ grp addr i ls, ∀ s : State, s.crossReady grp addr = some (i, ls) → i.wf = true →
    runsTo (.crossLaneComplete grp addr) s fun t =>
      let u := s.atGroup grp ls
      t = { s with threads := t.threads, nextId := t.nextId, issue := t.issue } ∧
      (∀ n, (∀ l ∈ ls, n ≠ (s.group grp).t0 + l) → t.thread n = s.thread n) ∧
      ∀ l ∈ ls, (s.group grp).t0 + l < s.threads.length →
        let a := s.thread ((s.group grp).t0 + l)
        let b := t.thread ((s.group grp).t0 + l)
        let c := a.crossEnd ((s.group grp).arrivedAt a.lane)
        let d := crossDst i
        ∃ j vs ps, a.crossOf = some (j, vs, ps, addr) ∧
          if d.x then b = c else ps.length = d.w.slices → ps.Nodup → a.Wrote b c ps (sliceVals d.w.slices (u.crossVal i (laneSet ls) l))

end Sys2Proof

/-- Class F words: threads arrive, and the episode completes for all of them (R197, R198). -/
def Obligations.CrossLaneEpisodes : Prop := crossLaneArrival ∧ crossLaneCompletion

namespace Sys2Proof

/-- What a participant receives from a move, a vote or a rank: the value another lane brought, 0 from a lane that is no participant
or does not exist; the participants' bits; their number (R195, R202, R207). -/
def crossLaneValues : Prop :=
  ∀ (s : State) (P : Word) (l : Nat),
    let v := fun j => (s.brought P 0 j).getD 0
    (∀ j, (s.ig.w ≤ j ∨ laneIn P j = false) → v j = 0) ∧
    (∀ p d a b, s.crossVal (.shfl p d a b) P l = v ((s.brought P 1 l).getD 0).toNat) ∧
    (∀ p d a n, s.crossVal (.shflup p d a n) P l = if n.toNat ≤ l then v (l - n.toNat) else 0) ∧
    (∀ p d a n, s.crossVal (.shfldn p d a n) P l = v (l + n.toNat)) ∧
    (∀ p d a n, s.crossVal (.shflx p d a n) P l = v (l ^^^ n.toNat)) ∧
    (∀ p d a n, s.crossVal (.bcast p d a false n) P l = v n.toNat) ∧
    (∀ p d a n j, j < s.ig.w → laneIn P j = true → (∀ k < j, laneIn P k = false) → s.crossVal (.bcast p d a true n) P l = v j) ∧
    (∀ p d q k, k < 64 → (s.crossVal (.ballot p d q) P l).getLsbD k = (decide (k < s.ig.w) && v k != 0)) ∧
    (∀ p d q, s.ig.w ≤ 64 → (s.crossVal (.prank p d false q) P l).toNat = (List.range s.ig.w).countP fun j => decide (j < l) && v j != 0) ∧
    (∀ p d q, s.ig.w ≤ 64 → (s.crossVal (.prank p d true q) P l).toNat = (List.range s.ig.w).countP fun j => v j != 0)

/-- For the integer operators the steps of SCAN and the tree of REDUCE give what combining the lanes' values in lane order gives
(R203, R205, R206). -/
def integerScansCombineInLaneOrder : Prop :=
  ∀ (op : ScanOp) (w : Width) (sg : Bool) (k : Nat) (v : List Word),
    op ≠ .fadd → op ≠ .fmin → op ≠ .fmax → v.length = 2 ^ k → (∀ x ∈ v, truncW w.bits x = x) →
    let f := scanOp op w.bits sg
    (∀ l < v.length, (scanSteps f k 1 v).getD l 0 = (v.take (l + 1)).foldl f (scanId op w.bits sg)) ∧
    (reduceTree f k v).headD 0 = v.foldl f (scanId op w.bits sg)

/-- R205's steps: lane j's value after k of them. -/
def hillisSteele (f : Word → Word → Word) (a : Nat → Word) : Nat → Nat → Word
  | 0, j => a j
  | k + 1, j => if 2 ^ k ≤ j then f (hillisSteele f a k (j - 2 ^ k)) (hillisSteele f a k j) else hillisSteele f a k j

/-- R206's tree: lane j's value after k of its levels. -/
def pairedTree (f : Word → Word → Word) (a : Nat → Word) : Nat → Nat → Word
  | 0, j => a j
  | k + 1, j => if j % 2 ^ (k + 1) = 0 then f (pairedTree f a k j) (pairedTree f a k (j + 2 ^ k)) else pairedTree f a k j

/-- What lane j begins a scan or reduction with: its value, or the operator's identity outside P (R203). -/
def scanStart (s : State) (P : Word) (op : ScanOp) (d a : Operand) (j : Nat) : Word :=
  if laneIn P j then (s.brought P 0 j).getD 0 else scanId op d.w.bits a.x

/-- SCAN delivers R205's value of the lane, or of the lane below with EXCL, and REDUCE R206's, for every operator; for an integer one that is
what combining the lanes' values in lane order gives (R203–R206). -/
def scanAndReduceValues : Prop :=
  ∀ (s : State) (P : Word) (l k : Nat), s.ig.w = 2 ^ k → l < s.ig.w → (∀ j < s.ig.w, laneIn P j = true → (s.brought P 0 j).isSome = true) →
    ∀ (p : PSet) (d a : Operand) (op : ScanOp),
      let f := scanOp op d.w.bits a.x
      let id := scanId op d.w.bits a.x
      let v := scanStart s P op d a
      s.crossVal (.scan p d a op false) P l = hillisSteele f v k l ∧
      s.crossVal (.scan p d a op true) P l = (if l = 0 then id else hillisSteele f v k (l - 1)) ∧
      s.crossVal (.reduce p d a op) P l = pairedTree f v k 0 ∧
      (op ≠ .fadd → op ≠ .fmin → op ≠ .fmax → (∀ j < s.ig.w, truncW d.w.bits (v j) = v j) →
        s.crossVal (.scan p d a op false) P l = ((List.range (l + 1)).map v).foldl f id ∧
        s.crossVal (.scan p d a op true) P l = ((List.range l).map v).foldl f id ∧
        s.crossVal (.reduce p d a op) P l = ((List.range s.ig.w).map v).foldl f id)

/-- The operators of Table 8.3: ADD wraps; MIN and MAX choose by A's X bit; FADD is the sum rounded to nearest even, ∞ where that
overflows; FMIN and FMAX choose as R154 says; every NaN is 0x7FC00000, and FMODE plays no part (R203, R204). -/
def scanOperators : Prop :=
  (∀ (w : Width) (sg : Bool) (x y : Word), truncW w.bits x = x → truncW w.bits y = y →
    let v := fun z : Word => if sg then sval w.bits z else (z.toNat : Int)
    (scanOp .add w.bits sg x y).toNat = (x.toNat + y.toNat) % 2 ^ w.bits ∧
    v (scanOp .min w.bits sg x y) = min (v x) (v y) ∧ v (scanOp .max w.bits sg x y) = max (v x) (v y) ∧
    (∀ k, (scanOp .and w.bits sg x y).getLsbD k = (x.getLsbD k && y.getLsbD k) ∧
      (scanOp .or w.bits sg x y).getLsbD k = (x.getLsbD k || y.getLsbD k) ∧
      (scanOp .xor w.bits sg x y).getLsbD k = (x.getLsbD k != y.getLsbD k)) ∧
    ∀ op : ScanOp, op ≠ .fadd → op ≠ .fmin → op ≠ .fmax →
      scanOp op w.bits sg (scanId op w.bits sg) x = x ∧ scanOp op w.bits sg x (scanId op w.bits sg) = x) ∧
  ∀ (w : Nat) (sg : Bool) (x y : W32),
    let a := fpIn false x
    let b := fpIn false y
    let r := fun op => scanOp op w sg (x.setWidth 64) (y.setWidth 64)
    (a.isNan = true ∨ b.isNan = true → r .fadd = 0x7FC00000) ∧
    (a.isNan = true ∧ b.isNan = true → r .fmin = 0x7FC00000 ∧ r .fmax = 0x7FC00000) ∧
    (a.isNan = true ∧ b.isNan = false → r .fmin = y.setWidth 64 ∧ r .fmax = y.setWidth 64) ∧
    (a.isNan = false ∧ b.isNan = true → r .fmin = x.setWidth 64 ∧ r .fmax = x.setWidth 64) ∧
    (a.isNan = false ∧ b.isNan = false →
      r .fmin = (if fpLt b a = true ∨ (a.isZero = true ∧ b = .fin true 0 b.exp) then y else x).setWidth 64 ∧
      r .fmax = (if fpLt a b = true ∨ (b.isZero = true ∧ a = .fin true 0 a.exp) then y else x).setWidth 64) ∧
    r .fadd = (delivered .rne false (fpAdd .rne a b)).1

/-- SAMPLE counts a weight of a participant that is positive and finite, and draws the least lane whose running sum exceeds the lowest
participant's fraction of the total, else the greatest with a weight, or none where the total is 0; `bad` tells of a participant's weight
that is negative, infinite or a NaN (R208). -/
def sampleValues : Prop :=
  ∀ (s : State) (P : Word) (l l0 k : Nat) (p : PSet) (d a b : Operand), s.ig.w = 2 ^ k → l < s.ig.w → l0 < s.ig.w → laneIn P l0 = true →
    (∀ j < l0, laneIn P j = false) → (∀ j < s.ig.w, laneIn P j = true → (s.brought P 0 j).isSome = true) →
    ((s.brought P 1 l0).getD 0).toNat < 2 ^ 24 →
    let x : Nat → W32 := fun j => ((s.brought P 0 j).getD 0).setWidth 32
    let odd := fun j => (x j).toNat % 2 ^ 31 ≠ 0 ∧ (x j).getLsbD 31 = true ∨ 0x7F800000 ≤ (x j).toNat % 2 ^ 31
    let w : Nat → Word := fun j => if laneIn P j = true ∧ (x j).toNat < 0x7F800000 then (x j).setWidth 64 else 0
    let sum := fun j => fpIn false ((hillisSteele (scanOp .fadd 32 false) w k j).setWidth 32)
    let total := sum (s.ig.w - 1)
    let u := ((s.brought P 1 l0).getD 0).toNat
    let t := if u = 0 then Fp.fin false 0 0 else fpIn false (deliver .rne false (fpMul (.fin false u (-24)) total).1).1
    let v := s.crossVal (.sample p d a b) P l
    v.toNat < 2 ^ 34 ∧ (v.getLsbD 33 = true ↔ ∃ j < s.ig.w, laneIn P j = true ∧ odd j) ∧
    (total.isZero = true → v.toNat % 2 ^ 33 = 0xFFFFFFFF) ∧
    (total.isZero = false → v.getLsbD 32 = true ∧ ∃ c < s.ig.w, v.toNat % 2 ^ 32 = c ∧ w c ≠ 0 ∧
      ((fpLt t (sum c) = true ∧ ∀ j < c, w j = 0 ∨ fpLt t (sum j) = false) ∨
        ((∀ j < s.ig.w, w j = 0 ∨ fpLt t (sum j) = false) ∧ ∀ j < s.ig.w, c < j → w j = 0)))

end Sys2Proof

/-- What class F words deliver: moves, votes and ranks, scans and reductions of every operator, and samples (R199–R208). The model's choice in
it: log entry 59 (a NaN that no operator touches). -/
def Obligations.CrossLaneResults : Prop :=
  crossLaneValues ∧ integerScansCombineInLaneOrder ∧ scanAndReduceValues ∧ scanOperators ∧ sampleValues

/-! ## Class D: floating point -/

namespace Sys2Proof

/-- FADD, FSUB, FMUL, FFMA, FSCL, FMIN, FMAX and FRND deliver their exact result under R148 and OR its exceptions into FFLAGS (R147,
R153, R154, R156, R157). -/
def floatArithmetic : Prop :=
  (∀ g d a b, deliversD (.fadd g d a b) d fun s l => delivered s.rnd s.ftz (fpAdd s.rnd (s.fp l a) (s.fp l b))) ∧
  (∀ g d a b, deliversD (.fsub g d a b) d fun s l => delivered s.rnd s.ftz (fpAdd s.rnd (s.fp l a) (s.fp l b).negate)) ∧
  (∀ g d a b, deliversD (.fmul g d a b) d fun s l => delivered s.rnd s.ftz (fpMul (s.fp l a) (s.fp l b))) ∧
  (∀ g d a b, deliversD (.ffma g d a b) d fun s l =>
    delivered s.rnd s.ftz (fpFma s.rnd (s.fp l a) (s.fp l b) (fpIn s.ftz ((s.dstVal l d).setWidth 32)))) ∧
  (∀ g d a b, deliversD (.fscl g d a b) d fun s l => delivered s.rnd s.ftz (fpScale (s.fp l a) (s.val l b b.w.bits))) ∧
  (∀ g d a b, deliversD (.fmin g d a b) d fun s l => delivered .rne false (fpMinMax false (s.fp l a) (s.fp l b))) ∧
  (∀ g d a b, deliversD (.fmax g d a b) d fun s l => delivered .rne false (fpMinMax true (s.fp l a) (s.fp l b))) ∧
  (∀ g d a m, deliversD (.frnd g d a m) d fun s l => delivered .rne false (fpRnd (rndOfMode m s.rnd) (s.fp l a)))

end Sys2Proof

namespace Sys2Proof

/-- The special inputs of Table 6.6: zeros, ones, infinities, negative values and NaNs; under FTZ a subnormal counts as a zero of its sign
(R149, R162). -/
def specialInputs : Prop :=
  ∀ (md : Rnd) (ftz : Bool),
    let rcp := fun x : W32 => fpRcp ftz (fpIn ftz x)
    let rsq := fun x : W32 => fpRsq ftz (fpIn ftz x)
    let sqrt := fun x : W32 => fpSqrt md ftz (fpIn ftz x)
    let exp2 := fun x : W32 => fpExp2 ftz (fpIn ftz x)
    let log2 := fun x : W32 => fpLog2 ftz (fpIn ftz x)
    let tanh := fun x : W32 => fpTanh ftz (fpIn ftz x)
    (∀ x : W32, x = 0 ∨ ftz = true ∧ x.toNat < 2 ^ 23 → rcp x = (0x7F800000, flDZ) ∧ rsq x = (0x7F800000, flDZ) ∧ sqrt x = (0, 0) ∧
      exp2 x = (0x3F800000, 0) ∧ log2 x = (0xFF800000, flDZ) ∧ tanh x = (0, 0)) ∧
    (∀ x : W32, x = 0x80000000 ∨ ftz = true ∧ 2 ^ 31 ≤ x.toNat ∧ x.toNat < 2 ^ 31 + 2 ^ 23 →
      rcp x = (0xFF800000, flDZ) ∧ rsq x = (0xFF800000, flDZ) ∧ sqrt x = (0x80000000, 0) ∧ exp2 x = (0x3F800000, 0) ∧
      log2 x = (0xFF800000, flDZ) ∧ tanh x = (0x80000000, 0)) ∧
    (rcp 0x3F800000 = (0x3F800000, 0) ∧ rsq 0x3F800000 = (0x3F800000, 0) ∧ sqrt 0x3F800000 = (0x3F800000, 0) ∧
      exp2 0x3F800000 = (0x40000000, 0) ∧ log2 0x3F800000 = (0, 0)) ∧
    (rcp 0x7F800000 = (0, 0) ∧ rsq 0x7F800000 = (0, 0) ∧ sqrt 0x7F800000 = (0x7F800000, 0) ∧ exp2 0x7F800000 = (0x7F800000, 0) ∧
      log2 0x7F800000 = (0x7F800000, 0) ∧ tanh 0x7F800000 = (0x3F800000, 0)) ∧
    (rcp 0xFF800000 = (0x80000000, 0) ∧ exp2 0xFF800000 = (0, 0) ∧ tanh 0xFF800000 = (0xBF800000, 0)) ∧
    (∀ x : W32, 2 ^ 31 + (if ftz then 2 ^ 23 - 1 else 0) < x.toNat → x.toNat ≤ 0xFF800000 →
      rsq x = (0x7FC00000, flNV) ∧ sqrt x = (0x7FC00000, flNV) ∧ log2 x = (0x7FC00000, flNV)) ∧
    ∀ x : W32, 0x7F800000 < x.toNat % 2 ^ 31 → ∀ f ∈ [rcp, rsq, sqrt, exp2, log2, tanh],
      f x = (0x7FC00000, if x.getLsbD 22 then 0 else flNV)

end Sys2Proof

/-- FSQRT, the transcendental words and the conversions to and from integers deliver a value and flags in the same way, and the special
inputs of the functions give the values of their table (R149, R160–R162, R164, R165). -/
def Obligations.FloatFunctionsAndConversions : Prop :=
  specialInputs ∧
  (∀ g d a, deliversD (.fsqrt g d a) d fun s l => wide (fpSqrt s.rnd s.ftz (s.fp l a))) ∧
  (∀ g d a, deliversD (.frcp g d a) d fun s l => wide (fpRcp s.ftz (s.fp l a))) ∧
  (∀ g d a, deliversD (.frsq g d a) d fun s l => wide (fpRsq s.ftz (s.fp l a))) ∧
  (∀ g d a, deliversD (.fexp2 g d a) d fun s l => wide (fpExp2 s.ftz (s.fp l a))) ∧
  (∀ g d a, deliversD (.flog2 g d a) d fun s l => wide (fpLog2 s.ftz (s.fp l a))) ∧
  (∀ g d a, deliversD (.ftanh g d a) d fun s l => wide (fpTanh s.ftz (s.fp l a))) ∧
  (∀ g d a sg m, deliversD (.cvtfi g d a sg m) d fun s l =>
    let r := fpCvtInt (rndOfMode m s.rnd) sg d.w.bits (s.fp l a)
    (wordOf r.1, r.2)) ∧
  (∀ g d a m, deliversD (.cvtif g d a m) d fun s l => wide (fpCvtFromInt (rndOfMode m s.rnd) (s.val l a a.w.bits))) ∧
  (∀ g d a slot f, ∀ s : State, s.canRun (.cvtfTo g d a slot) = true → (s.slot slot.toNat).plainFp = some f → d.w.bits = f.bits →
    let r := fun l => fpCvtTo f (rndOf (s.slot slot.toNat).rnd) (s.slot slot.toNat).sat (fpIn false ((s.src l a 32).setWidth 32))
    (∀ l ∈ s.issue.lanes, s.guardHolds l g = true → (r l).2 &&& s.fpEnables = 0) →
    runsTo (.cvtfTo g d a slot) s fun t =>
      LanesDo s t (fpLane s (.cvtfTo g d a slot) d fun l => (BitVec.ofNat 64 (r l).1, (r l).2))) ∧
  (∀ g d a slot f, ∀ s : State, s.canRun (.cvtfFrom g d a slot) = true → (s.slot slot.toNat).plainFp = some f → a.w.bits = f.bits →
    let r := fun l => wide (fpCvtFrom f (s.src l a a.w.bits).toNat)
    (∀ l ∈ s.issue.lanes, s.guardHolds l g = true → (r l).2 &&& s.fpEnables = 0) →
    runsTo (.cvtfFrom g d a slot) s fun t => LanesDo s t (fpLane s (.cvtfFrom g d a slot) d r))

namespace Sys2Proof

/-- FNEG and FABS change bit 31 alone and FCLASS sets the one bit of its operand's class, without flags; FCMP writes a predicate bit
and ORs its flags (R155, R158, R159). -/
def floatSignsAndCompares : Prop :=
  (∀ g d a, writesD (.fneg g d a) d fun s l => wordBits 32 fun k => (s.src l a 32).getLsbD k != decide (k = 31)) ∧
  (∀ g d a, writesD (.fabs g d a) d fun s l => wordBits 32 fun k => (s.src l a 32).getLsbD k && decide (k ≠ 31)) ∧
  (∀ g d a, writesD (.fclass g d a) d fun s l => wordBits 10 fun k =>
    let e := (s.src l a 32).toNat / 2 ^ 23 % 256
    let m := (s.src l a 32).toNat % 2 ^ 23
    let n := (s.src l a 32).getLsbD 31
    k == if e = 255 then (if m = 0 then (if n then 0 else 7) else if m < 2 ^ 22 then 8 else 9)
         else if e = 0 then (if m = 0 then (if n then 3 else 4) else (if n then 2 else 5)) else (if n then 1 else 6)) ∧
  (∀ g c m p a b, ∀ s : State, s.canRun (.fcmp g c m p a b) = true →
    let r := fun l => fpCmp c (s.fp l a) (s.fp l b)
    (∀ l ∈ s.issue.lanes, s.guardHolds l g = true → (r l).2 &&& s.fpEnables = 0) →
    runsTo (.fcmp g c m p a b) s fun t => LanesDo s t fun l x y =>
      predLane s (.fcmp g c m p a b) m p (fun l => (r l).1) l
        (if s.guardHolds l g then { x with fflags := x.fflags ||| (r l).2 } else x) y)

end Sys2Proof

/-- Class D arithmetic, signs, classes and compares (R147–R164). -/
def Obligations.FloatArithmeticAndCompares : Prop := floatArithmetic ∧ floatSignsAndCompares

namespace Sys2Proof

/-- Every NaN an addition, product or fused product delivers is 0x7FC00000; ∞ − ∞ and 0 × ∞ raise NV, the latter beside a quiet NaN addend
too, and so does a signalling operand; a quiet one raises nothing; an infinite result of infinite operands is exact (R148, R153). -/
def floatSpecialOperands : Prop :=
  ∀ (md : Rnd) (ftz : Bool) (x y : Fp),
    (x.isNan = true ∨ y.isNan = true →
      delivered md ftz (fpAdd md x y) = (0x7FC00000, if x.isSig = true ∨ y.isSig = true then flNV else 0) ∧
      delivered md ftz (fpMul x y) = (0x7FC00000, if x.isSig = true ∨ y.isSig = true then flNV else 0)) ∧
    (∀ n, delivered md ftz (fpAdd md (.inf n) (.inf !n)) = (0x7FC00000, flNV)) ∧
    (∀ n, delivered md ftz (fpAdd md (.inf n) (.inf n)) = (if n then 0xFF800000 else 0x7F800000, 0)) ∧
    (∀ n, x.isZero = true → delivered md ftz (fpMul x (.inf n)) = (0x7FC00000, flNV) ∧
      delivered md ftz (fpFma md x (.inf n) (.nan false)) = (0x7FC00000, flNV)) ∧
    (∀ z : Fp, x.isNan = true ∨ y.isNan = true ∨ z.isNan = true →
      let invalid := (x.isZero = true ∧ ∃ n, y = .inf n) ∨ (y.isZero = true ∧ ∃ n, x = .inf n)
      (x.isSig = true ∨ y.isSig = true ∨ z.isSig = true ∨ invalid → delivered md ftz (fpFma md x y z) = (0x7FC00000, flNV)) ∧
      (¬ (x.isSig = true ∨ y.isSig = true ∨ z.isSig = true ∨ invalid) → delivered md ftz (fpFma md x y z) = (0x7FC00000, 0))) ∧
    (∀ n, y.isZero = true → delivered md ftz (fpMul (.inf n) y) = (0x7FC00000, flNV) ∧ ∀ z,
      delivered md ftz (fpFma md (.inf n) y z) = (0x7FC00000, flNV) ∧ delivered md ftz (fpFma md y (.inf n) z) = (0x7FC00000, flNV)) ∧
    (∀ n, y.isNan = false → y.isZero = false →
      let inf := fun b : Bool => ((if b then 0xFF800000 else 0x7F800000 : Word), (0 : FFlags))
      delivered md ftz (fpMul (.inf n) y) = inf (n != y.neg) ∧ delivered md ftz (fpMul y (.inf n)) = inf (n != y.neg) ∧
      (∀ z, (∀ b, z ≠ .inf b) → z.isNan = false → delivered md ftz (fpFma md (.inf n) y z) = inf (n != y.neg)) ∧
      delivered md ftz (fpFma md (.inf n) y (.inf (n != y.neg))) = inf (n != y.neg) ∧
      delivered md ftz (fpFma md (.inf n) y (.inf (n == y.neg))) = (0x7FC00000, flNV)) ∧
    (∀ n a b e m f k, delivered md ftz (fpFma md (.fin a m e) (.fin b k f) (.inf n)) = (if n then 0xFF800000 else 0x7F800000, 0)) ∧
    (∀ n, x.isNan = false → (∀ b, x ≠ .inf b) → delivered md ftz (fpAdd md x (.inf n)) = (if n then 0xFF800000 else 0x7F800000, 0) ∧
      delivered md ftz (fpAdd md (.inf n) x) = (if n then 0xFF800000 else 0x7F800000, 0)) ∧
    (∀ m e, 0 < m → delivered md ftz (fpAdd md (.fin false m e) (.fin true m e)) =
      (if md = .rdn then 0x80000000 else 0, 0))

/-- Rounding to a format (R126): a result that does not overflow is a finite value of the operand's sign, less than one unit of its
last place away, on the side that its mode says, and in RNE at most half a unit away; it is inexact just where it differs. -/
def roundingStaysWithinAUnit : Prop :=
  ∀ f ∈ [fp32, fp16, bf16, e4m3, e5m2, e2m1], ∀ (md : Rnd) (neg : Bool) (m : Nat) (e : Int), m ≠ 0 →
    let r := f.round md false neg m e
    r.ovf = false → ∃ (k : Nat) (q : Int), f.decode r.bits = .fin neg k q ∧
      let u := if q ≤ e then q else e
      let K := k * 2 ^ (q - u).toNat
      let M := m * 2 ^ (e - u).toNat
      let unit := 2 ^ (q - u).toNat
      (r.inexact = true ↔ K ≠ M) ∧ K < M + unit ∧ M < K + unit ∧
      (md = .rtz ∨ (md = .rdn ∧ neg = false) ∨ (md = .rup ∧ neg = true) → K ≤ M) ∧
      ((md = .rdn ∧ neg = true) ∨ (md = .rup ∧ neg = false) → M ≤ K) ∧
      (md = .rne → 2 * K ≤ 2 * M + unit ∧ 2 * M ≤ 2 * K + unit)

end Sys2Proof

/-- What class D results are for special operands, and how far rounding goes (R126–R136). -/
def Obligations.FloatResultRules : Prop := floatSpecialOperands ∧ roundingStaysWithinAUnit

/-- QBLK writes each lane's element of its block's quantisation and the block's scale; DQBLK expands its block with the scale of its
lowest live lane (R166–R168). -/
def Obligations.BlockWords : Prop :=
  (∀ d a slot sc f, ∀ s : State, s.canRun (.qblk d a slot sc) = true → (s.slot slot.toNat).mx = some f → d.w.bits = f.bits →
    32 ≤ s.ig.w → s.whole = true → s.fpEnables = 0 → (∀ l ∈ s.blockLanes, (s.lt l).exited = true ∨ l ∈ s.issue.lanes) →
    (∀ l ∈ s.issue.lanes, ∀ p ∈ (s.lt l).locate s.gs (scaleOp sc) 2, p ∉ (s.lt l).locate s.gs d d.w.slices) →
    runsTo (.qblk d a slot sc) s fun t =>
      let v := s.blockLanes.map fun l => if (s.lt l).exited then Fp.fin false 0 0 else fpIn false ((s.src l a 32).setWidth 32)
      let bad := v.any fun x => !x.isFin
      let el := fun l => if bad then (0, false) else mxElem f (mxExp f v) (v.getD (l % 32) (.fin false 0 0))
      LanesDo s t fun l x y =>
        let c := { x with fflags := x.fflags ||| if bad then flNV else if (el l).2 then flNX else 0 }
        let ds := if d.x then [] else x.locate s.gs d d.w.slices
        x.Wrote y (c.latched s.issue.latch (truncW d.w.bits (BitVec.ofNat 64 (el l).1)) d.w)
          (ds ++ x.locate s.gs (scaleOp sc) 2)
          ((if d.x then [] else sliceVals d.w.slices (BitVec.ofNat 64 (el l).1)) ++
            sliceVals 2 (BitVec.ofNat 64 (if bad then 255 else (mxExp f v + 127).toNat)))) ∧
  (∀ d a slot sc f, ∀ s : State, s.canRun (.dqblk d a slot sc) = true → (s.slot slot.toNat).mx = some f → a.w.bits = f.bits →
    32 ≤ s.ig.w → s.whole = true → s.fpEnables = 0 → s.domain ≠ [] → s.domain.headD 0 ∈ s.issue.lanes →
    runsTo (.dqblk d a slot sc) s fun t =>
      LanesDo s t (fpLane s (.dqblk d a slot sc) d fun l =>
        let r := fp32.convert (rndOf (s.slot slot.toNat).rnd) (s.slot slot.toNat).sat
          (mxValue f (s.src (s.domain.headD 0) (scaleOp sc) 8).toNat (s.src l a a.w.bits).toNat)
        (BitVec.ofNat 64 r.1, if r.2 = flOF then flOF else 0)))

/-! ## Class C: affine registers -/

namespace Sys2Proof

/-- The pair and the lanes' values that AMOV, AADD, AMUL and AFROM write (R117–R119). -/
def amovPair (a b : Operand) (s : State) (l0 : Nat) : Option (Word × BitVec 32) := some (s.src l0 a 64, (s.src l0 b 32).setWidth 32)
def amovVal (a b : Operand) (s : State) (l0 l : Nat) : Word := wordOf ((s.src l0 a 64).toNat + sval 32 (s.src l0 b 32) * l)
def aaddPair (a b : Operand) (s : State) (l0 : Nat) : Option (Word × BitVec 32) :=
  match s.ig.affReg l0 (affNum a) with
  | .promoted β σ => some (β + s.src l0 b 64, σ)
  | .demoted _ _ => none
def aaddVal (a b : Operand) (s : State) (l0 l : Nat) : Word := s.affVal l (affNum a) + s.src l0 b 64
def amulPair (a b : Operand) (s : State) (l0 : Nat) : Option (Word × BitVec 32) :=
  match s.ig.affReg l0 (affNum a) with
  | .promoted β σ =>
    let k := sval 32 (s.src l0 b 32)
    if -2 ^ 31 ≤ σ.toInt * k ∧ σ.toInt * k < 2 ^ 31 then some (wordOf (β.toNat * k), BitVec.ofInt 32 (σ.toInt * k)) else none
  | .demoted _ _ => none
def amulVal (a b : Operand) (s : State) (l0 l : Nat) : Word :=
  wordOf ((s.affVal l (affNum a)).toNat * sval 32 (s.src l0 b 32))

/-- The class C words give their register the values of their entries (R112–R114, R117–R119). -/
def affineRegisterWrites : Prop :=
  (∀ g d a b, writesAffine (.amov g d a b) d (amovPair a b) (amovVal a b)) ∧
  (∀ g d a b, writesAffine (.aadd g d a b) d (aaddPair a b) (aaddVal a b)) ∧
  (∀ g d a b, writesAffine (.amul g d a b) d (amulPair a b) (amulVal a b)) ∧
  (∀ g d a, writesAffine (.afrom g d a) d (fun _ _ => none) fun s _ l => s.src l a 64)

/-- The class C words raise affine divergence where R114 says so. -/
def affineDivergence : Prop :=
  (∀ g d a b, divergesAffine (.amov g d a b) d (amovPair a b) (amovVal a b)) ∧
  (∀ g d a b, divergesAffine (.aadd g d a b) d (aaddPair a b) (aaddVal a b)) ∧
  (∀ g d a b, divergesAffine (.amul g d a b) d (amulPair a b) (amulVal a b)) ∧
  (∀ g d a, divergesAffine (.afrom g d a) d (fun _ _ => none) fun s _ l => s.src l a 64)

end Sys2Proof

/-- Class C writes, and where they diverge (R112–R119). The model's choices in it: log entry 13. -/
def Obligations.AffineRegisters : Prop := affineRegisterWrites ∧ affineDivergence

/-! ## Class G: memory words -/

namespace Sys2Proof

/-- The words that load and store a scratchpad or cluster memory, with their spaces. -/
def localLoads (g : Guard) (d a : Operand) (off : BitVec 12) : List (Instr × Space) :=
  [(.lds g d a off, .core), (.ldc g d a off, .cluster), (.ldx g d a off, .chip)]
def localStores (g : Guard) (d a : Operand) (off : BitVec 12) : List (Instr × Space) :=
  [(.sts g d a off, .core), (.stc g d a off, .cluster), (.stx g d a off, .chip)]

/-- LDS, LDC and LDX issue loads, and STS, STC and STX stores, of D's bytes at A plus the scaled offset, where the range lies in the
space and no range lock forbids it; a lane whose range leaves the space takes a permission fault (R210, R212, R216, R235). -/
def localAccessesIssue : Prop :=
  ∀ (g : Guard) (d a : Operand) (off : BitVec 12),
    (∀ x ∈ localLoads g d a off, issuesAccesses x.1
      (fun s l => s.localCheck x.2 (memEa d a off s l) (d.w.bits / 8) false = none)
      (loadLane x.1 d x.2 fun s l => splitAt128 (s.memAddr x.2 (memEa d a off s l)) (d.w.bits / 8))) ∧
    (∀ x ∈ localStores g d a off, issuesAccesses x.1
      (fun s l => s.localCheck x.2 (memEa d a off s l) (d.w.bits / 8) true = none)
      (storeLane x.1 d x.2 fun s l => splitAt128 (s.memAddr x.2 (memEa d a off s l)) (d.w.bits / 8))) ∧
    ∀ x ∈ localLoads g d a off ++ localStores g d a off, ∀ s : State, s.canRun x.1 = true →
      (∀ l ∈ s.issue.lanes, s.guardHolds l g = true → s.spaceSize x.2 < memEa d a off s l + d.w.bits / 8) →
      runsTo x.1 s fun t => t = (s.faultLanes (s.issue.lanes.filter fun l => s.guardHolds l g)
        fun l => (0x08, permInfo x.2.code (memEa d a off s l))).finish

/-- LDG and STG issue their accesses at A plus the scaled offset, through a relocated or transposed window where one serves the
address; a lane whose range leaves the address space takes a permission fault; PREF changes nothing (R210, R227, R228, R236). -/
def globalAccessesIssue : Prop :=
  ∀ (g : Guard) (d a : Operand) (hint : BitVec 2) (off : BitVec 12),
    issuesAccesses (.ldg g d a hint off)
      (fun s l => s.globCheck (memEa d a off s l) (d.w.bits / 8) false = none ∧
        s.globOpen (memEa d a off s l) (d.w.bits / 8) false ∧ s.globParts (memEa d a off s l) (d.w.bits / 8) ≠ [])
      (loadLane (.ldg g d a hint off) d .glob fun s l => s.globParts (memEa d a off s l) (d.w.bits / 8)) ∧
    issuesAccesses (.stg g d a hint off)
      (fun s l => s.globCheck (memEa d a off s l) (d.w.bits / 8) true = none ∧
        s.globOpen (memEa d a off s l) (d.w.bits / 8) true)
      (storeLane (.stg g d a hint off) d .glob fun s l => s.globParts (memEa d a off s l) (d.w.bits / 8)) ∧
    (∀ i ∈ [Instr.ldg g d a hint off, .stg g d a hint off], ∀ s : State, s.canRun i = true →
      (∀ l ∈ s.issue.lanes, s.guardHolds l g = true → 2 ^ 57 < memEa d a off s l + d.w.bits / 8) →
      runsTo i s fun t => t = (s.faultLanes (s.issue.lanes.filter fun l => s.guardHolds l g)
        fun l => (0x08, permInfo 0 (memEa d a off s l))).finish) ∧
    ∀ (w : Width) (s : State), s.canRun (.pref g w a hint off) = true → runsTo (.pref g w a hint off) s fun t => t = s

/-- Loads and stores through views: a load from an MX view is computed from it; a store through a plane or MX view is a permission
fault with code 4 (R228, R225). -/
def viewAccesses : Prop :=
  ∀ (g : Guard) (d a : Operand) (hint : BitVec 2) (off : BitVec 12),
    issuesAccesses (.ldg g d a hint off)
      (fun s l => s.globCheck (memEa d a off s l) (d.w.bits / 8) false = none ∧
        ∀ x ∈ splitAt128 (memEa d a off s l) (d.w.bits / 8), ∃ w, s.window s.iasid x.1 = some w ∧ 2 < w.xf ∧
          ∀ y ∈ (Calc.mxview w.src w.aux w.ep (x.1 - w.wbase) x.2.1).ranges, s.hitOpen false y.1 = true)
      (fun s l x y as =>
        if s.guardHolds l g then
          ∃ p, y = x.addPend { id := p, slices := x.locate s.gs d d.w.slices, vals := [], known := false } ∧
            as.map Acc.what = (splitAt128 (memEa d a off s l) (d.w.bits / 8)).map fun (c, k, q) =>
              let w := (s.window s.iasid c).getD default
              (.glob, s.iasid, c, k, .calc (.mxview w.src w.aux w.ep (c - w.wbase) k), some p, q, d.w.bits / 8)
        else y = x ∧ as = []) ∧
    ∀ s : State, s.canRun (.stg g d a hint off) = true →
      (∀ l ∈ s.issue.lanes, s.guardHolds l g = true → s.globCheck (memEa d a off s l) (d.w.bits / 8) true = none ∧
        ∀ x ∈ splitAt128 (memEa d a off s l) (d.w.bits / 8), ∃ w, s.window s.iasid x.1 = some w ∧ 1 < w.xf) →
      runsTo (.stg g d a hint off) s fun t => t = (s.faultLanes (s.issue.lanes.filter fun l => s.guardHolds l g)
        fun l => (0x08, permInfo 4 (memEa d a off s l))).finish

end Sys2Proof

/-- Loads and stores of scratchpads, cluster memory and global memory, through views too, issue their accesses (R210, R211, R216,
R227–R233). The model's choices in it: log entries 19 and 52 (the address that the fault of a split access names). -/
def Obligations.MemoryWordsIssue : Prop := localAccessesIssue ∧ globalAccessesIssue ∧ viewAccesses

namespace Sys2Proof

/-- The bytes of a tile element as a layout word places it (R230). -/
def tileAt (s : State) (lay : Operand) (t l0 l j : Nat) : Nat :=
  permAddr ((s.layout l0 lay).addr t l j) (s.layout l0 lay).mode

/-- What LDT and STT need to run: the whole group or half, its guard and its operands unmarked, the layout word good, and each
element in the core scratchpad with no range lock against it (R230, R234). -/
def tileRuns (s : State) (i : Instr) (d lay : Operand) (n t l0 : Nat) (store : Bool) : Prop :=
  i.wf = true ∧ s.begun = true ∧ s.whole = true ∧ (∀ l ∈ s.issue.lanes, s.lowestMark l i.markedGuard = none) ∧
    (s.issue.lanes.filter fun l => s.guardHolds l i.guard).head? = some l0 ∧
    s.lowestMark l0 ((s.lt l0).locate s.gs lay 24) = none ∧ (s.layout l0 lay).mode < 8 ∧ (s.layout l0 lay).mbz = 0 ∧
    ∀ l ∈ s.issue.lanes, s.guardHolds l i.guard = true →
      s.operandFault l i (lowUses i.uses l l0) = none ∧ s.tileFault (s.layout l0 lay) t n (d.w.bits / 8) l store = none

end Sys2Proof

/-- LDT and STT move n elements for each lane whose guard holds, at the addresses that the layout word gives; STT's stores come
before later accesses of every thread of the issue set (R230, R234). -/
def Obligations.TileWordsIssue : Prop :=
  ∀ (g : Guard) (d lay : Operand) (n1 : BitVec 6) (tm : BitVec 8), let n := n1.toNat + 1; let b := d.w.bits / 8
    (∀ (s : State) (l0 : Nat), tileRuns s (.ldt g d lay n1 tm) d lay n tm.toNat l0 false →
      runsTo (.ldt g d lay n1 tm) s fun t => IssuesDo s t fun l x y as =>
        if s.guardHolds l g then
          ∃ ids : List Nat, ids.length = n ∧
            y = { x with pend := x.pend ++ (List.range n).map fun j =>
              ({ id := ids.getD j 0, slices := ((x.locate s.gs d (n * d.w.slices)).drop (j * d.w.slices)).take d.w.slices,
                 vals := [], known := false } : Pend) } ∧
            as.map Acc.what = (List.range n).flatMap fun j =>
              (splitAt128 (tileAt s lay tm.toNat l0 l j) b).map fun (c, k, q) =>
                (.core, s.ig.team, c, k, .load, some (ids.getD j 0), q, b)
        else y = x ∧ as = []) ∧
    ∀ (s : State) (l0 : Nat), tileRuns s (.stt g d lay n1 tm) d lay n tm.toNat l0 true →
      runsTo (.stt g d lay n1 tm) s fun t => IssuesDo s t fun l x y as =>
        y = x ∧ (∀ c ∈ as, c.lanes = laneSet s.issue.lanes) ∧
        as.map Acc.what = if s.guardHolds l g then (List.range n).flatMap fun j =>
            let v := (sliceWord ((((x.locate s.gs d (n * d.w.slices)).drop (j * d.w.slices)).take d.w.slices).map x.slice)).toNat
            (splitAt128 (tileAt s lay tm.toNat l0 l j) b).map fun (c, k, q) =>
              (.core, s.ig.team, c, k, .store (((natLe b v).drop q).take k) false, none, 0, 0)
          else []

namespace Sys2Proof

/-- Where a chunk of SPILL or FILL lies, and the thread after it: the word runs again until its last chunk (R83, R95). -/
def afterChunk (s : State) (x : Thread) (n : BitVec 14) (stp : Word) : Thread :=
  let last := x.spr.toNat + 1 = (n.toNat + 63) / 64
  { x with stp, spr := if last then 0 else BitVec.ofNat 4 (x.spr.toNat + 1), pc := if last then x.pc else s.issue.pc }

end Sys2Proof

/-- SPILL stores its next chunk at STP and moves STP up; FILL moves STP down and loads the chunk there; without room in the stash
each takes a stash fault with its chunk number (R82, R83, R95). The model's choices in it: log entry 54 (a SPR at or above the number of
chunks, and a guard that changes between chunks). -/
def Obligations.StashWordsMoveChunks : Prop :=
  ∀ (g : Guard) (d : Operand) (n : BitVec 14),
    issuesAccesses (.spill g d n)
      (fun s l => let a := (s.lt l).stp.toNat
        a + 32 ≤ (s.lt l).stl.toNat ∧ s.globCheck a 32 true = none ∧ s.hitOpen true a = true)
      (fun s l x y as =>
        if s.guardHolds l g then
          let vs := (s.chunk l d n.toNat x.spr.toNat).map x.slice
          y = afterChunk s x n (x.stp + 32) ∧
            as.map Acc.what = (splitAt128 x.stp.toNat 32).map fun (c, k, q) =>
              (.glob, s.iasid, c, k, .store (((chunkBytes vs).drop q).take k) (vs.any (·.poison)), none, 0, 0)
        else y = x ∧ as = []) ∧
    issuesAccesses (.fill g d n)
      (fun s l => let a := (s.lt l).stp.toNat
        (s.lt l).stb.toNat + 32 ≤ a ∧ s.globCheck (a - 32) 32 false = none ∧ s.hitOpen false (a - 32) = true)
      (fun s l x y as =>
        if s.guardHolds l g then
          ∃ p, y = afterChunk s (x.addPend { id := p, slices := s.chunk l d n.toNat ((n.toNat + 63) / 64 - 1 - x.spr.toNat),
                                             vals := [], known := false }) n (x.stp - 32) ∧
            as.map Acc.what = (splitAt128 (x.stp.toNat - 32) 32).map fun (c, k, q) =>
              (.glob, s.iasid, c, k, .load, some p, q, 32)
        else y = x ∧ as = []) ∧
    (∀ s : State, s.canRun (.spill g d n) = true →
      (∀ l ∈ s.issue.lanes, s.guardHolds l g = true → (s.lt l).stl.toNat < (s.lt l).stp.toNat + 32) →
      runsTo (.spill g d n) s fun t => t = (s.faultLanes (s.issue.lanes.filter fun l => s.guardHolds l g)
        fun l => (0x06, BitVec.ofNat 64 (s.lt l).spr.toNat)).finish) ∧
    ∀ s : State, s.canRun (.fill g d n) = true →
      (∀ l ∈ s.issue.lanes, s.guardHolds l g = true → (s.lt l).stp.toNat < (s.lt l).stb.toNat + 32) →
      runsTo (.fill g d n) s fun t => t = (s.faultLanes (s.issue.lanes.filter fun l => s.guardHolds l g)
        fun l => (0x06, BitVec.ofNat 64 (16 + (s.lt l).spr.toNat))).finish

/-! ## Caches -/

namespace Sys2Proof

/-- The bytes whose lines a form-M invalidation names (R50, R237, R466). -/
def invBytes (len a : Operand) (off : BitVec 12) (s : State) (l : Nat) : Nat × Nat := (s.ea l a off.toInt 1, (s.opRaw l len).toNat)

end Sys2Proof

/-- XINV ends the issuing core's instruction lines of its ASID that overlap a range of an executing lane, XINV.ALL all of them,
once each lane's stores and loads have been performed; L1INV and L1INV.ALL change no memory and no register (R237, R466). The
model's choices in it: log entries 18 (the versions that a dropped line hides), 19 and 53 (the L1 lines held). -/
def Obligations.CacheInvalidations : Prop :=
  ∀ (g : Guard) (len a : Operand) (off : BitVec 12),
    (∀ s : State, s.canRun (.xinv g len a off) = true →
      (∀ l ∈ s.issue.lanes, s.guardHolds l g = true → s.fenceOk (s.ig.t0 + l) 1 = true ∧
        s.inSpace .glob (invBytes len a off s l).1 (invBytes len a off s l).2 = true ∧
        s.windowHit s.iasid (invBytes len a off s l).1 (invBytes len a off s l).2 = none) →
      runsTo (.xinv g len a off) s fun t =>
        t = { s with icache := t.icache } ∧ ∀ n, n ∈ t.icache ↔ n ∈ s.icache ∧
          ¬(n.core = s.icore ∧ n.asid = s.iasid ∧ ∃ l ∈ s.issue.lanes, s.guardHolds l g = true ∧
            0 < (invBytes len a off s l).2 ∧
            overlap (invBytes len a off s l).1 (invBytes len a off s l).2 (128 * n.line) 128 = true)) ∧
    (∀ s : State, s.canRun (.xinvAll g) = true →
      (∀ l ∈ s.issue.lanes, s.guardHolds l g = true → s.fenceOk (s.ig.t0 + l) 1 = true) →
      runsTo (.xinvAll g) s fun t =>
        t = { s with icache := t.icache } ∧ ∀ n, n ∈ t.icache ↔ n ∈ s.icache ∧
          ¬(n.core = s.icore ∧ n.asid = s.iasid ∧ ∃ l ∈ s.issue.lanes, s.guardHolds l g = true)) ∧
    ∀ i ∈ [Instr.l1inv g len a off, .l1invAll g], ∀ s : State, s.canRun i = true → runsTo i s fun t =>
      t = { s with recs := t.recs, l1 := t.l1 } ∧ t.recs.length = s.recs.length ∧
      (∀ n, n.la % 128 = 0 → (n ∈ t.l1 ↔ n ∈ s.l1 ∧ ¬(n.core = s.icore ∧ n.asid = s.iasid ∧ ∃ l ∈ s.issue.lanes, s.guardHolds l g = true ∧
        (i = .l1invAll g ∨ (0 < (invBytes len a off s l).2 ∧
          overlap (invBytes len a off s l).1 (invBytes len a off s l).2 n.la 128 = true))))) ∧
      ∀ (k : Nat) (r : AccRec), s.recs[k]? = some r → ∃ c : List Nat, t.recs[k]? = some { r with cut := c } ∧
        (∀ x, x ∈ r.cut → x ∈ c) ∧ (∀ x ∈ c, x ∈ r.cut ∨ x = s.icore) ∧
        (i = .l1invAll g → kvBase ≤ r.pa → s.actors i ≠ 0 → s.icore ∈ c)

/-! ## Accesses reach their point of performance -/

namespace Sys2Proof

/-- A load of scratchpad or cluster memory that brings a whole value lands its bytes in its slices, marked where a unit of them is
poisoned, and changes nothing else (R70, R143, R145, R238). -/
def localLoadsDeliver : Prop :=
  ∀ (s : State) (id p : Nat) (a : Acc) (w : Pend), s.isDue id a → a.op = .load → a.space ≠ .glob → s.brings a p w →
    runsTo (.loadDataReturn id) s fun t =>
      let m := s.mem a.space a.owner
      t = { s with threads := t.threads, pzMet := t.pzMet, tick := t.tick, accs := s.accs.filter fun x => !(x.thread == a.thread && x.pend == some p) } ∧
      (m.pzIn a.addr a.len = false → t.pzMet = s.pzMet) ∧
      t.thread a.thread = { s.landed a p w (m.pzIn a.addr a.len) (m.read a.addr a.len) with
        age := if s.awaited a = true ∧ a.space ≠ .core then 0 else (s.thread a.thread).age } ∧
      ∀ n, n ≠ a.thread → t.thread n = s.thread n

/-- A load of global memory that brings a whole value, of bytes that no access of the open phases touches, lands the bytes at the
place that its translation names (R69, R213, R238, R241). -/
def globalLoadsDeliver : Prop :=
  ∀ (s : State) (id p pa : Nat) (wr : Bool) (a : Acc) (w : Pend), s.isDue id a → a.op = .load → s.brings a p w →
    s.quiet a pa true wr → s.hbm.pzIn pa a.len = false →
    runsTo (.loadDataReturn id) s fun t =>
      Performed s t a ∧ sameMemories s t ∧
      t.accs = (s.accs.filter fun x => !(x.thread == a.thread && x.pend == some p)) ∧
      (s.awaited a = false → t.thread a.thread = s.landed a p w false (s.hbm.read pa a.len)) ∧
      t.thread a.thread = { s.landed a p w false (s.hbm.read pa a.len) with age := (t.thread a.thread).age }

end Sys2Proof

/-- A performed load lands its bytes in its slices (R69, R70, R143, R145, R213, R238, R241). -/
def Obligations.LoadsDeliver : Prop := localLoadsDeliver ∧ globalLoadsDeliver

/-- A store puts its bytes at its place and changes no other byte of any memory (R143, R238, R241); a thread's store to TAIL, or to a slot
between HEAD and TAIL, of a ring that messages have come into leaves the ring's contents open (R352). The model's choices in it: log entry
25. -/
def Obligations.StoresPutTheirBytes : Prop :=
  ∀ (s : State) (id : Nat) (a : Acc) (bs : List Byte) (bad : Bool), s.isDue id a → a.op = .store bs bad → s.memsWf = true →
    (a.space ≠ .glob → s.owns a.space a.owner →
      runsTo (.storePerformed id) s fun t =>
        Performed s t a ∧ t.threads = s.threads ∧ t.recs = s.recs ∧ t.accs = (s.accs.filter fun x => x.id != id) ∧
        (s.hitRings a = [] → storesBytes s t a.space a.owner a.addr bs bad) ∧
        ∀ sp o x, ¬ (sp = .core ∧ o = a.owner ∧ ∃ h ∈ s.hitRings a, h.2.holds h.1 x) →
          memGet (t.mem sp o).bytes x =
            if sameSpace a.space sp a.owner o ∧ a.addr ≤ x ∧ x < a.addr + bs.length then bs.getD (x - a.addr) 0
            else memGet (s.mem sp o).bytes x) ∧
    ∀ (pa : Nat) (rd : Bool), a.len = bs.length → s.quiet a pa rd true →
      runsTo (.storePerformed id) s fun t =>
        Performed s t a ∧ t.threads = s.threads ∧ t.accs = (s.accs.filter fun x => x.id != id) ∧
        storesBytes s t .glob 0 pa bs bad

/-- A write that was pending lands when its latency has passed: each of its slices that no younger write names holds its value
from then on, in program order too, and no other slice changes (R69, R70). -/
def Obligations.PendingWritesLand : Prop :=
  ∀ (s : State) (n id : Nat) (older younger : List Pend) (w : Pend), n < s.threads.length → w.id = id → w.known = true →
    (s.thread n).pend = older ++ w :: younger → (∀ x ∈ older, x.id ≠ id) → (w.slices.filter (· != 960)).Nodup →
    (∀ p ∈ w.slices, p ≤ 960) → (s.thread n).slices.length = 960 → w.vals.length = w.slices.length →
    runsTo (.sliceWriteComplete n id) s fun t =>
      t = { s with threads := t.threads } ∧ (∀ k, k ≠ n → t.thread k = s.thread k) ∧
      t.thread n = { s.thread n with pend := (t.thread n).pend, slices := (t.thread n).slices } ∧
      (∀ k p, w.slices[k]? = some p → p ≠ 960 → (∀ y ∈ younger, p ∉ y.slices) →
        (t.thread n).fileSlice p = w.vals.getD k default ∧ (t.thread n).slice p = w.vals.getD k default ∧
          (t.thread n).pending p = false) ∧
      (∀ p, p ∉ w.slices → p ≠ 960 → (t.thread n).fileSlice p = (s.thread n).fileSlice p ∧ (t.thread n).slice p = (s.thread n).slice p) ∧
      ∀ p ∈ w.slices, (∃ y ∈ younger, p ∈ y.slices) → (t.thread n).fileSlice p = (s.thread n).fileSlice p

namespace Sys2Proof

/-- A line that a thread waits for comes into its core's instruction cache with the bytes at the place that its translation names and
with that place's execute permission (R217). -/
def instructionLinesFill : Prop :=
  ∀ (s : State) (core asid line pa : Nat) (r w x : Bool), s.lineWaiters core asid line ≠ [] →
    (∀ q ∈ s.ireqs, ¬(q.core = core ∧ q.asid = asid ∧ q.line = line)) →
    (s.xlate asid (128 * line)).1 = .ok pa r w x → (s.xlate asid (128 * line)).2.aliased pa = false →
    (∀ c ∈ s.recs, overlap c.pa c.len pa 128 = false) →
    runsTo (.icacheFill core asid line) s fun t =>
      t = { s with icache := t.icache, lines := t.lines, ptes := t.ptes, maps := t.maps, tick := t.tick } ∧
      t.icache.head? = some { core, asid, line, x, bytes := s.hbm.read pa 128 } ∧
      (∀ n ∈ t.icache.tail, n ∈ s.icache ∧ ¬(n.core = core ∧ n.asid = asid ∧ n.line = line)) ∧
      (t.icache.filter fun n => n.core == core && n.line % 128 == line % 128).length ≤ 4 ∧
      ∀ n ∈ s.icache, ¬(n.core = core ∧ n.line % 128 = line % 128) → n ∈ t.icache

/-- A request that a full fault buffer refused is made again: an access as its own event makes it, an engine operation, an arrival or
a queued request by going on (R222). -/
def refusedRequestsRetry : Prop :=
  ∀ (s : State) (id : Nat),
    (∀ a, s.accs.find? (fun x => x.id == id) = some a → a.st = .refused →
      let s' := s.onAcc id fun a => { a with st := .ready }
      let i : Instr := if a.op.isLoad then .loadDataReturn id else if a.op.isStore then .storePerformed id else .strongAccessPerformed id
      runsTo (.faultBufferRetry id) s fun t => exec i s' = .next t) ∧
    ((∀ a ∈ s.accs, a.id ≠ id) →
      (∀ o, s.opOf id = some o → o.st = .refused →
        runsTo (.faultBufferRetry id) s fun t => t = s.onOp id fun o => { o with st := .run }) ∧
      (s.opOf id = none → ∀ a, s.arrOf id = some a → a.st = .refused →
        runsTo (.faultBufferRetry id) s fun t => t = s.onArr id fun a => { a with st := .landing }) ∧
      (s.opOf id = none → s.arrOf id = none → (∃ r ∈ s.reqs, r.id = id ∧ r.refused = true) →
        runsTo (.faultBufferRetry id) s fun t =>
          t = { s with reqs := s.reqs.map fun (r : SeqReq) => if r.id = id then { r with refused := false } else r }))

end Sys2Proof

/-- Instruction lines fill, and refused requests are made again (R217, R222). -/
def Obligations.LineFillsAndRetries : Prop := instructionLinesFill ∧ refusedRequestsRetry

/-! ## Class K: strong accesses, deques and tasks -/

namespace Sys2Proof

/-- A lane of a strong word that issues one access, with or without slices for the value found, and waits for it or not. -/
def strongLaneDo (i : Instr) (sp : Space) (addr : State → Nat → Nat) (n : Nat) (op : State → Nat → AccOp) (d : Option Operand)
    (waits : Bool) (s : State) (l : Nat) (a b : Thread) (as : List Acc) : Prop :=
  if s.guardHolds l i.guard then
    ∃ x p, as = [x] ∧ x.what = (sp, s.spaceOwner sp, s.memAddr sp (addr s l), n, op s l, (if d.isSome then some p else none), 0, n) ∧
      let c := match d with
        | some d => a.addPend { id := p, slices := a.locate s.gs d d.w.slices, vals := [], known := false }
        | none => a
      b = if waits then s.waiting c (.strong x.id) else c
  else b = a ∧ as = []

end Sys2Proof

/-- ATOM, CAS, ATOMF and WAITV issue one strong access each of D's width, TJOIN and TEND one of 8 bytes to their counter, in the
space that X selects; WAITV and TJOIN then wait; a misaligned address takes an alignment fault (R319, R324–R327, R335, R336). -/
def Obligations.StrongWordsIssue : Prop :=
  ∀ (g : Guard) (d a b : Operand) (op : AtomOp) (fop : AtomFOp) (c : WCond) (nr : Bool) (off : BitVec 8),
    let n := d.w.bits / 8
    let sp := strongSpace a
    let at_ : Int → State → Nat → Nat := fun k s l => s.ea l a k n
    let ret := if nr then none else some d
    let words : List (Instr × Int × (State → Nat → AccOp) × Option Operand × Bool) :=
      [(.atom g d a op nr off, off.toInt, fun s l => .atom op (s.src l d d.w.bits), ret, false),
       (.cas g d a b, 0, fun s l => .cas (s.src l d d.w.bits) (s.src l b d.w.bits), some d, false),
       (.atomf g d a fop nr off, off.toInt, fun s l => .atomf fop (s.src l d 32), ret, false),
       (.waitv g d a c off, off.toInt, fun s l => .waitv c (s.src l d d.w.bits), some d, true)]
    (∀ x ∈ words, issuesAccesses x.1 (fun s l => s.strongOpen sp (at_ x.2.1 s l) n (x.2.2.1 s l))
      (strongLaneDo x.1 sp (at_ x.2.1) n x.2.2.1 x.2.2.2.1 x.2.2.2.2)) ∧
    (∀ x ∈ words, ∀ s : State, s.canRun x.1 = true →
      (∀ l ∈ s.issue.lanes, s.guardHolds l g = true → at_ x.2.1 s l % n ≠ 0) →
      runsTo x.1 s fun t => t = (s.faultLanes (s.issue.lanes.filter fun l => s.guardHolds l g)
        fun l => (0x07, permInfo sp.code (at_ x.2.1 s l))).finish) ∧
    issuesAccesses (.tjoin g a) (fun s l => s.strongOpen .glob (s.src l a 64).toNat 8 (.waitv .eq 0))
      (strongLaneDo (.tjoin g a) .glob (fun s l => (s.src l a 64).toNat) 8 (fun _ _ => .waitv .eq 0) none true) ∧
    issuesAccesses (.tend g a) (fun s l => s.fenceOk (s.ig.t0 + l) 7 = true ∧
        s.strongOpen .glob (s.src l a 64).toNat 8 (.atom .add (BitVec.allOnes 64)))
      (strongLaneDo (.tend g a) .glob (fun s l => (s.src l a 64).toNat) 8 (fun _ _ => .atom .add (BitVec.allOnes 64)) none false)

/-- A strong access is performed at once at its place: STRONG_ACCESS_PERFORMED for one that may go, WAITV_REREAD for one that found no
free watch; and the values that ATOM and CAS write are those of Table 13.3 (R320, R324, R325, R327). -/
def Obligations.StrongAccessesPerform : Prop :=
  (∀ (s : State) (id pa : Nat) (a : Acc), s.isDue id a → a.op.isStrong = true → s.memsWf = true → s.strongQuiet a pa →
    (∀ x ∈ s.accs, x.st ≠ .watch) → (∀ g ∈ s.grids, g.ended = true ∨ g.ready = true ∨ g.deps = [] ∨ g.lr.asid.toNat ≠ a.owner) →
    runsTo (.strongAccessPerformed id) s fun t => StrongDo s t a pa) ∧
  (∀ (s : State) (pa : Nat) (a : Acc) (c : WCond) (v : Word), a ∈ s.accs → s.accs.Nodup → (∀ x ∈ s.accs, x.id = a.id → x = a) →
    a.thread < s.threads.length → a.op = .waitv c v → s.memsWf = true → s.strongQuiet a pa → a.st = .watch → a.parked = false →
    s.unwatched a = true → (∀ x ∈ s.accs, x.thread = a.thread → x.st = .watch → x = a) →
    runsTo (.waitvReread a.thread) s fun t => StrongDo s t a pa) ∧
  ∀ (n : Nat) (x y c : BitVec n), 0 < n → n ≤ 64 →
    let new := fun op => AccOp.newVal (.atom op (y.setWidth 64)) n x.toNat
    new .add = some (x + y).toNat ∧ new .and = some (x &&& y).toNat ∧ new .or = some (x ||| y).toNat ∧
    new .xor = some (x ^^^ y).toNat ∧ new .min = some (if x.sle y then x else y).toNat ∧
    new .max = some (if x.sle y then y else x).toNat ∧ new .minu = some (if x ≤ y then x else y).toNat ∧
    new .maxu = some (if x ≤ y then y else x).toNat ∧ new .xchg = some y.toNat ∧ new .st = some y.toNat ∧
    new .incw = some (if y ≤ x then 0 else x + 1).toNat ∧ new .decw = some (if x = 0 ∨ y < x then y else x - 1).toNat ∧
    new .ld = none ∧
    AccOp.newVal (.cas (c.setWidth 64) (y.setWidth 64)) n x.toNat = if x = c then some y.toNat else none

namespace Sys2Proof

/-- The lanes that execute, in order. -/
def exec1 (s : State) (g : Guard) : List Nat := s.issue.lanes.filter fun l => s.guardHolds l g

/-- A lane of a word that takes a deque entry: D's 48 slices get its words and the predicate bit becomes 1, or only the bit is
cleared (R331, R332). -/
def takesEntry (s : State) (d : Operand) (q : PredBit) (e : Option DqEntry) (a b : Thread) : Prop :=
  let qs := q.slice.toNat
  match e with
  | none => a.Wrote b a [qs] [{ v := predBitSet (a.slice qs).v q .set false, poison := false }]
  | some e =>
    let ps := a.locate s.gs d 48
    b = { a with pend := b.pend } ∧ (∀ p, p ∉ ps → p ≠ qs → b.slice p = a.slice p) ∧
    (∀ (k p : Nat), ps[k]? = some p → p ≠ qs →
      b.slice p = (sliceVals 16 e.w0 ++ sliceVals 16 e.w1 ++ sliceVals 16 e.w2).getD k default) ∧
    b.slice qs = { v := predBitSet (a.slice qs).v q .set true, poison := false }

/-- A word whose lanes take deque entries in order: lane by lane the next one of a list, which the deques then lack. -/
def takesEntries (i : Instr) (d : Operand) (q : PredBit) (avail : State → List DqEntry) : Prop :=
  ∀ s : State, s.canRun i = true → runsTo i s fun t =>
    t = { s with threads := t.threads, deques := t.deques, nextId := t.nextId } ∧
    t.deques.Sublist s.deques ∧ ((avail s).take (exec1 s i.guard).length ++ t.deques).Perm s.deques ∧
    (∀ (k l : Nat), (exec1 s i.guard)[k]? = some l → takesEntry s d q ((avail s)[k]?) (s.lt l) (t.lt l)) ∧
    ∀ n, (∀ l ∈ exec1 s i.guard, n ≠ s.ig.t0 + l) → t.thread n = s.thread n

end Sys2Proof

/-- DQPUSH and FORK append an entry of their grid for each lane to the core's deque, FORK with an increment of its counter that
comes before the entry can be taken; a full deque faults; DQPOP takes its core's youngest entries, DQSTEAL the neighbours' oldest,
in R332's order; a word that waits as a FENCE leaves its threads at their chain (R328–R334, R262). The model's choices in it: log
entry 25. -/
def Obligations.DequeWords : Prop :=
  ∀ (g : Guard) (d w0 w1 w2 : Operand) (q : PredBit),
    (∀ s : State, s.canRun (.dqpush g w0 w1 w2) = true → (∀ l ∈ exec1 s g, s.fenceOk (s.ig.t0 + l) 5 = true) →
      (s.dqCount s.icore + (exec1 s g).length ≤ 512 → runsTo (.dqpush g w0 w1 w2) s fun t =>
        t = { s with deques := s.deques ++ (exec1 s g).map fun l =>
          ({ core := s.icore, grid := s.gridOfGroup s.issue.grp, w0 := s.src l w0 64, w1 := s.src l w1 64,
             w2 := s.src l w2 64, need := none } : DqEntry) }) ∧
      (512 ≤ s.dqCount s.icore → runsTo (.dqpush g w0 w1 w2) s fun t =>
        t = (s.faultLanes (exec1 s g) fun _ => (0x19, 512)).finish)) ∧
    (∀ s : State, s.canRun (.fork g w0 w1 w2) = true → s.dqCount s.icore + (exec1 s g).length ≤ 512 →
      (∀ l ∈ exec1 s g, s.fenceOk (s.ig.t0 + l) 5 = true ∧ s.strongOpen .glob (s.src l w0 64).toNat 8 (.atom .add 1)) →
      runsTo (.fork g w0 w1 w2) s fun t =>
        t = { s with deques := t.deques, accs := t.accs, nextId := t.nextId } ∧
        t.deques = s.deques ++ ((exec1 s g).zipIdx.map fun (l, k) =>
          ({ core := s.icore, grid := s.gridOfGroup s.issue.grp, w0 := s.src l w1 64, w1 := s.src l w2 64,
             w2 := s.src l w0 64, need := some (s.issue.iss, s.nextId + k) } : DqEntry)) ∧
        ∃ new, t.accs = s.accs ++ new ∧ (∀ x ∈ new, x.issued s) ∧
          new.map (fun x => (x.id, x.thread, x.what)) = (exec1 s g).zipIdx.map fun (l, k) =>
            (s.nextId + k, s.ig.t0 + l, .glob, s.iasid, (s.src l w0 64).toNat, 8, .atom .add 1, none, 0, 8)) ∧
    takesEntries (.dqpop g d q) d q (fun s => (s.deques.filter (takeable s.icore (s.gridOfGroup s.issue.grp))).reverse) ∧
    takesEntries (.dqsteal g d q) d q (fun s =>
      (neighbours s.icore).flatMap fun c => s.deques.filter (takeable c (s.gridOfGroup s.issue.grp))) ∧
    ∀ (len : Operand) (off : BitVec 12) (svc : BitVec 8), ∀ x ∈ [(Instr.dqpush g w0 w1 w2, (5 : BitVec 3)), (.fork g w0 w1 w2, 5),
        (.tend g w0, 7), (.xinv g len w0 off, 1), (.xinvAll g, 1), (.hcall g d w0 svc, 7)],
      ∀ s : State, s.canRun x.1 = true → s.issue.collect = false → (∃ l ∈ exec1 s g, s.fenceOk (s.ig.t0 + l) x.2 = false) →
        runsTo x.1 s fun t => t = { s with threads := t.threads } ∧
          (∀ l ∈ s.issue.lanes, t.lt l = { s.lt l with pc := s.issue.pc }) ∧
          ∀ n, (∀ l ∈ s.issue.lanes, n ≠ s.ig.t0 + l) → t.thread n = s.thread n

/-! ## Class H: fences, barriers and phases -/

namespace Sys2Proof

/-- A word that changes each lane's thread as `f` says, in every state in which no lane faults on its operands. -/
def lanesWait (i : Instr) (f : State → Nat → Thread → Thread) : Prop :=
  ∀ s : State, s.canRun i = true → runsTo i s fun t =>
    t = { s with threads := t.threads } ∧ (∀ l ∈ s.issue.lanes, t.lt l = f s l (s.lt l)) ∧
      ∀ n, (∀ l ∈ s.issue.lanes, n ≠ s.ig.t0 + l) → t.thread n = s.thread n

end Sys2Proof

/-- FENCE waits where an access of the thread in a covered space is not performed; BART, BART.N and BARC wait at their barrier, the
first two with an index below the launch's count; PHASEA opens a gap, PHASEW ends it at its boundary, PHASE does both, and each that
would open a second gap waits (R262–R264). -/
def Obligations.OrderingWordsWait : Prop :=
  (∀ sc, lanesWait (.fence sc) fun s l th => if s.fenceOk (s.ig.t0 + l) sc then th else s.waiting th (.fence sc)) ∧
  (∀ (n : BitVec 4) (s : State), s.canRun (.bart n) = true →
    if n.toNat < max s.ir.nbar.toNat 1 then
      runsTo (.bart n) s fun t => t = { s with threads := t.threads } ∧
        (∀ l ∈ s.issue.lanes, t.lt l = s.waiting (s.lt l) (.barrier false n.toNat none false)) ∧
        ∀ k, (∀ l ∈ s.issue.lanes, k ≠ s.ig.t0 + l) → t.thread k = s.thread k
    else runsTo (.bart n) s fun t => t = (s.faultLanes s.issue.lanes fun _ => (0x02, 0)).finish) ∧
  (∀ (n : BitVec 4) (a : Operand) (s : State), s.canRun (.bartN n a) = true → s.issue.lanes ≠ [] →
    let c := (s.src s.low a a.w.bits).toNat
    if n.toNat < max s.ir.nbar.toNat 1 ∧ 0 < c ∧ c ≤ s.teamSize then
      runsTo (.bartN n a) s fun t => t = { s with threads := t.threads } ∧
        (∀ l ∈ s.issue.lanes, t.lt l = s.waiting (s.lt l) (.barrier false n.toNat (some c) false)) ∧
        ∀ k, (∀ l ∈ s.issue.lanes, k ≠ s.ig.t0 + l) → t.thread k = s.thread k
    else runsTo (.bartN n a) s fun t => t = (s.faultLanes s.issue.lanes fun _ => (0x02, 0)).finish) ∧
  (∀ n, lanesWait (.barc n) fun s _ th => s.waiting th (.barrier true n.toNat none false)) ∧
  lanesWait .phasea (fun s _ th =>
    if th.passed < th.arrived then s.waiting th (.phase true false) else { th with arrived := th.arrived + 1 }) ∧
  lanesWait .phasew (fun s _ th =>
    s.waiting (if th.passed < th.arrived then th else { th with arrived := th.arrived + 1 }) (.phase false false)) ∧
  lanesWait .phase fun s _ th =>
    if th.passed < th.arrived then s.waiting th (.phase true true)
    else s.waiting { th with arrived := th.arrived + 1 } (.phase false false)

namespace Sys2Proof

/-- An episode that is complete releases its threads, the first c arrivals in count mode and every arrival otherwise, and the arrivals
left over begin the next episode; every other barrier and thread stays as it is (R244, R264). -/
def barrierEpisodesComplete : Prop :=
  ∀ (s : State) (cluster : Bool) (owner n k : Nat),
    let b := s.bar cluster owner n
    (if cluster then owner < s.clusters.length ∧ n < (s.cluster owner).bars.length
      else owner < s.teams.length ∧ n < (s.team owner).bars.length) →
    (s.cluster (if cluster then owner else (s.team owner).cluster)).out = false → b.started = true →
    (∀ t ∈ b.arrived, t < s.threads.length) → b.arrived ≠ [] →
    (b.count = some k ∧ k ≤ b.arrived.length ∨ b.count = none ∧ k = b.arrived.length ∧
      ∀ t ∈ (if cluster then s.clusterThreads owner else s.teamThreads owner), (s.thread t).exited = true ∨ t ∈ b.arrived) →
    runsTo (.barrierEpisodeComplete cluster owner n) s fun t =>
      t = { s with threads := t.threads, teams := t.teams, clusters := t.clusters } ∧
      (∀ x ∈ b.arrived.take k, t.thread x = s.released (s.thread x)) ∧
      (∀ x, x ∉ b.arrived.take k → t.thread x = s.thread x) ∧
      (t.bar cluster owner n).arrived = b.arrived.drop k ∧
      ((t.bar cluster owner n).started = true ↔ b.arrived.drop k ≠ []) ∧
      (∀ x r, b.arrived.drop k = x :: r → (t.bar cluster owner n).count = (s.thread x).wait.count) ∧
      ∀ c o m, (c, o, m) ≠ (cluster, owner, n) → t.bar c o m = s.bar c o m

/-- A team that meets R247's conditions arrives at its boundary; when every team of a grid has arrived, the grid's phase ends: its
number rises, ORDDBG comes into force, its records close, and only bytes that the phase raced may change (R246–R248, R258). -/
def phaseBoundaries : Prop :=
  (∀ (s : State) (m : Nat), m < s.teams.length → s.teamArrives m = true →
    runsTo (.teamPhaseArrival m) s fun t =>
      t = { s with teams := t.teams } ∧ t.team m = { s.team m with arrived := (s.team m).arrived + 1 } ∧
      ∀ k, k ≠ m → t.team k = s.team k) ∧
  ∀ (s : State) (g : Nat), g < s.grids.length → s.boundaryReady g = true → s.memsWf = true → (∀ x ∈ s.accs, x.st ≠ .watch) →
    (∀ x ∈ s.grids, x.ended = true ∨ x.ready = true ∨ x.deps = [] ∨ x.lr.asid ≠ (s.grid g).lr.asid) →
    runsTo (.phaseBoundaryComplete g) s fun t =>
      let v := s.areg (s.grid g).lr.asid.toNat 0x301
      t = { s with hbm := t.hbm, recs := t.recs, l1 := t.l1, grids := t.grids, tick := t.tick } ∧
      t.grid g = { s.grid g with phase := (s.grid g).phase + 1, race := v.getLsbD 0, mix := v.getLsbD 1 } ∧
      (∀ k, k ≠ g → t.grid k = s.grid k) ∧ (∀ r ∈ t.recs, g ∉ r.opens) ∧
      ∀ x, racedAmong (s.openRecs (some g)) x = false → memGet t.hbm.bytes x = memGet s.hbm.bytes x

end Sys2Proof

/-- Barrier episodes, phase arrivals and boundaries (R244, R246, R247, R264). -/
def Obligations.BarriersAndPhases : Prop := barrierEpisodesComplete ∧ phaseBoundaries

/-! ## Class I: planes -/

namespace Sys2Proof

/-- What a word with a plane reference needs to run: the whole group or half, a plane slot, a record that reads as good, and an
element range aligned and within the tensor; s' is the state after the record has been read (R266, R271, R140). -/
def planeRuns (s : State) (i : Instr) (ref : Operand) (slot : BitVec 3) (n : BitVec 4) (dflt : Bool) (fs : FmtSlot) (m : Nat)
    (r : PlaneRec) (s' : State) : Prop :=
  i.wf = true ∧ s.begun = true ∧ s.whole = true ∧ s.issue.lanes ≠ [] ∧
    (∀ l ∈ s.issue.lanes, s.operandFault l i i.uses = none) ∧ s.planeSlot slot n dflt = some (fs, m) ∧
    s.readRec s.issue.lanes s.low (s.wide32 s.low ref 3 % 2 ^ 64) = (.ok r, s') ∧
    s.wide32 s.low ref 3 / 2 ^ 64 % min s.ig.w 32 = 0 ∧ s.wide32 s.low ref 3 / 2 ^ 64 + s.ig.w ≤ 512 * r.stripes

/-- The first element that a plane reference names, of the lowest lane (R266). -/
def planeElem (s : State) (ref : Operand) : Nat := s.wide32 s.low ref 3 / 2 ^ 64

/-- The value and the tag that a lane's nine slices of PRFN hold (R273). -/
def refineVal (s : State) (d : Operand) (a : Thread) : W32 := (sliceWord (((a.locate s.gs d 9).map a.slice).take 8)).setWidth 32
def refineTag (s : State) (d : Operand) (a : Thread) : Nat := ((((a.locate s.gs d 9).map a.slice).getD 8 default).v).toNat

/-- A lane's value of PST, a lane outside the issue set giving zero; and the block's stores (R274, R136). -/
def pstRaw (s : State) (v : Operand) (l : Nat) : Fp := if l ∈ s.issue.lanes then fpIn false ((s.src l v 32).setWidth 32) else .fin false 0 0
def pstVals (s : State) (v : Operand) : List Fp := (List.range 32).map fun k => planeInput (pstRaw s v (s.low / 32 * 32 + k))
def pstStores (s : State) (v ref : Operand) (m : Nat) (r : PlaneRec) : List (Nat × List Byte) :=
  planeStores r (planeElem s ref + s.low / 32 * 32) m (pstVals s v)

/-- A lane's read by the computation c passes its checks: no range lock is in its way, and no line that it hits is known to forbid it
(R225, R235). -/
def calcOpen (s : State) (c : Calc) : Prop :=
  s.lockRanges c.ranges false = none ∧ ∀ x ∈ s.calcReads s.iasid c, s.hitOpen false x.1 = true

/-- What PLD, PRFN and PST need besides: no range lock in the way, and no line known to forbid it; and of PST, a group of 32 lanes or more,
1 to P planes, and no page of the key-value range (R225, R235, R274, R362). -/
def pldRuns (s s' : State) (d ref : Operand) (slot : BitVec 3) (n : BitVec 4) (dflt : Bool) (out : POut) (fs : FmtSlot) (m : Nat)
    (r : PlaneRec) : Prop :=
  planeRuns s (.pld d ref slot n dflt out) ref slot n dflt fs m r s' ∧
    ∀ l ∈ s.issue.lanes, calcOpen s' (.plane r (planeElem s ref + l) m out fs.rnd fs.sat)
def prfnRuns (s s' : State) (d ref : Operand) (slot : BitVec 3) (n : BitVec 4) (dflt : Bool) (fs : FmtSlot) (m : Nat)
    (r : PlaneRec) : Prop :=
  planeRuns s (.prfn d ref slot n dflt) ref slot n dflt fs m r s' ∧
    ∀ l ∈ s.issue.lanes, calcOpen s' (.refine r (planeElem s ref + l) m (refineVal s d (s.lt l)) (refineTag s d (s.lt l)))
def pstRuns (s s' : State) (v ref : Operand) (slot : BitVec 3) (n : BitVec 4) (dflt : Bool) (fs : FmtSlot) (m : Nat)
    (r : PlaneRec) : Prop :=
  planeRuns s (.pst v ref slot n dflt) ref slot n dflt fs m r s' ∧ 32 ≤ s.ig.w ∧ 0 < m ∧ m ≤ r.p ∧
    s'.lockRanges ((pstStores s v ref m r).map fun x => (x.1, x.2.length)) true = none ∧
    ∀ x ∈ pstStores s v ref m r, kvPage x.1 = none ∧ s'.hitOpen true x.1 = true

/-- A lane's read of its element by the computation c, whose result D's slices now wait for (R272, R273). -/
def calcLane (s : State) (d : Operand) (k : Nat) (c : Calc) (a b : Thread) (as : List Acc) : Prop :=
  ∃ p, b = a.addPend { id := p, slices := a.locate s.gs d k, vals := [], known := false } ∧
    as.map Acc.what = [(.glob, s.iasid, (c.ranges.headD (0, 0)).1, 2, .calc c, some p, 0, 0)]

end Sys2Proof

/-- PLD and PRFN issue, for each lane, the load of its element to n planes, into D's slices and its tag slice; a lane of PRFN
whose tag is n or more loads nothing; what such a load lands is the held value in the output format and the tag n; PST stores the
block's exponent word, signs and planes from its lowest lane (R272–R274, R137, R136). The model's choices in it: log entries 18, 19 (the locks
checked) and 52 (the lines hit). -/
def Obligations.PlaneWordsLoadAndStore : Prop :=
  (∀ (d ref : Operand) (slot : BitVec 3) (n : BitVec 4) (dflt : Bool) (out : POut) (s s' : State) (fs : FmtSlot) (m : Nat)
      (r : PlaneRec), pldRuns s s' d ref slot n dflt out fs m r →
    runsTo (.pld d ref slot n dflt out) s fun t => ReadsOnly s s' ∧ IssuesDo s' t fun l a b as =>
      calcLane s d (d.w.slices + 1) (.plane r (planeElem s ref + l) m out fs.rnd fs.sat) a b as) ∧
  (∀ (d ref : Operand) (slot : BitVec 3) (n : BitVec 4) (dflt : Bool) (s s' : State) (fs : FmtSlot) (m : Nat) (r : PlaneRec),
    prfnRuns s s' d ref slot n dflt fs m r →
    runsTo (.prfn d ref slot n dflt) s fun t => ReadsOnly s s' ∧ IssuesDo s' t fun l a b as =>
      if m ≤ refineTag s d a then b = a ∧ as = []
      else calcLane s d 9 (.refine r (planeElem s ref + l) m (refineVal s d a) (refineTag s d a)) a b as) ∧
  (∀ (s s' : State) (id p e n : Nat) (a : Acc) (r : PlaneRec) (out : POut) (rnd : BitVec 2) (sat : Bool) (b : PlaneBlk),
    s.isDue id a → a.op = .calc (.plane r e n out rnd sat) → a.pend = some p → a.win = false →
    s.readBlk (s.whoOf a.thread false a.chain) a.owner r (e / 512) (e % 512 / 32) 0 n true = (.ok b, s') →
    runsTo (.loadDataReturn id) s fun t =>
      t = { s' with threads := t.threads, l1 := t.l1, tick := t.tick, accs := s'.accs.filter fun x => x.id != id } ∧
      (∀ k, k ≠ a.thread → t.thread k = s'.thread k) ∧
      t.thread a.thread = { (s'.thread a.thread).land p
        (slicesOf ((poutFmt out).bits / 4) ((poutFmt out).convert (rndOf rnd) sat (b.value (e % 32))).1 ++ slicesOf 1 n) with
          age := (t.thread a.thread).age }) ∧
  (∀ (s s' : State) (id p e n g : Nat) (x : W32) (a : Acc) (r : PlaneRec) (b : PlaneBlk),
    s.isDue id a → a.op = .calc (.refine r e n x g) → a.pend = some p → a.win = false →
    s.readBlk (s.whoOf a.thread false a.chain) a.owner r (e / 512) (e % 512 / 32) g n false = (.ok b, s') →
    runsTo (.loadDataReturn id) s fun t =>
      let pb := pblk b.word
      let held := min g pb
      let h := min n pb
      let m := recoverMag (fp32.decode x.toNat) held (b.word % 256) * 2 ^ (h - held) + magOf b.planes (e % 32)
      let v := if held < h then (fp32.convert .rne false (planeHeld (x.getLsbD 31) (b.word % 256) pb m h)).1 else x.toNat
      t = { s' with threads := t.threads, l1 := t.l1, tick := t.tick, accs := s'.accs.filter fun x => x.id != id } ∧
      (∀ k, k ≠ a.thread → t.thread k = s'.thread k) ∧
      t.thread a.thread = { (s'.thread a.thread).land p (slicesOf 8 v ++ slicesOf 1 n) with age := (t.thread a.thread).age }) ∧
  ∀ (v ref : Operand) (slot : BitVec 3) (n : BitVec 4) (dflt : Bool) (s s' : State) (fs : FmtSlot) (m : Nat) (r : PlaneRec),
    pstRuns s s' v ref slot n dflt fs m r →
    runsTo (.pst v ref slot n dflt) s fun t => ReadsOnly s s' ∧ IssuesDo s' t fun l a b as =>
      let x := pstRaw s v l
      b = { a with fflags := a.fflags ||| ((if x.isNan || !x.isFin then flNV else 0) |||
        (if (planeMagNx m (planeExp (pstVals s v)) (planeInput x)).2 then flNX else 0)) } ∧
      (∀ x ∈ as, x.lanes = laneSet s.issue.lanes) ∧
      as.map Acc.what = if l = s.low then (pstStores s v ref m r).flatMap fun (x, bs) => (splitAt128 x bs.length).map fun (c, k, q) =>
          (.glob, s.iasid, c, k, .store ((bs.drop q).take k) false, none, 0, 0)
        else []

namespace Sys2Proof

/-- The two range-lock entries of a plane copy: its tile from region f to the end, and its barrier object (R278). -/
def copyWants (s : State) (sp : Space) (y : CopyDesc) (off f n : Nat) : List (Bool × Space × Nat × Nat × Nat) :=
  [(true, sp, s.spaceOwner sp, s.memAddr sp (y.tile + regionOff y.cnt f), regionOff y.cnt (n + 1) - regionOff y.cnt f),
   (true, .core, s.ig.team, off, 16)]

/-- Where a plane copy's tile lies (R277). -/
def copySpace (chip : Bool) : Space := if chip then .chip else .core

/-- What PCOPY, or PCOPYX, needs to start its copy: the checks of Table 11.7, and no access of the issuing lanes to the barrier object
still to be performed; s' is the state after the record has been read (R277, R278). -/
def copyRuns (s s' : State) (i : Instr) (chip : Bool) (desc bar : Operand) (n f : BitVec 4) (r : PlaneRec) : Prop :=
  (i = .pcopy desc bar n f ∧ chip = false ∨ i = .pcopyx desc bar n f ∧ chip = true) ∧
    (let y := s.copyDesc s.low desc
     let off := (s.src s.low bar 32).toNat
     s.groupRuns i ∧ (f = 0 ∨ f ≤ n) ∧ s.readRec s.issue.lanes s.low y.rec_ = (.ok r, s') ∧
     y.mbz = 0 ∧ 0 < y.cnt ∧ y.t0 + y.cnt ≤ r.stripes ∧ n.toNat ≤ r.p ∧ y.tile % 256 = 0 ∧ off % 16 = 0 ∧
     s'.lanePending s.issue.lanes .core s.ig.team off 16 = false ∧ s.inSpace .core off 16 = true ∧
     s.corePoison s.ig.team off 16 = none ∧ barObjBad (s.barObj s.ig.team off) = false ∧ y.tile + regionOff y.cnt (n.toNat + 1) ≤ s.spaceSize (copySpace chip))

/-- What PDROP needs to start its demotion (R288, R289). -/
def dropRuns (s s' : State) (desc : Operand) (h : BitVec 4) (r : PlaneRec) : Prop :=
  let y := s.copyDesc s.low desc
  s.groupRuns (.pdrop desc h) ∧ s.readRec s.issue.lanes s.low y.rec_ = (.ok r, s') ∧
    y.mbz = 0 ∧ 0 < y.cnt ∧ y.t0 + y.cnt ≤ r.stripes ∧ y.tile = 0 ∧ r.dem = true

/-- Does an operation use a plane-copy engine (R278, R289)? -/
def usesEngine (o : EngOp) : Bool :=
  match o.kind with
  | .copy _ | .pdrop .. => true
  | _ => false

/-- A copy or demotion is the oldest of its core that waits for an engine, and one of the two is free (R278, R289). -/
def engineFree (s : State) (o : EngOp) : Prop :=
  s.opOf o.id = some o ∧ usesEngine o = true ∧ o.st = .run ∧ o.first = true ∧ o.engine = false ∧
    (s.ops.filter fun x => x.core == o.core && usesEngine x && x.engine).length < 2 ∧
    ∀ x ∈ s.ops, x.core = o.core → usesEngine x = true → x.id < o.id → x.engine = true

/-- A copy that holds an engine waits for no access of its thread, and its next act on its region is the one given; s' is the state
after its source has been read (R253, R279, R280). -/
def copyActs (s s' : State) (id : Nat) (o : EngOp) (c : CopyOp) (x : CopyAct) : Prop :=
  s.memsWf = true ∧ s.copyRun id = some o ∧ o.id = id ∧ o.kind = .copy c ∧ s.copyHeld o c = false ∧ s.copyAct o c = (x, s') ∧
    o.team < s.teams.length

/-- A demotion that holds an engine can do all its blocks: nothing that its thread issued stands before it, and every block's planes can be
read, and then stored in s'' (R289). -/
def demotes (s s' s'' : State) (id t0 cnt h : Nat) (o : EngOp) (r : PlaneRec) (l : List (Nat × List Byte)) : Prop :=
  s.copyRun id = some o ∧ o.kind = .pdrop r t0 cnt h none ∧ s.opGap o = false ∧ (∀ x ∈ s.accs, x.performed = true) ∧
    State.demoteBlks o r h ((List.range cnt).flatMap fun k => (List.range 16).map fun j => (t0 + k, j)) s = (.ok [] none, l, s') ∧
    s'.opStores o l = (.ok [] none, s'') ∧ s''.memsWf = true

/-- PCOPY, PCOPYX and PDROP start an operation for the whole group or half, which waits for its range-lock entries, when the
descriptor, its record and its barrier object pass Table 11.7's checks; and the oldest waiting one of a core gains a free engine
(R277, R278, R288, R289). -/
def planeCopiesStart : Prop :=
  (∀ (desc bar : Operand) (n f : BitVec 4) (i : Instr) (chip : Bool) (s s' : State) (r : PlaneRec),
    let sp := copySpace chip
    let y := s.copyDesc s.low desc
    let off := (s.src s.low bar 32).toNat
    copyRuns s s' i chip desc bar n f r →
    runsTo i s fun t => ReadsOnly s s' ∧
      t = { s' with threads := t.threads, ops := t.ops, nextId := t.nextId } ∧
      (let c : CopyOp := { chip, tile := y.tile, r, t0 := y.t0, cnt := y.cnt, f := f.toNat, n := n.toNat, bar := off,
                           words := none, reg := f.toNat, done := 0 }
       StartsOp s' t (.copy c) (copyWants s sp y off f.toNat n.toNat) .locking s'.nextId) ∧
      ∀ l ∈ s.issue.lanes, t.lt l = s'.waiting (s'.lt l) (.lock s'.nextId)) ∧
  (∀ (desc : Operand) (h : BitVec 4) (s s' : State) (r : PlaneRec), let y := s.copyDesc s.low desc
    dropRuns s s' desc h r →
    runsTo (.pdrop desc h) s fun t => ReadsOnly s s' ∧
      t = { s' with threads := t.threads, ops := t.ops, nextId := t.nextId } ∧
      StartsOp s' t (.pdrop r y.t0 y.cnt h.toNat none)
        ((true, .glob, s.iasid, r.expAt y.t0 0, 32 * y.cnt) ::
          (List.range h.toNat).map fun k => (true, .glob, s.iasid, r.planeAt y.t0 0 (k + 1), 64 * y.cnt)) .locking s'.nextId ∧
      ∀ l ∈ s.issue.lanes, t.lt l = s'.waiting (s'.lt l) (.lock s'.nextId)) ∧
  ∀ (s : State) (o : EngOp), engineFree s o →
    runsTo (.copyEngineStart o.id) s fun t => t = s.onOp o.id fun x => { x with engine := true }

/-- A copy that holds an engine delivers its next region: the object's level and the tile's tag become the region's number, region 0
sets READY instead, and the last region ends the copy with BUSY 0; a copy that meets poison ends, with POISON, its kind and address in
the object and one event; a demotion ends, and a demoted magnitude is rounded to nearest (R279, R280, R288, R289). -/
def planeCopiesProceed : Prop :=
  (∀ (s s' : State) (id : Nat) (o : EngOp) (c : CopyOp) (l : List (Nat × List Byte)) (ps : List Nat),
    copyActs s s' id o c (.region l ps) → c.n < 16 → c.reg ≤ c.n →
    runsTo (.copyRegionComplete id) s fun t =>
      let v := t.barObj o.team c.bar
      (if c.reg = 0 then field v 16 1 = 1 else field v 8 4 = c.reg) ∧
      (c.reg = c.n → field v 18 1 = 0 ∧ opEnded s' t id) ∧
      (c.reg < c.n → t.ops = s'.ops.map fun x =>
        if x.id = id then { x with kind := .copy { c with words := some ps, reg := c.reg + 1, done := 0 } } else x) ∧
      (l.map fun x => (x.1, x.2.length)) = (c.left.map fun u => (u.2.1, u.2.2.1)) ∧
      (let (sp, owner, a) := s'.copyTile o c
       ∀ y, (sp = .core → y < c.bar ∨ c.bar + 16 ≤ y) → memGet (t.mem sp owner).bytes y =
         memGet (l.foldl (fun m x => m.write (a + regionOff c.cnt c.reg + x.1) x.2 false) (s'.mem sp owner)).bytes y) ∧
      (0 < c.reg → (t.tag (s'.copyTile o c).1 (s'.copyTile o c).2.1 (s'.copyTile o c).2.2).toNat = c.reg) ∧
      t.hbm = s'.hbm) ∧
  (∀ (s s' : State) (id kind u : Nat) (o : EngOp) (c : CopyOp) (l : List (Nat × List Byte)),
    copyActs s s' id o c (.poison kind u l) → kind < 4 → u < 2 ^ 57 →
    runsTo (.copyPoisonEnd id) s fun t =>
      let v := t.barObj o.team c.bar
      field v 19 1 = 1 ∧ field v 18 1 = 0 ∧ field v 121 2 = kind ∧ field v 64 57 = u ∧ opEnded s' t id ∧
      t.elcnt = s'.elcnt + 1 ∧ t.hbm = s'.hbm) ∧
  (∀ (s s' s'' : State) (id t0 cnt h : Nat) (o : EngOp) (r : PlaneRec) (l : List (Nat × List Byte)),
    demotes s s' s'' id t0 cnt h o r l →
    runsTo (.pdropComplete id) s fun t =>
      let u := s''.discards o.asid r t0 cnt h
      opEnded u t id ∧ t.hbm = u.hbm ∧ (∀ n, n ∈ t.lines ↔ n ∈ s''.lines ∧ ¬(n.asid = o.asid ∧ r.above t0 cnt h n.la = true)) ∧
      ∀ x, (∀ n ∈ s''.lines, n.asid = o.asid → r.above t0 cnt h n.la = true → x < n.pa ∨ n.pa + 256 ≤ x) →
        memGet t.hbm.bytes x = memGet s''.hbm.bytes x) ∧
  (∀ (b : PlaneBlk) (h k i : Nat), k < h → i < 32 →
    (demotePlanes b h).getD k 0 / 2 ^ i % 2 = demoteMag b.planes.length h (magOf b.planes i) / 2 ^ (h - 1 - k) % 2) ∧
  ∀ p h m : Nat, h ≤ p → m < 2 ^ p →
    demoteMag p h m < 2 ^ h ∧
      (demoteMag p h m + 1 < 2 ^ h → 2 * m ≤ (2 * demoteMag p h m + 1) * 2 ^ (p - h)) ∧
      2 * demoteMag p h m * 2 ^ (p - h) ≤ 2 * m + 2 ^ (p - h)

end Sys2Proof

/-- Plane copies start, take their regions in order, and end (R277–R285). The model's choices in it: log entries 22, 23 and 56. -/
def Obligations.PlaneCopies : Prop := planeCopiesStart ∧ planeCopiesProceed

namespace Sys2Proof

/-- A barrier object's offset is a multiple of 16 in the core scratchpad, and the lane's own accesses to it are performed. -/
def barReady (s : State) (bar : Operand) (l : Nat) : Prop :=
  let off := (s.src l bar 32).toNat
  s.barOff off = none ∧ s.ownPending (s.ig.t0 + l) .core s.ig.team off 16 = false

end Sys2Proof

/-- PBINIT stores ARM alone into the object; PBWAIT ends with its predicate bit, at a level reached or an ended copy, or waits; PBTEST
and PTAG.GET read; a poisoned object raises 0x0B; PTAG.SET sets the line's tag; PGATE keeps and counts candidates, and PAUDIT counts samples, lane by lane (R145,
R276, R284, R285, R291–R293). The model's choice in it, poison met in core scratchpad: log entry 20. -/
def Obligations.PlaneSideWords : Prop :=
  (∀ bar, issuesAccesses (.pbinit bar)
    (fun s l => s.barOff (s.src l bar 32).toNat = none ∧ s.lockFault .core (s.src l bar 32).toNat 16 true = none)
    fun s l a b as => b = a ∧ as.map Acc.what = (splitAt128 (s.src l bar 32).toNat 16).map fun (c, k, q) =>
      (.core, s.ig.team, c, k, .store (((natLe 16 (2 ^ 17)).drop q).take k) false, none, 0, 0)) ∧
  (∀ (q : PredBit) (bar : Operand) (n : BitVec 4) (s : State), s.canRun (.pbwait q bar n) = true →
    (∀ l ∈ s.issue.lanes, barReady s bar l ∧ s.corePoison s.ig.team (s.src l bar 32).toNat 16 = none ∧
      barObjBad (s.barObj s.ig.team (s.src l bar 32).toNat) = false) →
    runsTo (.pbwait q bar n) s fun t => LanesDo s t fun l a b =>
      let off := (s.src l bar 32).toNat
      let v := s.barObj s.ig.team off
      let qs := q.slice.toNat
      let level := field v 16 1 = 1 ∧ n.toNat ≤ field v 8 4
      if level ∨ field v 19 1 = 1 ∨ field v 20 1 = 1 ∨ field v 17 1 = 0 ∧ field v 18 1 = 0 then
        a.Wrote b a [qs] [{ v := predBitSet (a.slice qs).v q .set (decide level), poison := false }]
      else b = s.waiting a (.pbwait q off n.toNat)) ∧
  (∀ (d bar : Operand) (hi : Bool) (s : State), s.canRun (.pbtest d bar hi) = true →
    (∀ l ∈ s.issue.lanes, barReady s bar l ∧ s.corePoison s.ig.team (s.src l bar 32).toNat 16 = none) →
    runsTo (.pbtest d bar hi) s fun t => LanesDo s t fun l a b =>
      a.WroteD b s d (BitVec.ofNat 64 (s.barObj s.ig.team (s.src l bar 32).toNat / (if hi then 2 ^ 64 else 1)))) ∧
  (∀ (q : PredBit) (d bar : Operand) (n : BitVec 4) (hi : Bool) (s : State) (f : Nat → Word),
    (∀ l ∈ s.issue.lanes, barReady s bar l ∧ s.corePoison s.ig.team (s.src l bar 32).toNat 16 = some (f l)) →
    ∀ i ∈ [Instr.pbwait q bar n, .pbtest d bar hi], s.canRun i = true →
      runsTo i s fun t => t = (s.faultLanes s.issue.lanes fun l => (0x0B, f l)).finish) ∧
  (∀ (d tl : Operand) (chip : Bool) (s : State), let sp : Space := if chip then .chip else .core
    s.canRun (.ptagGet d tl chip) = true → (∀ l ∈ s.issue.lanes, s.inSpace sp (s.src l tl 32).toNat 1 = true) →
    runsTo (.ptagGet d tl chip) s fun t => LanesDo s t fun l a b =>
      a.WroteD b s d ((s.tag sp (s.spaceOwner sp) (s.memAddr sp (s.src l tl 32).toNat)).setWidth 64)) ∧
  (∀ (tl : Operand) (chip : Bool) (v : BitVec 4) (s : State), let sp : Space := if chip then .chip else .core
    let at_ := fun l => s.memAddr sp (s.src l tl 32).toNat
    s.canRun (.ptagSet tl chip v) = true → s.memsWf = true → s.ig.team < s.teams.length →
    (∀ l ∈ s.issue.lanes, s.inSpace sp (s.src l tl 32).toNat 1 = true ∧ s.lockFault sp (at_ l / 256 * 256) 256 false = none) →
    runsTo (.ptagSet tl chip v) s fun t =>
      t = { s with chipTags := t.chipTags, teams := t.teams } ∧ (∀ n, t.team n = { s.team n with tags := (t.team n).tags }) ∧
      ∀ sp' o x, (sp' = .core ∨ sp' = .chip) → t.tag sp' o x =
        if sp' = sp ∧ (sp = .core → o = s.ig.team) ∧ ∃ l ∈ s.issue.lanes, at_ l / 256 = x / 256 then v else s.tag sp' o x) ∧
  (∀ (d pair : Operand) (est : Bool) (thr : Sel) (s : State), let i : Instr := .pgate d pair est thr
    let fp := fun w : Word => fpIn false (w.setWidth 32)
    let keep := fun l => gateSurvives (!est) (fp (s.src l pair 64)) (fp (s.src l pair 64 >>> 32))
      (fp (s.src l { w := .w32, x := false, sel := thr } 32))
    let out := s.issue.lanes.filter fun l => !keep l
    s.canRun i = true → s.whole = true → (est = true → s.ig.audctl.getLsbD 16 = false ∨ s.ig.audcnt.getLsbD 63 = false) →
    runsTo i s fun t =>
      t = { s with threads := t.threads, groups := t.groups, nextId := t.nextId } ∧
      (∀ g, g ≠ s.issue.grp → t.group g = s.group g) ∧ t.ig = { s.ig with audcnt := t.ig.audcnt } ∧
      t.ig.audcnt.toNat = (if est then setField s.ig.audcnt.toNat 32 16 (field s.ig.audcnt.toNat 32 16 + out.length)
        else s.ig.audcnt.toNat) ∧
      (∀ l ∈ s.issue.lanes, keep l = true → (s.lt l).WroteD (t.lt l) s d 1) ∧
      (∀ (k l : Nat), out[k]? = some l →
        let every := field s.ig.audctl.toNat 12 4
        let rej := (field s.ig.audcnt.toNat 32 16 + k + 1) % 2 ^ 16
        (s.lt l).WroteD (t.lt l) s d (if est = true ∧ every ≠ 0 ∧ rej % 2 ^ every = 0 then 3 else 0)) ∧
      ∀ n, (∀ l ∈ s.issue.lanes, n ≠ s.ig.t0 + l) → t.thread n = s.thread n) ∧
  ∀ (d e : Operand) (thr : Sel) (s : State), let i : Instr := .paudit d e thr
    let fp := fun w : Word => fpIn false (w.setWidth 32)
    let sampled := s.issue.lanes.filter fun l => (s.src l d 4).getLsbD 1
    let missed := fun l =>
      let x := fp (s.src l e 32); let y := fp (s.src l { w := .w32, x := false, sel := thr } 32)
      !x.isNan && !y.isNan && !fpLt x y
    s.canRun i = true → s.whole = true →
    runsTo i s fun t =>
      t = { s with threads := t.threads, groups := t.groups, nextId := t.nextId } ∧
      (∀ g, g ≠ s.issue.grp → t.group g = s.group g) ∧
      t.ig = { s.ig with audcnt := sampled.foldl (fun v l => auditCount s.ig.audctl v (missed l)) s.ig.audcnt } ∧
      (∀ l ∈ s.issue.lanes, if (s.src l d 4).getLsbD 1 then (s.lt l).WroteD (t.lt l) s d (s.src l d 4 &&& 13) else t.lt l = s.lt l) ∧
      ∀ n, (∀ l ∈ s.issue.lanes, n ≠ s.ig.t0 + l) → t.thread n = s.thread n

/-! ## Class J: matrix units -/

namespace Sys2Proof

/-- A class J word begins for the whole group or half of a team that claims its unit or may claim it (R294, R298). -/
def unitRuns (s : State) (i : Instr) : Prop := s.groupRuns i ∧ s.memsWf = true ∧ s.mayClaim

/-- A class J word begins on a tile that its group holds, in a unit that the team claims; no pass on the tile is still to be applied
(R294–R297). -/
def holdsTile (s : State) (i : Instr) (tile : BitVec 5) : Prop :=
  s.groupRuns i ∧ s.memsWf = true ∧ (s.mxu s.unit).claim = some s.ig.team ∧ s.tokenOf s.unit tile.toNat = some s.issue.grp ∧
    (s.mxu s.unit).busy tile.toNat = false ∧ tile.toNat < (s.mxu s.unit).tiles.length ∧
    ((s.mxu s.unit).tiles.getD tile.toNat default).words.length = 512

/-- ACQ finds the tile's token with the unit or its own group (Table 12.1). -/
def acqRuns (s : State) (tile : BitVec 5) : Prop :=
  unitRuns s (.acq tile) ∧
    ((s.mxu s.unit).claim = none ∨ s.tokenOf s.unit tile.toNat = none ∨ s.tokenOf s.unit tile.toNat = some s.issue.grp)

/-- ACCWR's operands fault in no lane, and the lanes lie in one half of the group (R298, R313). -/
def accwrRuns (s : State) (tile : BitVec 5) (rb : BitVec 2) (cols : Cols) (a : Operand) : Prop :=
  holdsTile s (.accwr tile rb cols a) tile ∧
    ∀ l ∈ s.issue.lanes, s.operandFault l (.accwr tile rb cols a) (Instr.accwr tile rb cols a).uses = none ∧ l / 32 = s.low / 32

/-- ACQ takes a free tile for its group and waits for the tile's passes; REL gives it up, ACCZ zeroes it, ACCRD reads a row of it into
each lane's slices and ACCWR writes it from them, of a tile that the group holds; WBDROP invalidates an entry, one that loads
when its load completes; a word that finds the
token elsewhere raises 0x0A for the whole issue set, with the tile in TINFO, and a marked source slice of ACCWR stops every row
(R294–R297, R311–R314). -/
def tileTokensAndMoves : Prop :=
  (∀ (tile : BitVec 5) (s : State), acqRuns s tile →
    runsTo (.acq tile) s fun t =>
      t = { s with mxus := t.mxus, threads := t.threads } ∧
      unitBecomes s t (s.claimedUnit.withTile tile.toNat fun x => { x with owner := some s.issue.grp }) ∧
      (∀ l ∈ s.issue.lanes, t.lt l =
        if s.claimedUnit.busy tile.toNat then s.waiting (s.lt l) (.acq s.unit tile.toNat) else s.lt l) ∧
      ∀ n, (∀ l ∈ s.issue.lanes, n ≠ s.ig.t0 + l) → t.thread n = s.thread n) ∧
  (∀ (tile : BitVec 5) (i : Instr) (f : Tile → Tile),
    (i = .rel tile ∧ f = (fun x => { x with owner := none }) ∨
      i = .accz tile ∧ f = fun x => { x with words := List.replicate 512 0 }) →
    ∀ s : State, holdsTile s i tile →
      runsTo i s fun t => t = { s with mxus := t.mxus } ∧ unitBecomes s t ((s.mxu s.unit).withTile tile.toNat f)) ∧
  (∀ (e : BitVec 4) (s : State), unitRuns s (.wbdrop e) →
    runsTo (.wbdrop e) s fun t => t = { s with mxus := t.mxus } ∧
      unitBecomes s t { s.claimedUnit with wb := s.claimedUnit.wb.modify e.toNat fun x =>
        if x.loading.isSome then { x with drop := true } else default }) ∧
  (∀ (tile : BitVec 5) (rb : BitVec 2) (cols : Cols) (d : Operand) (s : State), holdsTile s (.accrd tile rb cols d) tile →
    runsTo (.accrd tile rb cols d) s fun t => LanesDo s t fun l a b =>
      let ws := ((s.mxu s.unit).tiles.getD tile.toNat default).words
      a.Wrote b a (a.locate s.gs d cols.slices) ((List.range (colSpan cols).2).flatMap fun j =>
        sliceVals 8 ((ws.getD (16 * tileRow rb l + (colSpan cols).1 + j) 0).setWidth 64))) ∧
  (∀ (tile : BitVec 5) (rb : BitVec 2) (cols : Cols) (a : Operand) (s : State), accwrRuns s tile rb cols a →
    runsTo (.accwr tile rb cols a) s fun t =>
      t = { s with mxus := t.mxus } ∧
      ∃ ws, unitBecomes s t ((s.mxu s.unit).withTile tile.toNat fun x => { x with words := ws }) ∧ ws.length = 512 ∧
        (∀ l ∈ s.issue.lanes, ∀ j < (colSpan cols).2, ws.getD (16 * tileRow rb l + (colSpan cols).1 + j) 0 =
          (sliceWord (((((s.lt l).locate s.gs a cols.slices).map (s.lt l).slice).drop (8 * j)).take 8)).setWidth 32) ∧
        ∀ k, (∀ l ∈ s.issue.lanes, ∀ j < (colSpan cols).2, k ≠ 16 * tileRow rb l + (colSpan cols).1 + j) →
          ws.getD k 0 = ((s.mxu s.unit).tiles.getD tile.toNat default).words.getD k 0) ∧
  (∀ (tile : BitVec 5) (rb : BitVec 2) (cols : Cols) (x : Operand) (i : Instr) (s : State),
    s.groupRuns i → (s.mxu s.unit).claim = some s.ig.team → s.tokenOf s.unit tile.toNat ≠ some s.issue.grp →
    (i = .acq tile ∧ s.tokenOf s.unit tile.toNat ≠ none ∨ i = .rel tile ∨ i = .accz tile ∨ i = .accrd tile rb cols x ∨
      i = .accwr tile rb cols x) →
    runsTo i s fun t => t = (s.faultAll 6 0x0A (tile.setWidth 64)).finish) ∧
  ∀ (tile : BitVec 5) (rb : BitVec 2) (cols : Cols) (a : Operand) (s : State), let i : Instr := .accwr tile rb cols a
    holdsTile s i tile → (∃ l ∈ s.issue.lanes, ∃ x, s.operandFault l i i.uses = some (0x0B, x)) →
    runsTo i s fun t => t.mxus = s.mxus

/-- What a pass finds in the unit: the entry valid with the chunk, no load of it under way, room in the pass queue, and every non-exited
lane of each issuing quarter (R296, R298, R305). -/
def passFinds (s : State) (e chunk : BitVec 4) (w : WbEnt) (c : MClass) : Prop :=
  (s.issue.sure || s.quarters) = true ∧ s.issue.lanes ≠ [] ∧ s.memsWf = true ∧ (s.mxu s.unit).claim = some s.ig.team ∧
    (s.mxu s.unit).wb.getD e.toNat default = w ∧ w.loading = none ∧ w.valid = true ∧ chunk.toNat < w.cnt ∧
    (s.mxu s.unit).passes.length < 8 ∧ w.slot.bclass = some c

/-- A word whose pass may be formed: what it finds, with the tile the unit's own and no poison in the entry (R297, R310). -/
def passRuns (s : State) (tile : BitVec 5) (e chunk : BitVec 4) (w : WbEnt) (c : MClass) : Prop :=
  passFinds s e chunk w c ∧ w.poison = none ∧ s.tokenOf s.unit tile.toNat = none

/-- The format slot and the scale operand of an MMA fit its entry, of class c (R299, R300). -/
def mmaFits (s : State) (slot : BitVec 3) (sc : BitVec 10) (c : MClass) : Prop :=
  (s.slot slot.toNat).mclass = some c ∧ s.scaleOk (s.slot slot.toNat) sc = true

/-- What an MMA needs to queue its pass: also no fault of its operands, and no marked scale slice (R72, R308). -/
def mmaRuns (s : State) (tile : BitVec 5) (rb : BitVec 2) (e : BitVec 4) (slot : BitVec 3) (a : Operand) (chunk : BitVec 4)
    (sc : BitVec 10) (w : WbEnt) (c : MClass) : Prop :=
  s.canRun (.mma tile rb e slot a chunk sc) = true ∧ passRuns s tile e chunk w c ∧ mmaFits s slot sc c ∧
    ∀ l ∈ s.issue.lanes,
      s.lowestMark l ((List.range (s.slot slot.toNat).scaleSlices).map fun k => (s.lt l).phys s.gs (sc.toNat + k)) = none

/-- What an MMAP needs to queue its pass: an entry of class F8, a good tile reference, and in each lane a good block of the tile
(R309). -/
def mmapRuns (s : State) (tile : BitVec 5) (rb : BitVec 2) (e : BitVec 4) (r : Operand) (chunk : BitVec 4) (idx : Sel) (w : WbEnt)
    (c : MClass) (row : Nat → List Fp) : Prop :=
  let v := (s.src s.low r 64).toNat
  let T := field v 0 32
  let n := field v 32 16
  let h := (s.tag .core s.ig.team T).toNat
  let last := T + espan n + (h + 1) * span n
  let b := fun l => (s.src l { w := .w16, x := false, sel := idx } 16).toNat
  s.canRun (.mmap tile rb e r chunk idx) = true ∧ passRuns s tile e chunk w c ∧ c.cls = 8 ∧ v / 2 ^ 48 = 0 ∧ 0 < n ∧ T % 256 = 0 ∧
    last ≤ s.spaceSize .core ∧ s.lanePending s.issue.lanes .core s.ig.team T (last - T) = false ∧
    ∀ l ∈ s.issue.lanes, b l < 16 * n ∧ s.tileRead T n h (b l) = .row (row l)

/-- The unit's oldest pass names a tile of the unit and rows of its own (R302, R305). -/
def passDue (s : State) (u : Nat) (p : Pass) (q : List Pass) : Prop :=
  s.memsWf = true ∧ (s.mxu u).passes = p :: q ∧ p.tile < (s.mxu u).tiles.length ∧
    ((s.mxu u).tiles.getD p.tile default).words.length = 512 ∧ (p.rows.map (·.1)).Nodup ∧ ∀ r ∈ p.rows, r.1 < 32

/-- The values of chunk c of an entry of class m (R301). -/
def chunkOf (w : WbEnt) (m : MClass) (c : Nat) : List Fp := (w.vals.drop (c * 16 * m.k)).take (16 * m.k)

/-- MMA and MMAP queue a pass on their tile, with a row of exact sums for each lane, from the lane's A row or its block of the plane
tile, and the entry's chunk; MATRIX_PASS adds the oldest pass's sums to its tile, each word rounded once; a tile that a group holds
raises 0x0A, and a poisoned entry 0x0B with its own TINFO (R296, R297, R300–R310). -/
def matrixPasses : Prop :=
  (∀ (tile : BitVec 5) (rb : BitVec 2) (e : BitVec 4) (slot : BitVec 3) (a : Operand) (chunk : BitVec 4) (sc : BitVec 10)
      (s : State) (w : WbEnt) (c : MClass), mmaRuns s tile rb e slot a chunk sc w c →
    runsTo (.mma tile rb e slot a chunk sc) s fun t =>
      t = { s with mxus := t.mxus } ∧
      unitBecomes s t { s.mxu s.unit with passes := (s.mxu s.unit).passes ++ [{ tile := tile.toNat, rows := s.issue.lanes.map fun l =>
        (tileRow rb l, rowSums c (s.aRow l (s.slot slot.toNat) c a sc) (chunkOf w c chunk.toNat)) }] }) ∧
  (∀ (tile : BitVec 5) (rb : BitVec 2) (e : BitVec 4) (r : Operand) (chunk : BitVec 4) (idx : Sel) (s : State) (w : WbEnt)
      (c : MClass) (row : Nat → List Fp), mmapRuns s tile rb e r chunk idx w c row →
    runsTo (.mmap tile rb e r chunk idx) s fun t =>
      t = { s with mxus := t.mxus } ∧
      unitBecomes s t { s.mxu s.unit with passes := (s.mxu s.unit).passes ++ [{ tile := tile.toNat, rows := s.issue.lanes.map fun l =>
        (tileRow rb l, rowSums c (row l) (chunkOf w c chunk.toNat)) }] }) ∧
  (∀ (s : State) (u : Nat) (p : Pass) (q : List Pass), passDue s u p q →
    runsTo (.matrixPass u) s fun t =>
      t = { s with mxus := t.mxus } ∧ (∀ k, k ≠ u → t.mxu k = s.mxu k) ∧
      ∃ (ws : List W32) (m : Mxu), m = (s.mxu u).withTile p.tile (fun x => { x with words := ws }) ∧
        t.mxu u = { m with passes := q } ∧ ws.length = 512 ∧
        (∀ r ∈ p.rows, ∀ j < 16, ws.getD (16 * r.1 + j) 0 =
          accum (((s.mxu u).tiles.getD p.tile default).words.getD (16 * r.1 + j) 0) (r.2.getD j (.fin false 0 0))) ∧
        ∀ k, (∀ r ∈ p.rows, k / 16 ≠ r.1) → ws.getD k 0 = ((s.mxu u).tiles.getD p.tile default).words.getD k 0) ∧
  ∀ (tile : BitVec 5) (rb : BitVec 2) (e : BitVec 4) (slot : BitVec 3) (x : Operand) (chunk : BitVec 4) (sc : BitVec 10) (idx : Sel)
      (i : Instr) (s : State) (w : WbEnt) (c : MClass),
    (i = .mma tile rb e slot x chunk sc ∧ mmaFits s slot sc c ∨ i = .mmap tile rb e x chunk idx ∧ c.cls = 8) →
    i.wf = true → s.begun = true → passFinds s e chunk w c →
    (s.tokenOf s.unit tile.toNat ≠ none → runsTo i s fun t => t = (s.faultAll 6 0x0A (tile.setWidth 64)).finish) ∧
    ∀ info, s.tokenOf s.unit tile.toNat = none → w.poison = some info → runsTo i s fun t => t = (s.faultLogged info).finish

end Sys2Proof

/-- Tiles' tokens and words (R294–R297, R311–R314), and the passes that add to them (R296–R310). The model's choice in it: log entry
24. -/
def Obligations.MatrixTilesAndPasses : Prop := tileTokensAndMoves ∧ matrixPasses

/-! ## Where the words of planes and of tiles complete -/

namespace Sys2Proof

/-- A word has gone through in each lane of its issue: none of them trapped, stalled or was deferred, and each stays where it stood,
ready or waiting for the effect (s is the state after what the word reads at issue). -/
def Completes (s t : State) : Prop :=
  t.issue = s.issue ∧ t.groups = s.groups ∧ ∀ l, (t.lt l).pc = (s.lt l).pc ∧ (t.lt l).tpc = (s.lt l).tpc ∧ (t.lt l).exited = (s.lt l).exited

/-- An operation has joined the engine's list and waits for its range-lock entries. -/
def opStarted (s t : State) : Prop := ∃ o, t.ops = s.ops ++ [o] ∧ o.st = .locking ∧ ∀ l ∈ s.issue.lanes, (t.lt l).wait = .lock o.id

end Sys2Proof

/-- Every word of planes and of matrix tiles, and every event of their engines, answers a next state with its own effect, whatever the
state, when the spec's conditions on the state and the operands hold: the record, the descriptor and the element range are good (R140,
R266, R271–R274, R277, R288), the engine is free (R278), the unit is the team's and the token where Table 12.1 asks for it
(R294–R297), and the entry valid (R305). The model's choice in it, the wait on the range-lock entries: log entry 22. -/
def Obligations.PlaneAndMatrixWordsComplete : Prop :=
  (∀ s s' d ref slot n dflt out fs m r, pldRuns s s' d ref slot n dflt out fs m r →
    ∃ t, exec (.pld d ref slot n dflt out) s = .next t ∧ Completes s' t ∧
      ∀ l ∈ s.issue.lanes, ∃ p, p ∈ (t.lt l).pend ∧ p.slices = (s'.lt l).locate s.gs d (d.w.slices + 1) ∧ p.known = false) ∧
  (∀ s s' d ref slot n dflt fs m r, prfnRuns s s' d ref slot n dflt fs m r →
    ∃ t, exec (.prfn d ref slot n dflt) s = .next t ∧ Completes s' t ∧
      ∀ l ∈ s.issue.lanes, refineTag s d (s'.lt l) < m → ∃ p, p ∈ (t.lt l).pend ∧ p.slices = (s'.lt l).locate s.gs d 9 ∧ p.known = false) ∧
  (∀ s s' v ref slot n dflt fs m r, pstRuns s s' v ref slot n dflt fs m r →
    ∃ t, exec (.pst v ref slot n dflt) s = .next t ∧ Completes s' t ∧ s'.accs.length < t.accs.length) ∧
  (∀ s s' i chip desc bar n f r, copyRuns s s' i chip desc bar n f r → ∃ t, exec i s = .next t ∧ Completes s' t ∧ opStarted s' t) ∧
  (∀ s s' desc h r, dropRuns s s' desc h r → ∃ t, exec (.pdrop desc h) s = .next t ∧ Completes s' t ∧ opStarted s' t) ∧
  (∀ s o, engineFree s o → ∃ t, exec (.copyEngineStart o.id) s = .next t ∧ ∀ x ∈ t.ops, x.id = o.id → x.engine = true) ∧
  (∀ s s' id o c l ps, copyActs s s' id o c (.region l ps) → c.n < 16 → c.reg ≤ c.n →
    ∃ t, exec (.copyRegionComplete id) s = .next t ∧
      (if c.reg = 0 then field (t.barObj o.team c.bar) 16 1 = 1 else field (t.barObj o.team c.bar) 8 4 = c.reg)) ∧
  (∀ s s' id o c kind u l, copyActs s s' id o c (.poison kind u l) → kind < 4 → u < 2 ^ 57 →
    ∃ t, exec (.copyPoisonEnd id) s = .next t ∧ t.opOf id = none ∧ field (t.barObj o.team c.bar) 19 1 = 1) ∧
  (∀ s s' s'' id t0 cnt h o r l, demotes s s' s'' id t0 cnt h o r l →
    ∃ t, exec (.pdropComplete id) s = .next t ∧ t.opOf id = none) ∧
  (∀ s tile, acqRuns s tile →
    ∃ t, exec (.acq tile) s = .next t ∧ Completes s t ∧
      ∀ x, (t.mxu s.unit).tiles[tile.toNat]? = some x → x.owner = some s.issue.grp) ∧
  (∀ s tile, holdsTile s (.rel tile) tile →
    ∃ t, exec (.rel tile) s = .next t ∧ Completes s t ∧ t.tokenOf s.unit tile.toNat = none) ∧
  (∀ s tile, holdsTile s (.accz tile) tile →
    ∃ t, exec (.accz tile) s = .next t ∧ Completes s t ∧
      ∀ k < 512, ((t.mxu s.unit).tiles.getD tile.toNat default).words.getD k 0 = 0) ∧
  (∀ s e, unitRuns s (.wbdrop e) → (s.claimedUnit.wb.getD e.toNat default).loading = none →
    ∃ t, exec (.wbdrop e) s = .next t ∧ Completes s t ∧ ((t.mxu s.unit).wb.getD e.toNat default).valid = false) ∧
  (∀ s tile rb cols d, holdsTile s (.accrd tile rb cols d) tile →
    ∃ t, exec (.accrd tile rb cols d) s = .next t ∧ Completes s t ∧ t.mxus = s.mxus) ∧
  (∀ s tile rb cols a, accwrRuns s tile rb cols a →
    ∃ t, exec (.accwr tile rb cols a) s = .next t ∧ Completes s t ∧ t.threads = s.threads) ∧
  (∀ s tile rb e slot a chunk sc w c, mmaRuns s tile rb e slot a chunk sc w c →
    ∃ t, exec (.mma tile rb e slot a chunk sc) s = .next t ∧ Completes s t ∧
      (t.mxu s.unit).passes.length = (s.mxu s.unit).passes.length + 1) ∧
  (∀ s tile rb e r chunk idx w c row, mmapRuns s tile rb e r chunk idx w c row →
    ∃ t, exec (.mmap tile rb e r chunk idx) s = .next t ∧ Completes s t ∧
      (t.mxu s.unit).passes.length = (s.mxu s.unit).passes.length + 1) ∧
  ∀ s u p q, passDue s u p q → ∃ t, exec (.matrixPass u) s = .next t ∧ (t.mxu u).passes = q

/-- WBLOAD starts a load of its entry, from memory or from planes, and its end leaves the entry valid with the values read; DRAIN
starts with a snapshot of its tile, zeroes it if asked, and waits for the lock or the end; its end stores each row at its place
(R310, R315–R317). The model's choices in it: log entries 22 and 24. -/
def Obligations.WeightLoadsAndDrains : Prop :=
  (∀ (e c1 : BitVec 4) (slot : BitVec 3) (core : Bool) (src b : Operand) (s s' : State) (r : PlaneRec),
    let i : Instr := .wbload e c1 slot core src b
    let f := s.slot slot.toNat
    let cnt := c1.toNat + 1
    let a := (s.src s.low src 64).toNat
    let pb := f.elem = 0x10
    s.groupRuns i → s.memsWf = true → (s.mxu s.unit).claim = some s.ig.team → f.bclass ≠ none → cnt * f.chunkBytes ≤ 4096 →
    a % 64 = 0 → (s.mxu s.unit).wb.length = 16 →
    (if pb then core = false ∧ b.w = .w32 ∧ b.x = false ∧ OpRule.srcX0.allows b = true ∧
        (stripeUses b).any ((s.lt s.low).illegalUse s.gs s.ir.l.toNat s.issue.latched) = false ∧
        s.operandFault s.low i (i.uses ++ [rdOp .srcX0 b [.w32]]) = none ∧
        s.readRec s.issue.lanes s.low a = (.ok r, s') ∧ (s.src s.low b 32).toNat + cnt ≤ r.stripes
      else b = { w := .w4, x := false, sel := .slice 0 } ∧ s.inSpace (if core then .core else .glob) a (cnt * f.chunkBytes) = true ∧
        s' = s ∧ r = default) →
    (core = false → ∀ k ∈ s.locks, k.core = s.icore → k.space ≠ .glob) →
    runsTo i s fun t => ReadsOnly s s' ∧
      t = { s' with threads := t.threads, ops := t.ops, nextId := t.nextId, mxus := t.mxus } ∧
      (let w : WbOp := { unit := s.unit, entry := e.toNat, cnt, slot := f, core, src := a,
                         c0 := if pb then (s.src s.low b 32).toNat else 0, r }
       StartsOp s' t (.wbload w) (if core then [(false, .core, s.ig.team, a, cnt * f.chunkBytes)] else [])
        (if core then .locking else .run) s'.nextId) ∧
      (∀ l ∈ s.issue.lanes, t.lt l = if core then s'.waiting (s'.lt l) (.lock s'.nextId) else s'.lt l) ∧
      unitBecomes s t { s.mxu s.unit with wb := (s.mxu s.unit).wb.modify e.toNat fun x =>
        { x with loading := some s'.nextId, drop := false } }) ∧
  (∀ (s s' : State) (id : Nat) (o : EngOp) (w : WbOp) (vals : List Fp), s.memsWf = true → s.opOf id = some o → o.kind = .wbload w →
    o.st = .run → (∀ x ∈ s.accs, x.performed = true) → s.wbRead o w = (.ok vals none, s') →
    (∀ x ∈ s.ops, x.id < id → match x.kind with | .wbload y => y.unit ≠ w.unit ∨ y.entry ≠ w.entry | _ => True) →
    ((s'.mxu w.unit).wb.getD w.entry default).loading = some id → ((s'.mxu w.unit).wb.getD w.entry default).drop = false →
    runsTo (.wbloadComplete id) s fun t => opEnded s' t id ∧ t.hbm = s'.hbm ∧ (∀ u, u ≠ w.unit → t.mxu u = s'.mxu u) ∧
      let x : WbEnt := { valid := true, loading := none, drop := false, poison := none, slot := w.slot, cnt := w.cnt, vals }
      t.mxu w.unit = { s'.mxu w.unit with wb := (s'.mxu w.unit).wb.set w.entry x }) ∧
  (∀ (tile : BitVec 5) (mode : DMode) (space : DSpace) (w z : Bool) (a stride : Operand) (s : State),
    let i : Instr := .drain tile mode space w z a stride
    let sp := drainSpace space
    let x := (s.src s.low a 64).toNat
    let d := (s.src s.low stride 32).toNat
    s.groupRuns i → s.memsWf = true → (s.mxu s.unit).claim = some s.ig.team → s.tokenOf s.unit tile.toNat = some s.issue.grp →
    (s.mxu s.unit).busy tile.toNat = false → d % 4 = 0 → 64 ≤ d → d ≤ 2 ^ 24 - 4 → x % 4 = 0 →
    s.inSpace sp x (31 * d + 64) = true →
    runsTo i s fun t =>
      t = { s with threads := t.threads, ops := t.ops, nextId := t.nextId, mxus := t.mxus } ∧
      StartsOp s t (.drain { grp := s.issue.grp, mode, space, addr := s.memAddr sp x, stride := d,
                             snap := ((s.mxu s.unit).tiles.getD tile.toNat default).words })
        [(true, sp, s.spaceOwner sp, s.memAddr sp x, 31 * d + 64)] .locking s.nextId ∧
      (∀ l ∈ s.issue.lanes, t.lt l = s.waiting (s.lt l) (if w then .op s.nextId else .lock s.nextId)) ∧
      unitBecomes s t (if z then (s.mxu s.unit).withTile tile.toNat fun x => { x with words := List.replicate 512 0 }
        else s.mxu s.unit)) ∧
  ∀ (s : State) (id : Nat) (o : EngOp) (d : DrainOp), s.memsWf = true → s.opOf id = some o → o.kind = .drain d → o.st = .run →
    d.mode = .store → d.space ≠ .glob → o.team < s.teams.length → d.snap.length = 512 → 64 ≤ d.stride →
    (∀ x ∈ s.accs, x.performed = true) →
    (∀ x ∈ s.ops, x.id < id → match x.kind with | .drain y => y.grp ≠ d.grp | _ => True) →
    runsTo (.drainComplete id) s fun t =>
      let sp := drainSpace d.space
      let owner := if d.space = .core then o.team else o.asid
      opEnded s t id ∧ t.hbm = s.hbm ∧ t.accs = s.accs ∧
      (∀ i < 32, ∀ j < 64, memGet (t.mem sp owner).bytes (d.addr + i * d.stride + j) =
        BitVec.ofNat 8 ((d.snap.getD (16 * i + j / 4) 0).toNat / 2 ^ (8 * (j % 4)))) ∧
      ∀ sp' o' y, ¬(sameSpace sp sp' owner o' ∧ ∃ i < 32, d.addr + i * d.stride ≤ y ∧ y < d.addr + i * d.stride + 64) →
        memGet (t.mem sp' o').bytes y = memGet (s.mem sp' o').bytes y

/-! ## Class L: windows, transfers and rings -/

namespace Sys2Proof

/-- WREG takes the free entry freed longest ago for each lane that executes, and gives its handle, or 0 when none is left; WREG.RE
reopens the team's closed window; WDEREG drains the team's window and waits; a draining entry with no arrival in flight becomes free and
its waiting threads get status 1 (R337–R340). -/
def windowWords : Prop :=
  ∀ (g : Guard) (d base h : Operand) (space : DSpace) (w r : Bool) (sz : BitVec 5), let sp := drainSpace space
    (∀ s : State, let i : Instr := .wreg g d base space w r sz
      let b := fun l => (s.src l base 64).toNat
      s.canRun i = true → s.memsWf = true → s.freeWins.Nodup →
      ((∀ l ∈ exec1 s g, b l % 256 = 0 ∧ s.inSpace sp (b l) (2 ^ sz.toNat) = true) → runsTo i s fun t =>
        t = { s with threads := t.threads, nextId := t.nextId, wins := t.wins, winNext := t.winNext, winFreed := t.winFreed } ∧
        t.freeWins = s.freeWins.drop (exec1 s g).length ∧
        (∀ k l : Nat, (exec1 s g)[k]? = some l →
          match s.freeWins[k]? with
          | some n =>
            let gen := (s.win n).gen % 2047 + 1
            (s.lt l).WroteD (t.lt l) s d ((BitVec.ofNat 32 (s.accid.toNat * 2 ^ 23 + n * 2 ^ 11 + gen)).setWidth 64) ∧
              t.win n = { arrived := 0, base := b l, st := .opened, space := sp, w, r, sz := sz.toNat, gen, team := s.ig.team }
          | none => (s.lt l).WroteD (t.lt l) s d 0) ∧
        (∀ n, n ∉ s.freeWins.take (exec1 s g).length → t.win n = s.win n) ∧
        ∀ n, (∀ l ∈ exec1 s g, n ≠ s.ig.t0 + l) → t.thread n = s.thread n) ∧
      ((∀ l ∈ exec1 s g, b l % 256 ≠ 0) → runsTo i s fun t => t = (s.faultLanes (exec1 s g) fun _ => (0x02, 0)).finish) ∧
      ((∀ l ∈ exec1 s g, b l % 256 = 0 ∧ s.inSpace sp (b l) (2 ^ sz.toNat) = false) → runsTo i s fun t =>
        t = (s.faultLanes (exec1 s g) fun l => (0x08, permInfo sp.code (b l))).finish)) ∧
    (∀ s : State, let i : Instr := .wregRe g d
      let hd := fun l => (s.src l d 32).setWidth 32
      s.canRun i = true → s.memsWf = true → ((exec1 s g).map hd).Nodup → runsTo i s fun t =>
        t = { s with threads := t.threads, nextId := t.nextId, wins := t.wins } ∧
        (∀ l ∈ exec1 s g,
          (∀ n, s.holds (hd l) n [.closed] → (s.lt l).WroteD (t.lt l) s d ((hd l).setWidth 64) ∧
            t.win n = { s.win n with st := .opened }) ∧
          ((∀ n, ¬ s.holds (hd l) n [.closed]) → (s.lt l).WroteD (t.lt l) s d 0)) ∧
        (∀ n, (∀ l ∈ exec1 s g, ¬ s.holds (hd l) n [.closed]) → t.win n = s.win n) ∧
        ∀ n, (∀ l ∈ exec1 s g, n ≠ s.ig.t0 + l) → t.thread n = s.thread n) ∧
    (∀ s : State, let i : Instr := .wdereg g d h
      let hd := fun l => (s.src l h 32).setWidth 32
      s.canRun i = true → s.memsWf = true → ((exec1 s g).map hd).Nodup → runsTo i s fun t =>
        t = { s with threads := t.threads, nextId := t.nextId, wins := t.wins } ∧
        (∀ l ∈ exec1 s g,
          (∀ n, s.holds (hd l) n [.opened, .closed] →
            (∃ p, t.lt l = s.waiting ((s.lt l).reserved s d p) (.wdereg n p)) ∧ t.win n = { s.win n with st := .draining }) ∧
          ((∀ n, ¬ s.holds (hd l) n [.opened, .closed]) → (s.lt l).WroteD (t.lt l) s d 0)) ∧
        (∀ n, (∀ l ∈ exec1 s g, ¬ s.holds (hd l) n [.opened, .closed]) → t.win n = s.win n) ∧
        ∀ n, (∀ l ∈ exec1 s g, n ≠ s.ig.t0 + l) → t.thread n = s.thread n) ∧
    ∀ (s : State) (n : Nat), s.memsWf = true → (s.win n).st = .draining →
      (∀ a ∈ s.arrs, a.handle.toNat / 2 ^ 11 % 4096 = n → a.st = .held ∨ a.st = .sent ∨ a.st = .done ∨ ∃ k, a.st = .refusal k) →
      runsTo (.windowFree n) s fun t =>
        t = { s with threads := t.threads, wins := t.wins, winFreed := s.winFreed ++ [n] } ∧
        t.win n = { s.win n with st := .free } ∧ (∀ k, k ≠ n → t.win k = s.win k) ∧
        ∀ k, t.thread k = match (s.thread k).wait with
          | .wdereg x p => if x = n then s.released ((s.thread k).given p 1) else s.thread k
          | _ => s.thread k

/-- WCNT reads a window's ARRIVED or a send counter's DONE or REFUSED; another team's handle faults with its number; WWAIT waits with D
pending, for the entry or counter and the threshold that D held (R348, R349). -/
def remoteCountersAndWaits : Prop :=
  ∀ (g : Guard) (d h : Operand) (c : BitVec 4),
    let all : List WinSt := [.opened, .closed, .draining]
    let hd := fun (s : State) (l : Nat) => (s.src l h 32).setWidth 32
    let n := fun (s : State) (l : Nat) => (s.src l d 32).setWidth 32
    (∀ (s : State) (w : Nat → Nat), s.canRun (.wcntW g d h) = true → (∀ l ∈ exec1 s g, s.holds (hd s l) (w l) all) →
      runsTo (.wcntW g d h) s fun t => LanesDo s t fun l a b =>
        if s.guardHolds l g then a.WroteD b s d ((s.win (w l)).arrived.setWidth 64) else b = a) ∧
    (∀ s : State, s.canRun (.wcntDone g d c) = true → runsTo (.wcntDone g d c) s fun t => LanesDo s t fun l a b =>
      if s.guardHolds l g then a.WroteD b s d (BitVec.ofNat 64 ((s.sndc s.ig.team c.toNat).toNat % 2 ^ 32)) else b = a) ∧
    (∀ s : State, s.canRun (.wcntRef g d c) = true → runsTo (.wcntRef g d c) s fun t => LanesDo s t fun l a b =>
      if s.guardHolds l g then a.WroteD b s d (BitVec.ofNat 64 ((s.sndc s.ig.team c.toNat).toNat / 2 ^ 32 % 2 ^ 24)) else b = a) ∧
    (∀ (s : State) (w : Nat → Nat), s.canRun (.wwaitW g d h) = true → (∀ l ∈ exec1 s g, s.holds (hd s l) (w l) all) →
      runsTo (.wwaitW g d h) s fun t => LanesDo s t fun l a b =>
        if s.guardHolds l g then ∃ p, b = s.waiting (a.reserved s d p) (.arrivals (w l) (n s l) p) else b = a) ∧
    (∀ s : State, s.canRun (.wwaitSnd g d c) = true → runsTo (.wwaitSnd g d c) s fun t => LanesDo s t fun l a b =>
      if s.guardHolds l g then ∃ p, b = s.waiting (a.reserved s d p) (.sends c.toNat (n s l) p) else b = a) ∧
    ∀ i ∈ [Instr.wcntW g d h, .wwaitW g d h], ∀ s : State, s.canRun i = true →
      (∀ l ∈ exec1 s g, ∀ k, ¬ s.holds (hd s l) k all) →
      runsTo i s fun t => t = (s.faultLanes (exec1 s g) fun l => (0x08, permInfo 7 (s.src l h 32).toNat)).finish

end Sys2Proof

/-- Windows open, close and drain; counters are read and waited on (R337–R340, R348, R349). -/
def Obligations.WindowsAndCounters : Prop := windowWords ∧ remoteCountersAndWaits

namespace Sys2Proof

/-- Words that start one transfer in each lane (R343): its operation waits for its range-lock entries, its arrivals are held, one for
each destination, and its thread waits; a control word, an address or an offset against R343 is an illegal operand. -/
def startsXfers (i : Instr) (get multi : Bool) (loc rem ctl : Operand) : Prop :=
  ∀ s : State, s.canRun i = true →
    let a := fun l => (s.src l loc 64).toNat
    let x := fun l => (s.src l rem 64).toNat
    let c := fun l => (s.src l ctl 32).toNat
    let n := fun l => c l % 2 ^ 20 + 1
    let cnt := fun l => c l / 2 ^ 24 % 32
    let bad := fun l => c l / 2 ^ 29 ≠ 0 ∨ (cnt l ≠ 0 ∧ multi = false) ∨ n l % 4 ≠ 0 ∨ a l % 4 ≠ 0 ∨
      (if multi then x l % 8 ≠ 0 else x l % 2 ^ 32 % 4 ≠ 0)
    let sp : Space := if loc.x then .core else .glob
    ((∀ l ∈ exec1 s i.guard, ¬ bad l ∧ s.xferCheck loc.x (a l) (n l) get = none ∧
        (multi = true → s.xferCheck false (x l) (8 * (cnt l + 1)) false = none)) →
      runsTo i s fun t => ∃ (os : List EngOp) (as : List Arrival),
        t = { s with threads := t.threads, ops := s.ops ++ os, arrs := s.arrs ++ as, nextId := t.nextId } ∧
        os.length = (exec1 s i.guard).length ∧ (os.map (·.id)).Nodup ∧ (∀ o ∈ os, s.nextId ≤ o.id ∧ o.id < t.nextId) ∧
        (∀ b ∈ as, ∃ o ∈ os, b.op = some o.id) ∧
        (∀ (k l : Nat) (o : EngOp), (exec1 s i.guard)[k]? = some l → os[k]? = some o →
          o.thread = s.ig.t0 + l ∧ o.lanes = laneSet [l] ∧ o.team = s.ig.team ∧ o.core = s.icore ∧ o.asid = s.iasid ∧ o.st = .locking ∧
          o.want = (if get || loc.x then [(get, sp, s.spaceOwner sp, a l, n l)] else []) ∧
          o.kind = .xfer { get, core := loc.x, addr := a l, len := n l, list := if multi then some (x l) else none, cnt := cnt l,
                           ctr := c l / 2 ^ 20 % 16, sent := false, left := cnt l + 1 } ∧
          t.lt l = s.waiting (s.lt l) (.lock o.id) ∧
          (as.filter fun b => b.op == some o.id).map (fun b => (b.handle, b.off, b.get, b.len, b.st)) =
            List.replicate (cnt l + 1) (BitVec.ofNat 32 (x l / 2 ^ 32), x l % 2 ^ 32, get, n l, ArrSt.held)) ∧
        ∀ k, (∀ l ∈ exec1 s i.guard, k ≠ s.ig.t0 + l) → t.thread k = s.thread k) ∧
    ((∀ l ∈ exec1 s i.guard, bad l) → runsTo i s fun t => t = (s.faultLanes (exec1 s i.guard) fun _ => (0x02, 0)).finish)

end Sys2Proof

/-- PUT, PUTM and GET start a transfer in each lane, one arrival to each destination (R343). The model's choices in it: log entry
22. -/
def Obligations.TransferWordsStart : Prop :=
  ∀ (g : Guard) (a b c : Operand), startsXfers (.put g a b c) false false a b c ∧ startsXfers (.putm g a b c) false true a b c ∧
    startsXfers (.get g a b c) true false a b c

/-- An arrival at this module is judged in the order of Table 14.5; an accepted one lands its bytes in its window, counts them in
ARRIVED and gives up its lock; its acknowledgement counts DONE at its sender, its refusal REFUSED with its status (R342, R345).
The model's choices in it: log entries 26 and 27. -/
def Obligations.ArrivalsAndTransfersEnd : Prop :=
  (∀ (s : State) (id : Nat) (a : Arrival), s.arrOf id = some a → a.st = .sent → a.handle.toNat / 2 ^ 23 = s.accid.toNat →
    let w := s.win (a.handle.toNat / 2 ^ 11 % 4096)
    let st : Option Nat :=
      if 288 ≤ s.accid.toNat then some 5
      else if w.st = .free ∨ w.st = .draining ∨ w.gen ≠ a.handle.toNat % 2 ^ 11 then some 2
      else if w.st = .closed then some 1
      else if 2 ^ w.sz < a.off + a.len then some 3
      else if (a.get = false ∧ w.w = false) ∨ (a.get = true ∧ w.r = false) then some 4
      else none
    runsTo (.arrivalAccept id) s fun t => t = { s with arrs :=
      match st, a.op with
      | some _, none => s.arrs.filter fun b => b.id != id
      | some k, some _ => s.arrs.map fun b => if b.id = id then { b with st := .refusal k } else b
      | none, _ => s.arrs.map fun b => if b.id = id then { b with st := .accepted } else b }) ∧
  (∀ (s s' : State) (id : Nat) (a : Arrival) (x : List (Nat × Nat)) (got : List Byte),
    let n := a.handle.toNat / 2 ^ 11 % 4096
    let w := s.win n
    let o := s.winPlace w a.off
    s.arrOf id = some a → a.st = .landing → a.more = false → s.memsWf = true →
    (if a.get then ∃ q, s.readRange (s.arrWho w) w.space o.1 o.2 a.len = (.ok got q, x, s')
     else ∃ q, s.writeRange (s.arrWho w) w.space o.1 o.2 a.bytes a.pz = (.ok got q, s')) →
    runsTo (.arrivalLand id) s fun t =>
      t = { s' with wins := t.wins, arrs := t.arrs, ports := t.ports, wire := t.wire, tick := t.tick, locks := s'.locks.filter fun k => k.op != id } ∧
      (a.op ≠ none ∨ a.get = false ∨ a.late = true → t.ports = s'.ports ∧ t.wire = s'.wire ∧ t.tick = s'.tick) ∧
      (∀ k, t.win k = if k = n ∧ a.get = false then { s.win n with arrived := (s.win n).arrived + 1 } else s.win k) ∧
      (a.op ≠ none ∨ a.get = false ∨ a.late = true → t.arrs = ((s'.arrs.map fun b => if b.id = id then
          (if a.get then { b with bytes := got, pz := x, st := .done } else { b with st := .done }) else b).filter fun b =>
        !(a.op == none && b.id == id))) ∧
      (∀ b, b.id ≠ id → (b ∈ t.arrs ↔ b ∈ s'.arrs)) ∧
      (w.space = .core ∨ w.space = .chip → s' = { s with teams := s'.teams, chip := s'.chip } ∧
        (a.get = true → s' = s ∧ got = (s.mem w.space o.1).read o.2 a.len) ∧
        (a.get = false → a.pz = [] → s.owns w.space o.1 → storesBytes s t w.space o.1 o.2 a.bytes false))) ∧
  (∀ (s : State) (id : Nat) (a : Arrival) (o : EngOp) (x : XferOp), s.flight id = some (a, o, x) → o.team < s.teams.length →
    x.ctr < (s.team o.team).sndc.length →
    (x.get = false → a.st = .done ∨ (s.remoteOk a = true ∧ a.more = false) →
      runsTo (.transferComplete id) s fun t => Counted s t a o x sentDone) ∧
    (∀ s' bs q, x.get = true → a.st = .done ∨ (s.remoteOk a = true ∧ a.more = false) → o.st = .run → s.opGap o = false →
      let sp := o.xferSpace x
      s.opWaits o sp.1 sp.2 x.addr x.len = false → s.next.writeRange (o.who false) sp.1 sp.2 x.addr a.bytes a.pz = (.ok bs q, s') →
      runsTo (.transferComplete id) s fun t => Counted s' t a o x sentDone) ∧
    (∀ k, a.st = .refusal k → k < 8 → runsTo (.transferRefused id) s fun t => Counted s t a o x (sentRefused k)) ∧
    (a.st = .sent → a.handle.toNat / 2 ^ 23 ≠ s.accid.toNat →
      (s.remoteOk a = false → runsTo (.transferRefused id) s fun t => Counted s t a o x (sentRefused 5)) ∧
      (s.remoteOk a = true → runsTo (.transferRefused id) s fun t =>
        ∃ k, 1 ≤ k ∧ k ≤ (if x.get then 5 else 6) ∧ Counted s.next t a o x (sentRefused k))))

/-- RSEND sends the messages of the lanes that name one ring as one access of the receiver's scratchpad, each with its status
pending; its performance judges each by Table 14.10 and appends it; RWAIT waits with D pending; RADV moves HEAD past min(n, TAIL −
HEAD) messages (R352–R354). The model's choices in it: log entries 19 and 25. -/
def Obligations.RingWords : Prop :=
  (∀ (g : Guard) (m dst : Operand) (size : BitVec 2) (q : Sel) (s : State),
    let i : Instr := .rsend g m dst size q
    let v := fun l => (s.src l dst 64).toNat
    let cl := s.cluster (s.team s.ig.team).cluster
    let n := 8 * 2 ^ size.toNat
    let sl := fun l j => ((s.lt l).slice (((s.lt l).locate s.gs m (2 * n)).getD j 0)).v.toNat
    let bad := fun l => v l / 2 ^ 36 ≠ 0 ∨ cl.nt ≤ v l / 2 ^ 32 ∨ v l % 16 ≠ 0
    s.canRun i = true →
    ((∀ l ∈ exec1 s g, ¬ bad l ∧ s.corePoison (cl.t0 + v l / 2 ^ 32) (v l % 2 ^ 32) 16 = none) →
      runsTo i s fun t => ∃ (p : Nat → Nat) (as : List Acc),
      t = { s with threads := t.threads, accs := s.accs ++ as, nextId := t.nextId } ∧
      (∀ l ∈ exec1 s g, t.lt l = (s.lt l).reserved s { w := .w4, x := false, sel := q } (p l)) ∧
      (∀ a ∈ as, a.issued s) ∧
      (as.map fun a => (a.thread, a.what)) = ((exec1 s g).map v).eraseDups.map (fun k =>
        let mine := (exec1 s g).filter fun l => v l == k
        (s.ig.t0 + mine.headD 0, .core, cl.t0 + k / 2 ^ 32, k % 2 ^ 32, 16,
          AccOp.ring size.toNat (s.team s.ig.team).ti (mine.map fun l =>
            (s.ig.t0 + l, (List.range n).map (fun j => BitVec.ofNat 8 (sl l (2 * j) + 16 * sl l (2 * j + 1))), p l)), none, 0, 0)) ∧
      ∀ k, (∀ l ∈ exec1 s g, k ≠ s.ig.t0 + l) → t.thread k = s.thread k) ∧
    ((∀ l ∈ exec1 s g, bad l) → runsTo i s fun t => t = (s.faultLanes (exec1 s g) fun _ => (0x02, 0)).finish) ∧
    ∀ f : Nat → Word, (∀ l ∈ exec1 s g, ¬ bad l ∧ s.corePoison (cl.t0 + v l / 2 ^ 32) (v l % 2 ^ 32) 16 = some (f l)) →
      runsTo i s fun t => t = (s.faultLanes (exec1 s g) fun l => (0x0B, f l)).finish) ∧
  (∀ (s : State) (id size prod n p : Nat) (a : Acc) (bs : List Byte), s.isDue id a → a.op = .ring size prod [(n, bs, p)] →
    a.space = .core → s.memsWf = true → a.owner < s.teams.length → n < s.threads.length → bs.length = 8 * 2 ^ size →
    s.corePoison a.owner a.addr 16 = none →
    let r := s.ringAt a.owner a.addr
    let slot := r.base + r.tail % 2 ^ r.logn * (8 * 2 ^ r.sz)
    let locked := fun x k => (s.lockConflict (s.team a.owner).core .core a.owner x k false).isSome = true
    let st := if (s.cluster (s.team a.owner).cluster).out = true then 4 else if locked a.addr 16 then 5
      else if s.scrBytes a.owner < a.addr + 16 ∨ r.bad = true ∨ r.sz ≠ size then 3 else if r.prod ≠ prod then 2
      else if r.count = 2 ^ r.logn then 1 else if locked slot (8 * 2 ^ r.sz) then 5 else 0
    runsTo (.storePerformed id) s fun t =>
      t = { s with threads := t.threads, teams := t.teams, rings := t.rings, accs := s.accs.filter fun x => x.id != id } ∧
      (∀ x, x ∈ t.rings ↔ x ∈ s.rings ∨ (st = 0 ∧ x = (a.owner, a.addr))) ∧
      t.thread n = (s.thread n).given p (BitVec.ofNat 64 st) ∧ (∀ k, k ≠ n → t.thread k = s.thread k) ∧
      (st ≠ 0 → t.teams = s.teams) ∧
      (st = 0 → (∀ k, k ≠ a.owner → t.team k = s.team k) ∧
        t.team a.owner = { s.team a.owner with scratch := (t.team a.owner).scratch } ∧
        ∀ x, memGet (t.team a.owner).scratch.bytes x =
          if a.addr + 4 ≤ x ∧ x < a.addr + 8 then (natLe 4 ((r.tail + 1) % 2 ^ 32)).getD (x - (a.addr + 4)) 0
          else if slot ≤ x ∧ x < slot + bs.length then bs.getD (x - slot) 0
          else memGet (s.team a.owner).scratch.bytes x)) ∧
  (∀ (g : Guard) (d hdr : Operand) (s : State), let i : Instr := .rwait g d hdr
    let off := fun l => (s.src l hdr 32).toNat
    s.canRun i = true →
    ((∀ l ∈ exec1 s g, (s.ringCheck l (off l) false).isNone) → runsTo i s fun t => LanesDo s t fun l a b =>
      if s.guardHolds l g then
        ∃ p, b = s.waiting (a.reserved s d p) (.ring (off l) ((s.src l d 32).setWidth 32) p)
      else b = a) ∧
    ((∀ l ∈ exec1 s g, off l % 16 ≠ 0) → runsTo i s fun t => t = (s.faultLanes (exec1 s g) fun _ => (0x02, 0)).finish)) ∧
  ∀ (g : Guard) (hdr n : Operand) (s : State), let i : Instr := .radv g hdr n
    let off := fun l => (s.src l hdr 32).toNat
    let r := fun l => s.ringAt s.ig.team (off l)
    s.canRun i = true → (∀ l ∈ exec1 s g, s.fenceOk (s.ig.t0 + l) 1 = true) →
    (s.memsWf = true → s.ig.team < s.teams.length → ((exec1 s g).map off).Nodup →
      (∀ l ∈ exec1 s g, (s.ringCheck l (off l) true).isNone) → runsTo i s fun t =>
        t = { s with teams := t.teams } ∧ (∀ k, k ≠ s.ig.team → t.team k = s.team k) ∧
        t.team s.ig.team = { s.team s.ig.team with scratch := (t.team s.ig.team).scratch } ∧
        (∀ l ∈ exec1 s g, leNat ((t.team s.ig.team).scratch.read (off l) 4) =
          ((r l).head + min (s.src l n 32).toNat (r l).count) % 2 ^ 32) ∧
        ∀ x, (∀ l ∈ exec1 s g, ¬(off l ≤ x ∧ x < off l + 4)) →
          memGet (t.team s.ig.team).scratch.bytes x = memGet (s.team s.ig.team).scratch.bytes x) ∧
    ((∀ l ∈ exec1 s g, off l % 16 ≠ 0) → runsTo i s fun t => t = (s.faultLanes (exec1 s g) fun _ => (0x02, 0)).finish)

/-! ## Classes M, N and O: requests -/

/-- The words of classes M, N and O that ask the sequence table, a walker or the scheduler queue one request in each lane, with
the operands as read at issue and D pending; KVAPP, GRMASK, LAUNCH and LDEP.ADD once their addresses are in order and their data
read (R369, R373–R377, R404–R414, R434–R439). The model's choices in it: log entry 22 (a lane of GRMASK waits for its lock). -/
def Obligations.RequestWords : Prop :=
  ∀ (g : Guard) (d a b : Operand) (c : BitVec 5) (x : Bool) (q : SeqQuery),
    let w := fun (s : State) (l : Nat) (o : Operand) => s.src l o 64
    let h := fun (s : State) (l : Nat) (o : Operand) => (s.src l o 32).setWidth 32
    let words : List (Instr × (State → Nat → ReqKind)) :=
      [(.kvmap g d a, fun s l => .kvmap (w s l a)), (.kvalloc g d a x, fun s l => .kvalloc (h s l a) x),
       (.kvfree g d a, fun s l => .kvfree (h s l a)), (.kvfork g d a b, fun s l => .kvfork (h s l a) (h s l b)),
       (.kvcommit g d a b, fun s l => .kvcommit (h s l a) (h s l b)), (.kvtrim g d a b, fun s l => .kvtrim (h s l a) (h s l b)),
       (.grinit g d a b, fun s l => .grinit (w s l a) (w s l b)), (.grckptSave g d a c, fun s l => .grckptSave (h s l a) c.toNat),
       (.grckptRel g d a c, fun s l => .grckptRel (h s l a) c.toNat), (.grckptRelall g d a, fun s l => .grckptRelall (h s l a)),
       (.grroll g d a c, fun s l => .grroll (h s l a) c.toNat), (.grfork g d a, fun s l => .grfork (h s l a)),
       (.grstat g d a x, fun s l => .grstat (h s l a) x), (.squash g d a b, fun s l => .squash (h s l a) (h s l b)),
       (.sqsetEntry g d a, fun s l => .sqsetEntry (s.lt l).dtag (w s l a)), (.sqsetUnreg g d, fun s l => .sqsetUnreg (s.lt l).dtag),
       (.ldepGo g d, fun s l => .ldepGo (h s l d)), (.lquery g d a, fun s l => .lquery (h s l a)),
       (.seqadm g d a, fun s l => .seqadm (w s l a)), (.seqret g d a, fun s l => .seqret (h s l a)),
       (.seqinfo g d a q, fun s l => .seqinfo (h s l a) q)]
    (∀ y ∈ words, requests y.1 d (fun _ _ => True) y.2) ∧
    requests (.kvapp g d a b) d
      (fun s l => let o := (s.src l b 32).toNat
        o % 4 = 0 ∧ s.inSpace .core o 1024 = true ∧ s.ownPending (s.ig.t0 + l) .core s.ig.team o 1024 = false ∧
          s.lockFault .core o 1024 false = none ∧ s.corePoison s.ig.team o 1024 = none)
      (fun s l => .kvapp (w s l a) ((s.team s.ig.team).scratch.read (s.src l b 32).toNat 1024)) ∧
    (∀ (s s' : State) (l : Nat) (bs : List Byte), let i : Instr := .launch g d a
      let v := (s.src l a 64).toNat
      s.canRun i = true → exec1 s g = [l] → s.fenceOk (s.ig.t0 + l) 7 = true → s.schedAddr v 64 256 = none →
      s.issueRead [l] l v 256 = (.ok bs, s') → runsTo i s fun t => ReadsOnly s s' ∧
        t = { s' with threads := t.threads, reqs := t.reqs, nextId := t.nextId } ∧
        (∃ r, t.reqs = s.reqs ++ [r] ∧ r.thread = s.ig.t0 + l ∧ r.kind = .launch bs s.ir.prio.toNat ∧
          t.lt l = (s'.lt l).reserved s d r.pend) ∧
        ∀ n, n ≠ s.ig.t0 + l → t.thread n = s'.thread n) ∧
    (∀ (s s' : State) (l : Nat) (bs : List Byte), let i : Instr := .ldepAdd g d a
      let v := (s.src l a 64).toNat
      s.canRun i = true → exec1 s g = [l] → s.schedAddr v 16 16 = none →
      s.issueRead [l] l v 16 = (.ok bs, s') → runsTo i s fun t => ReadsOnly s s' ∧
        t = { s' with threads := t.threads, reqs := t.reqs, nextId := t.nextId } ∧
        (∃ r, t.reqs = s.reqs ++ [r] ∧ r.thread = s.ig.t0 + l ∧
          r.kind = .ldepAdd (h s l d) (leNat (bs.take 8)) (leNat (bs.drop 8)) ∧ t.lt l = (s'.lt l).reserved s d r.pend) ∧
        ∀ n, n ≠ s.ig.t0 + l → t.thread n = s'.thread n) ∧
    (∀ s : State, let i : Instr := .grmask g d a b
      let o := fun l => (s.src l b 32).toNat
      s.canRun i = true →
      ((∀ l ∈ exec1 s g, o l % 32 = 0 ∧ s.inSpace .core (o l) 32768 = true) → (∀ x ∈ s.ops, x.id < s.nextId) →
        runsTo i s fun t => ∃ (os : List EngOp) (rs : List SeqReq),
          t = { s with threads := t.threads, ops := s.ops ++ os, reqs := s.reqs ++ rs, nextId := t.nextId } ∧
          os.length = (exec1 s g).length ∧ rs.length = (exec1 s g).length ∧
          (∀ (k l : Nat) (e : EngOp) (r : SeqReq), (exec1 s g)[k]? = some l → os[k]? = some e → rs[k]? = some r →
            e.thread = s.ig.t0 + l ∧ e.want = [(true, .core, s.ig.team, o l, 32768)] ∧ e.st = .locking ∧ e.kind = .mask r.id ∧
            r.thread = s.ig.t0 + l ∧ r.kind = .grmask (h s l a) (o l) e.id ∧
            t.lt l = (s.waiting (s.lt l) (.lock e.id)).reserved s d r.pend) ∧
          ∀ k, (∀ l ∈ exec1 s g, k ≠ s.ig.t0 + l) → t.thread k = s.thread k) ∧
      ((∀ l ∈ exec1 s g, o l % 32 ≠ 0) → runsTo i s fun t => t = (s.faultLanes (exec1 s g) fun _ => (0x02, 0)).finish)) ∧
    ∀ (p : PredBit) (s : State), let i : Instr := .gradv g d a p
      s.canRun i = true → runsTo i s fun t =>
        t = { s with threads := t.threads, reqs := t.reqs, nextId := t.nextId } ∧
        QueueDo s t State.reqs SeqReq.thread fun l y z rs =>
          if s.guardHolds l g then ∃ r n, rs = [r] ∧ r.kind = .gradv (w s l a) p (y.slice p.slice.toNat).v n ∧
            z = (y.addPend { id := n, slices := [p.slice.toNat], vals := [], known := false }).reserved s d r.pend
          else z = y ∧ rs = []

/-- ATTN starts one operation in each lane with the descriptor and query as read at issue; ATTNWAIT writes its bit if the
operation has ended and waits otherwise; SQSET.TAG and SQSET.OFF change DTAG at issue; HCALL asks the firmware and waits for its
answer (R379, R385, R400, R414, R465). The model's choices in it: log entries 22 and 25. -/
def Obligations.AttentionTagsAndCalls : Prop :=
  (∀ (g : Guard) (d key desc : Operand) (s : State) (f : Nat → AttnOp), let i : Instr := .attn g d key desc
    s.canRun i = true →
    (∀ l ∈ exec1 s g, s.attnCheck l (s.src l key 64) (s.src l desc 32).toNat = .inr (f l)) →
    runsTo i s fun t => ∃ os : List EngOp,
      t = { s with threads := t.threads, ops := s.ops ++ os, nextId := t.nextId } ∧ os.length = (exec1 s g).length ∧
      (∀ (k l : Nat) (o : EngOp), (exec1 s g)[k]? = some l → os[k]? = some o → ∃ p,
        o.thread = s.ig.t0 + l ∧ o.lanes = laneSet [l] ∧ o.st = .locking ∧ o.kind = .attn { f l with pend := p } ∧
        o.want = [(true, .core, s.ig.team, (f l).desc, 64), (true, .core, s.ig.team, (f l).out, 520)] ∧
        t.lt l = s.waiting ((s.lt l).reserved s d p) (.lock o.id)) ∧
      ∀ k, (∀ l ∈ exec1 s g, k ≠ s.ig.t0 + l) → t.thread k = s.thread k) ∧
  (∀ (g : Guard) (d key desc : Operand) (s : State), let i : Instr := .attn g d key desc
    s.canRun i = true → (∀ l ∈ exec1 s g, (s.src l desc 32).toNat % 64 ≠ 0) →
    runsTo i s fun t => t = (s.faultLanes (exec1 s g) fun _ => (0x02, 0)).finish) ∧
  (∀ (g : Guard) (q : PredBit) (desc : Operand) (s : State), let i : Instr := .attnwait g q desc
    let off := fun l => (s.src l desc 32).toNat
    let n := q.slice.toNat
    s.canRun i = true →
    (∀ l ∈ exec1 s g, s.inSpace .core (off l) 64 = true ∧ s.ownPending (s.ig.t0 + l) .core s.ig.team (off l) 64 = false ∧
      s.corePoison s.ig.team (off l) 64 = none) →
    runsTo i s fun t => LanesDo s t fun l a b =>
      let v := leNat ((s.team s.ig.team).scratch.read (off l) 64)
      if s.guardHolds l g then
        (if v / 2 ^ 256 % 2 = 0 then
          a.Wrote b a [n] [{ v := predBitSet (a.slice n).v q .set (v / 2 ^ 257 % 2 = 1), poison := false }]
         else b = s.waiting a (.attn q (off l)))
      else b = a) ∧
  (∀ (g : Guard) (d a : Operand) (s : State), let i : Instr := .sqsetTag g d a
    s.canRun i = true → runsTo i s fun t => LanesDo s t fun l x y =>
      let v := s.src l a 64
      if s.guardHolds l g then
        (if v.toNat / 2 ^ 36 % 2 ^ 28 ≠ 0 then x.WroteD y s d 4 else { x with dtag := v ||| 0x8000000000000000 }.WroteD y s d 0)
      else y = x) ∧
  (∀ (g : Guard) (d : Operand) (s : State), let i : Instr := .sqsetOff g d
    s.canRun i = true → runsTo i s fun t => LanesDo s t fun l x y =>
      if s.guardHolds l g then { x with dtag := x.dtag &&& 0x7FFFFFFFFFFFFFFF }.WroteD y s d 0 else y = x) ∧
  (∀ (g : Guard) (d a : Operand) (svc : BitVec 8) (s : State), let i : Instr := .hcall g d a svc
    s.canRun i = true → (∀ l ∈ exec1 s g, s.fenceOk (s.ig.t0 + l) 7 = true) → runsTo i s fun t =>
      t = { s with threads := t.threads, hcalls := t.hcalls, nextId := t.nextId } ∧
      QueueDo s t State.hcalls HCall.thread fun l x y hs =>
        if s.guardHolds l g then ∃ h, hs = [h] ∧ h.svc = svc.toNat ∧ h.arg = s.src l a 64 ∧
          y = s.waiting (x.reserved s d h.pend) (.hcall h.id)
        else y = x ∧ hs = []) ∧
  ∀ (s : State) (id : Nat) (h : HCall), s.hcalls.find? (fun x => x.id == id) = some h → h.thread < s.threads.length → ∃ v,
    (h.svc = 2 → v = 0) ∧ (3 ≤ h.svc → v = 0xFFFFFFFFFFFFFFFF) ∧ (h.svc = 0 → v = 0xB00100 ||| (Config.fwMin s.flash).setWidth 64) ∧
    runsTo (.hcallAnswer id) s fun t =>
      t = { s with threads := t.threads, hcalls := s.hcalls.filter (fun x => x.id != id), evlog := t.evlog, elcnt := t.elcnt,
                   ellost := t.ellost, vectors := t.vectors, tick := t.tick } ∧
      t.thread h.thread = s.released ((s.thread h.thread).given h.pend v) ∧ (∀ n, n ≠ h.thread → t.thread n = s.thread n) ∧
      (h.svc = 2 → Logged s t 3 h.arg) ∧ (h.svc ≠ 2 → t.evlog = s.evlog ∧ t.elcnt = s.elcnt)

namespace Sys2Proof

/-- The turn of a queued request has come. -/
def mayServe (s : State) (r : SeqReq) : Prop :=
  s.reqs.find? (fun x => x.id == r.id) = some r ∧ s.reqDue r = true ∧ s.memsWf = true

/-- Sequence n is admitted in the request's ASID, as q. -/
def admits (s : State) (r : SeqReq) (n : Nat) (q : Seq) : Prop := s.seq n = some q ∧ q.asid = r.asid

/-- The request is answered with v and changes nothing; u is the state after what it reads. -/
def answers (s u : State) (r : SeqReq) (v : Nat) : Prop :=
  runsTo (.sequenceRequestComplete r.id) s fun t =>
    Answered u t r (BitVec.ofNat 64 v) ∧ t.seqs = u.seqs ∧ t.grids = u.grids ∧ t.gnodes = u.gnodes

/-- The request is answered with v, and sequence n becomes q. -/
def serves (s u : State) (r : SeqReq) (v n : Nat) (q : Option Seq) : Prop :=
  runsTo (.sequenceRequestComplete r.id) s fun t => Answered u t r (BitVec.ofNat 64 v) ∧ t.grids = u.grids ∧ seqBecomes u t n q

/-- KVMAP reports the page, row and planes of a position, and changes nothing (R373). -/
def kvmapServed : Prop :=
  ∀ (s : State) (r : SeqReq) (key : Word), mayServe s r → r.kind = .kvmap key →
    let k := kvKey key
    (s.seq k.seq = none → answers s s r (3 * 2 ^ 32)) ∧
    ∀ q, admits s r k.seq q → (q.evicted = true → answers s s r (6 * 2 ^ 32)) ∧ (q.evicted = false →
      let bad := k.mbz ≠ 0 ∨ k.h ≠ 0 ∨ q.nl * q.np ≤ k.stream ∨ q.wm.getD k.stream 0 ≤ k.pos
      (bad → answers s s r (4 * 2 ^ 32)) ∧
      ∀ p, ¬ bad → q.page k.stream (k.pos / 64) = some p →
        answers s s r (p + k.pos % 64 * 2 ^ 22 + s.pagePl p * 2 ^ 28))

/-- KVFORK gives an empty destination the source's first n positions; its path shares the source's nodes that cover positions below n,
and has at most three new ones (R366, R375). -/
def kvforkServed : Prop :=
  ∀ (s : State) (r : SeqReq) (a n : W32), mayServe s r → r.kind = .kvfork a n →
    let f := a.toNat % 65536
    let g := a.toNat / 65536
    (s.seq f = none ∨ s.seq g = none → answers s s r 3) ∧
    ∀ x y, admits s r f x → admits s r g y → (x.evicted = true ∨ y.evicted = true → answers s s r 6) ∧
      (x.evicted = false → y.evicted = false →
        let bad := x.nl ≠ y.nl ∨ x.np ≠ y.np ∨ x.lc < n.toNat
        let full := y.lc ≠ 0 ∨ (∃ w ∈ y.wm, w ≠ 0) ∨ y.refs ≠ []
        (f = g → answers s s r 7) ∧ (f ≠ g → bad → answers s s r 4) ∧ (f ≠ g → ¬ bad → full → answers s s r 7) ∧
        (f ≠ g → ¬ bad → ¬ full → runsTo (.sequenceRequestComplete r.id) s fun t => ∃ new,
          let old := x.path.filter fun z => z.2 < n.toNat
          let path := new ++ old
          new.length ≤ 3 ∧ (old = [] → new ≠ []) ∧
          if 256 < path.length ∨ 262144 < (s.nodes ++ path.map (·.1)).eraseDups.length then Answered s.next t r 5 ∧ t.seqs = s.seqs
          else Answered s.next t r 0 ∧ seqBecomes s t g (some
            { y with lc := n.toNat, wm := y.wm.map fun _ => n.toNat, pages := x.pages.map (·.take ((n.toNat + 63) / 64)), path })))

/-- KVAPP writes the row's blocks to the block's page, raises WM, and gives 8 where a value is infinite or NaN; a page that is absent or
shared takes a spare frame, and without one the status is 2 (R376). -/
def kvappServed : Prop :=
  ∀ (s : State) (r : SeqReq) (key : Word) (src : List Byte), mayServe s r → r.kind = .kvapp key src →
    let k := kvKey key
    (s.seq k.seq = none → answers s s r 3) ∧
    ∀ q, admits s r k.seq q → (q.evicted = true → answers s s r 6) ∧ (q.evicted = false →
      let wm := q.wm.getD k.stream 0
      let bad := k.mbz ≠ 0 ∨ k.h ≠ 0 ∨ q.nl * q.np ≤ k.stream ∨ k.pos < q.lc ∨ wm < k.pos ∨ q.lc + 256 ≤ k.pos
      let own := fun p => q.page k.stream (k.pos / 64) = some p ∧ s.pageCount p ≤ 1
      (bad → answers s s r 4) ∧ (¬ bad → (∀ p, ¬ own p) → q.spare = 0 → answers s s r 2) ∧
      ∀ p, ¬ bad → own p → s.isOff p = false → runsTo (.sequenceRequestComplete r.id) s fun t =>
        let vs := (words16 src).map bf16.decode
        t.thread r.thread = (s.thread r.thread).given r.pend (if ∃ v ∈ vs, v.isFin = false then 8 else 0) ∧
        (∀ x, x ≠ r.thread → t.thread x = s.thread x) ∧
        seqBecomes s t k.seq (some { q with wm := q.wm.modify k.stream (max · (k.pos + 1)) }) ∧
        ∀ x, memGet t.hbm.bytes x = memGet
          ((kvRowStores p q.pkv (k.pos % 64) vs).foldl (fun m y => memPut m y.1 y.2) s.hbm.bytes) x)

/-- GRINIT makes a context at the start state with an empty stack and no checkpoint, once the image's header is read as good; a malformed
or poisoned one is logged (R399, R406). -/
def grinitServed : Prop :=
  ∀ (s : State) (r : SeqReq) (a img : Word), mayServe s r → r.kind = .grinit a img →
    let n := a.toNat % 65536
    (s.seq n = none → answers s s r 3) ∧
    ∀ q, admits s r n q → (a.toNat / 2 ^ 56 ≠ 0 → answers s s r 4) ∧ (a.toNat / 2 ^ 56 = 0 →
      (∀ h u, s.imgHdr r img.toNat = (.ok h, u) → u.memsWf = true → u.seq n = some q →
        let st := a.toNat / 2 ^ 16 % 2 ^ 20
        let cur : GPoint := { state := st, top := none, depth := 0, len := a.toNat / 2 ^ 36 % 2 ^ 20 }
        let g : Gctx := { img, cur, cks := List.replicate 32 none }
        (h.ns ≤ st → answers s u r 4) ∧ (st < h.ns → serves s u r 0 n (some { q with g := some g }))) ∧
      ∀ k info u, s.imgHdr r img.toNat = (.error (.stLog k info), u) → runsTo (.sequenceRequestComplete r.id) s fun t =>
        t.thread r.thread = (u.thread r.thread).given r.pend (BitVec.ofNat 64 k) ∧ Logged u t 1 info ∧ t.seqs = u.seqs)

/-- GRMASK writes the mask of the context to its range and releases the lock with the status; a bit of the mask beside the bitmap's is
that of a dependent entry that matches (R407). -/
def grmaskServed : Prop :=
  (∀ (s u : State) (r : SeqReq) (seq : W32) (off op : Nat) (q : Seq) (g : Gctx) (o : EngOp) (bs : List Byte), mayServe s r →
    r.kind = .grmask seq off op → admits s r seq.toNat q → seq.toNat < 65536 → q.g = some g → s.gMask r g = (.ok bs, u) →
    u.opOf op = some o → o.team < u.teams.length → u.memsWf = true →
    (∀ k, (u.thread k).wait ≠ .op op ∧ (u.thread k).wait ≠ .lock op) →
    runsTo (.sequenceRequestComplete r.id) s fun t => opEnded u t op ∧
      t.thread r.thread = (u.thread r.thread).given r.pend 0 ∧ (∀ x, x ≠ r.thread → t.thread x = u.thread x) ∧
      (∀ k, k ≠ o.team → t.team k = u.team k) ∧
      ∀ x, memGet (t.team o.team).scratch.bytes x =
        if off ≤ x ∧ x < off + bs.length then bs.getD (x - off) 0 else memGet (u.team o.team).scratch.bytes x) ∧
  ∀ (r : SeqReq) (h : GImg) (p : GPoint) (off n k m m' : Nat) (s u : State), State.maskDeps r h p off n k m s = (.ok m', u) →
    ∀ b, m'.testBit b = true ↔ m.testBit b = true ∨
      ∃ j < n, ∃ (e : GTrans) (v v' : State), v.imgTrans r h off (k + j) false = (.ok e, v') ∧ v'.gMatch p e = true ∧ e.token = b

/-- GRADV takes the transition of its token, if there is one and the depth and the pool allow it, and sets its predicate bit exactly where
the status is 0 (R408). -/
def gradvServed : Prop :=
  ∀ (s u : State) (r : SeqReq) (a : Word) (p : PredBit) (old : BitVec 4) (id : Nat) (q : Seq) (g : Gctx) (h : GImg), mayServe s r →
    r.kind = .gradv a p old id →
    let n := a.toNat % 65536
    let tok := a.toNat / 2 ^ 16 % 2 ^ 18
    let gives := fun (w : State) (v : Nat) (f : State → Prop) => runsTo (.sequenceRequestComplete r.id) s fun t =>
      t.thread r.thread = ((w.thread r.thread).given r.pend (BitVec.ofNat 64 v)).given id
        ((predBitSet old p .set (decide (v = 0))).setWidth 64) ∧ f t
    admits s r n q → a.toNat / 2 ^ 34 = 0 → q.g = some g → s.imgHdr r g.img.toNat = (.ok h, u) →
    (h.voc ≤ tok → gives u 4 fun t => t.seqs = u.seqs) ∧
    (tok < h.voc → (∀ w, u.gFind r h g.cur tok = (.ok none, w) → gives w 1 fun t => t.seqs = w.seqs) ∧
      ∀ e w, u.gFind r h g.cur tok = (.ok (some e), w) → w.memsWf = true → w.seq n = some q →
        (w.gnodes.map (·.1)).Pairwise (· < ·) →
        let x := if e.pop then 1 else 0
        let y := if e.push then 1 else 0
        let base := if e.pop then g.cur.top.bind fun k => (w.node k).parent else g.cur.top
        if 1024 + x < g.cur.depth + y then gives w 7 fun t => t.seqs = w.seqs
        else if e.push = true ∧ w.nodesFree = 0 then gives w 2 fun t => t.seqs = w.seqs
        else gives w 0 fun t => ∃ top,
          let cur : GPoint := { state := e.next, top, depth := g.cur.depth - x + y, len := (g.cur.len + 1) % 2 ^ 20 }
          seqBecomes w t n (some { q with g := some { g with cur } }) ∧
          (e.push = false → top = base) ∧
          (e.push = true → ∃ k, top = some k ∧ k ∉ w.gnodes.map (·.1) ∧ t.node k = { sym := e.sym, parent := base }))

/-- GRCKPT.REL and RELALL empty checkpoints; the words on checkpoints give 5 on an empty context; GRSTAT reports the context or its
checkpoints (R409, R411). -/
def grckptGrstatServed : Prop :=
  ∀ (s : State) (r : SeqReq) (seq : W32) (q : Seq), mayServe s r → admits s r seq.toNat q → seq.toNat < 65536 →
    (∀ c g, r.kind = .grckptRel seq c → q.g = some g →
      serves s s r 0 seq.toNat (some { q with g := some { g with cks := g.cks.set c none } })) ∧
    (∀ g, r.kind = .grckptRelall seq → q.g = some g →
      serves s s r 0 seq.toNat (some { q with g := some { g with cks := g.cks.map fun _ => none } })) ∧
    (∀ c, r.kind = .grckptSave seq c ∨ r.kind = .grckptRel seq c ∨ r.kind = .grckptRelall seq ∨ r.kind = .grroll seq c →
      q.g = none → answers s s r 5) ∧
    ∀ ck, r.kind = .grstat seq ck → (q.g = none → answers s s r (if ck then 5 * 2 ^ 60 else 0)) ∧
      ∀ g, q.g = some g → g.cur.len < 2 ^ 20 → g.cur.depth < 2 ^ 11 → g.cur.state < 2 ^ 20 → s.topSym g.cur < 2 ^ 16 →
        ∃ v < 2 ^ 60, answers s s r v ∧ if ck then
            v % 2 ^ 20 = g.cur.len ∧ v / 2 ^ 52 = 0 ∧ ∀ c < 32, v.testBit (20 + c) = (g.cks.getD c none).isSome
          else v % 2 ^ 16 = s.topSym g.cur ∧ v / 2 ^ 16 % 2 ^ 12 = 0 ∧ v / 2 ^ 28 % 2 ^ 20 = g.cur.state ∧
            v / 2 ^ 48 % 2 ^ 11 = g.cur.depth ∧ v / 2 ^ 59 = 1

/-- SQUASH validates, then cancels the sequence's tagged copies and attentions, cuts its KV cache at n, restores the checkpoint named, and
places the event on its drafter; SQSET.UNREG removes the issuing thread's registration (R403, R412–R414). -/
def squashServed : Prop :=
  (∀ (s : State) (r : SeqReq) (a n : W32), mayServe s r → r.kind = .squash a n →
    let m := a.toNat % 65536
    let ck := a.toNat / 2 ^ 16 % 2 ^ 6
    (s.seq m = none → answers s s r 3) ∧
    ∀ q, admits s r m q → (q.evicted = true → answers s s r 11) ∧ (q.evicted = false →
      let bad := a.toNat / 2 ^ 22 ≠ 0 ∨ 32 < ck ∨ 2 ^ 20 ≤ n.toNat
      (bad → answers s s r 4) ∧ (¬ bad →
        (ck < 32 → q.g = none → answers s s r 5) ∧
        (∀ g, ck < 32 → q.g = some g → (g.cks.getD ck none = none → answers s s r 6) ∧
          ∀ p, g.cks.getD ck none = some p → p.len ≠ n.toNat → answers s s r 10) ∧
        ∀ q', ck = 32 ∧ q' = q.cut n.toNat ∨ (∃ g p, ck < 32 ∧ q.g = some g ∧ g.cks.getD ck none = some p ∧ p.len = n.toNat ∧
            q' = { q.cut n.toNat with g := some { g with cur := p } }) →
          runsTo (.sequenceRequestComplete r.id) s fun t => seqBecomes s t m (some q') ∧
            (∀ o ∈ s.ops, o.tagged m n.toNat = true →
              if (s.cluster (s.team o.team).cluster).out = true ∨ o.parked = true then ∀ x, t.opOf o.id = some x → x.can = true
              else t.opOf o.id = none) ∧
            ((∀ o ∈ s.ops, o.tagged m n.toNat = false) → (q.drafter = none → Answered s t r 0) ∧
              ∀ k e, q.drafter = some (k, e) → k < s.threads.length → (s.thread k).exited = false →
                let info : Word := (if (s.thread k).ev.isSome then 0x8000000000000000 else 0) ||| BitVec.ofNat 64 (n.toNat * 2 ^ 32 + m)
                let u := fun x => if x = k then { s.thread x with ev := some (info, e) } else s.thread x
                t.thread r.thread = (u r.thread).given r.pend 0 ∧ ∀ x, x ≠ r.thread → t.thread x = u x)))) ∧
  ∀ (s : State) (r : SeqReq) (tag : Word), mayServe s r → r.kind = .sqsetUnreg tag →
    (s.seq (tag.toNat % 65536) = none → answers s s r 0) ∧
    ∀ q, s.seq (tag.toNat % 65536) = some q → serves s s r 0 (tag.toNat % 65536)
      (some { q with drafter := if ∃ e, q.drafter = some (r.thread, e) then none else q.drafter })

/-- LAUNCH gives the handle of a record that enters the launch table, its priority capped, and otherwise 5 for a full table or 6 with the
reason (R418, R429, R434). -/
def launchServed : Prop :=
  ∀ (s : State) (r : SeqReq) (bs : List Byte) (prio : Nat), mayServe s r → r.kind = .launch bs prio →
    let v := leNat bs
    let fails := fun (n : Nat) => runsTo (.sequenceRequestComplete r.id) s fun t =>
      Answered s t r (BitVec.ofNat 64 (6 * 2 ^ 32 + n)) ∧ t.seqs = s.seqs ∧
        ∃ g : Grid, t.grids = s.grids ++ [g] ∧ g.reason = n ∧ g.stop = some 3 ∧ g.ended = false ∧ g.lr.asid = BitVec.ofNat 12 r.asid
    (lrReason v ≠ 0 → fails (lrReason v)) ∧
    (lrReason v = 0 → (lrOf v).deps = 0 →
      ((lrOf v).tooBig = true → fails 6) ∧
      ((lrOf v).tooBig = false → (lrOf v).asid.toNat ≠ r.asid → fails 7) ∧
      ((lrOf v).tooBig = false → (lrOf v).asid.toNat = r.asid → s.tableFull = true → answers s s r (5 * 2 ^ 32)) ∧
      ((lrOf v).tooBig = false → (lrOf v).asid.toNat = r.asid → s.tableFull = false →
        let i := if s.lNext < 1024 then s.lNext else s.lFreed.headD 0
        let gen := (s.lent i).gen % 4194303 + 1
        let x : W32 := BitVec.ofNat 32 (gen * 1024 + i)
        runsTo (.sequenceRequestComplete r.id) s fun t =>
          t.thread r.thread = (s.thread r.thread).given r.pend (x.setWidth 64) ∧ (∀ k, k ≠ r.thread → t.thread k = s.thread k) ∧
          t.ltab = assocSet default s.ltab i { gen, grid := some s.grids.length } ∧
          ∃ g : Grid, t = { s with threads := t.threads, reqs := t.reqs, grids := s.grids ++ [g], ltab := t.ltab, lNext := t.lNext, lFreed := t.lFreed } ∧
            g.lr = { lrOf v with prio := g.lr.prio } ∧ (prio ≤ 3 → g.lr.prio.toNat = min (lrOf v).prio.toNat prio) ∧ g.handle = x ∧
            g.held = (lrOf v).hold ∧ g.ready = false ∧ g.reason = 0 ∧ g.deps = [] ∧ g.stop = none))

/-- LDEP.ADD appends a counter and threshold to a held launch; LQUERY reports a launch (R435, R436). -/
def launchTableServed : Prop :=
  ∀ (s : State) (r : SeqReq) (h : W32), mayServe s r →
    (∀ ctr thr, r.kind = .ldepAdd h ctr thr → (s.launchOf h = none → answers s s r 7) ∧
      ∀ g, s.launchOf h = some g → g < s.grids.length →
        let bad := ctr / 2 % 4 ≠ 0 ∨ ctr / 8 = 0 ∨ 2 ^ 57 ≤ ctr
        let d := (s.grid g).deps
        ((s.grid g).held = false → answers s s r 8) ∧
        ((s.grid g).held = true → (16 ≤ d.length → answers s s r 9) ∧ (d.length < 16 → bad → answers s s r 4) ∧
          (d.length < 16 → ¬ bad → runsTo (.sequenceRequestComplete r.id) s fun t =>
            t.thread r.thread = (s.thread r.thread).given r.pend 0 ∧ t.seqs = s.seqs ∧ (t.grid g).held = true ∧
            (∃ b, (t.grid g).deps = d ++ [(ctr / 8 * 8, thr, b)]) ∧ ∀ k, k ≠ g → t.grid k = s.grid k))) ∧
    (r.kind = .lquery h → (s.launchOf h = none → answers s s r (7 * 2 ^ 60)) ∧
      ∀ g, s.launchOf h = some g → s.teamsEnded g < 2 ^ 20 → (s.grid g).nextCl * (s.grid g).lr.tpc.toNat < 2 ^ 20 →
        ∃ v, answers s s r v ∧ v / 2 ^ 57 = s.launchState g ∧ v / 2 ^ 54 % 8 = (s.grid g).lr.prio.toNat ∧
          v / 2 ^ 52 % 4 = (s.grid g).eff % 4 ∧ v / 2 ^ 32 % 2 ^ 20 = s.teamsEnded g ∧
          v / 2 ^ 12 % 2 ^ 20 = (s.grid g).nextCl * (s.grid g).lr.tpc.toNat ∧ v % 2 ^ 12 = 0)

/-- SEQINFO reports a sequence's geometry, lengths or one stream (R439, Table 17.13). -/
def seqinfoServed : Prop :=
  ∀ (s : State) (r : SeqReq) (a : W32) (w : SeqQuery), mayServe s r → r.kind = .seqinfo a w →
    (s.seq (a.toNat % 65536) = none → answers s s r (3 * 2 ^ 60)) ∧
    ∀ q, admits s r (a.toNat % 65536) q → (a.toNat / 2 ^ 28 ≠ 0 → answers s s r (4 * 2 ^ 60)) ∧ (a.toNat / 2 ^ 28 = 0 →
      (w = .geo → q.pkv < 16 → 0 < q.nl ∧ q.nl ≤ 256 → 0 < q.np ∧ q.np ≤ 64 → q.spare < 2 ^ 22 → ∃ v < 2 ^ 60, answers s s r v ∧
        v.testBit 59 = q.evicted ∧ v.testBit 58 = q.drafter.isSome ∧ v / 2 ^ 54 % 16 = q.pkv ∧ v / 2 ^ 46 % 256 = q.nl - 1 ∧
        v / 2 ^ 40 % 64 = q.np - 1 ∧ v / 2 ^ 16 % 2 ^ 24 = q.spare ∧ v % 2 ^ 16 = 0) ∧
      (w = .len → q.lc < 2 ^ 20 → q.wm ≠ [] → (∀ x ∈ q.wm, x < 2 ^ 20) → ∃ v < 2 ^ 60, answers s s r v ∧ v / 2 ^ 40 = q.lc ∧
        (v / 2 ^ 20 % 2 ^ 20 ∈ q.wm ∧ ∀ x ∈ q.wm, v / 2 ^ 20 % 2 ^ 20 ≤ x) ∧ v % 2 ^ 20 ∈ q.wm ∧ ∀ x ∈ q.wm, x ≤ v % 2 ^ 20) ∧
      (w = .stream → let k := a.toNat / 2 ^ 16 % 2 ^ 12
        (q.nl * q.np ≤ k → answers s s r (4 * 2 ^ 60)) ∧ (k < q.nl * q.np → q.wm.getD k 0 < 2 ^ 20 →
          let n := ((q.pages.getD k []).filterMap id).length
          n < 2 ^ 20 → answers s s r (q.wm.getD k 0 * 2 ^ 40 + n * 2 ^ 20))))

/-- A queued request of class N gets its die's next free walker (R26). -/
def walkersTaken : Prop :=
  ∀ (s : State) (r : SeqReq), s.reqs.find? (fun x => x.id == r.id) = some r → s.queued r = true →
    let mine := s.reqs.filter fun x => dieOf (x.part / 4) == dieOf (r.part / 4)
    (mine.filter (·.walker)).length < 16 → (∀ x ∈ mine, x.ord < r.ord → s.queued x = false) →
    runsTo (.walkerRequestStart r.id) s fun t =>
      t = { s with reqs := s.reqs.map fun x => if x.id = r.id then { x with walker := true } else x }

end Sys2Proof

/-- The sequence table, a walker or the scheduler performs the request whose turn it is: the status that its checks give in their
order, and its effect on the contexts and launches named; a queued request of class N gets its die's next free walker
(R26, R371, R373–R377, R406–R414, R434–R439). The model's choices in it: log entries 28 (the new nodes of a path), 29 (the order of
statuses) and 51 (the order of requests). -/
def Obligations.RequestsServed : Prop :=
  (kvmapServed ∧ kvforkServed ∧ kvappServed) ∧ (grinitServed ∧ grmaskServed ∧ gradvServed ∧ grckptGrstatServed ∧ squashServed) ∧
  (launchServed ∧ launchTableServed ∧ seqinfoServed) ∧ walkersTaken ∧
  ∀ (s : State) (r : SeqReq), let i : Instr := .sequenceRequestComplete r.id
    let has := fun n q => s.seq n = some q ∧ q.asid = r.asid
    let gives := fun (st n : Nat) (q : Option Seq) => runsTo i s fun t =>
      Answered s t r (BitVec.ofNat 64 st) ∧ t.grids = s.grids ∧ seqBecomes s t n q
    s.reqs.find? (fun x => x.id == r.id) = some r → s.reqDue r = true → s.memsWf = true →
    (∀ a rsv q, r.kind = .kvalloc a rsv → has (a.toNat % 65536) q → q.evicted = false →
      let n := a.toNat / 65536
      let st := if rsv = false ∧ s.kvFree < n + s.kvRes then 1 else if s.kvFree < n then 2 else if n = 0 then 4 else 0
      gives st (a.toNat % 65536) (some (if st = 0 then { q with spare := q.spare + n } else q))) ∧
    (∀ a q, r.kind = .kvfree a → has (a.toNat % 65536) q → q.evicted = false →
      gives 0 (a.toNat % 65536) (some { q with spare := if a.toNat / 65536 = 0 then 0 else q.spare - a.toNat / 65536 })) ∧
    (∀ a n q, r.kind = .kvcommit a n → has (a.toNat % 65536) q → q.evicted = false →
      let bad := a.toNat / 65536 ≠ 0 ∨ n.toNat < q.lc ∨ ∃ w ∈ q.wm, w < n.toNat
      (bad → gives 4 (a.toNat % 65536) (some q)) ∧ (¬ bad → gives 0 (a.toNat % 65536) (some { q with lc := n.toNat }))) ∧
    (∀ a n q, r.kind = .kvtrim a n → has a.toNat q → a.toNat < 65536 → q.evicted = false →
      gives 0 a.toNat (some { q with lc := min q.lc n.toNat, wm := q.wm.map (min n.toNat),
                                     pages := q.pages.map fun l => l.take ((n.toNat + 63) / 64) })) ∧
    (∀ a q, r.kind = .kvtrim a 0 → has a.toNat q → a.toNat < 65536 → q.evicted = true → gives 0 a.toNat (some { (q.cut 0) with evicted := false })) ∧
    (∀ seq c q g, r.kind = .grckptSave seq c → has seq.toNat q → seq.toNat < 65536 → q.g = some g →
      gives 0 seq.toNat (some { q with g := some { g with cks := g.cks.set c (some g.cur) } })) ∧
    (∀ seq c q g, r.kind = .grroll seq c → has seq.toNat q → seq.toNat < 65536 → q.g = some g →
      match g.cks.getD c none with
      | some p => gives 0 seq.toNat (some { q with g := some { g with cur := p } })
      | none => gives 6 seq.toNat (some q)) ∧
    (∀ a q q' g, r.kind = .grfork a → has (a.toNat % 65536) q → has (a.toNat / 65536) q' → a.toNat % 65536 ≠ a.toNat / 65536 →
      q.g = some g → gives 0 (a.toNat / 65536) (some { q' with g := some g })) ∧
    (∀ tag a q, r.kind = .sqsetEntry tag a → has (tag.toNat % 65536) q →
      (tag.getLsbD 63 = true → a.toNat % 8 = 0 → (s.thread r.thread).exited = false →
        gives 0 (tag.toNat % 65536) (some { q with drafter := some (r.thread, a) })) ∧
      (tag.getLsbD 63 = false ∨ a.toNat % 8 ≠ 0 → gives 4 (tag.toNat % 65536) (some q))) ∧
    (∀ a : Word, r.kind = .seqadm a → let v := a.toNat
      let n := v / 2 ^ 35 % 65536
      let nl := v / 2 ^ 16 % 256 + 1
      let np := v / 2 ^ 24 % 64 + 1
      let pkv := v / 2 ^ 30 % 16
      v / 2 ^ 51 = 0 → pkv ≠ 0 → pkv ≠ 15 → nl * np ≤ 4096 → v % 65536 ≠ 0xFFFF → s.seq (v % 65536) = none →
      (v / 2 ^ 34 % 2 = 0 → n + s.kvRes ≤ s.kvFree) → n ≤ s.kvFree →
      gives (v % 65536) (v % 65536) (some
        { asid := r.asid, nl, np, pkv, lc := 0, wm := List.replicate (nl * np) 0, spare := n, evicted := false, path := [(4 * r.id, 0)],
          pages := List.replicate (nl * np) [], g := none, drafter := none })) ∧
    (∀ seq q, r.kind = .seqret seq → has seq.toNat q → seq.toNat < 65536 → (∀ o ∈ s.ops, o.tagged seq.toNat 0 = false) →
      gives 0 seq.toNat none) ∧
    (∀ h g, r.kind = .ldepGo h → s.launchOf h = some g → g < s.grids.length → runsTo i s fun t =>
      Answered s t r (if (s.grid g).held then 0 else 8) ∧ t.seqs = s.seqs ∧ t.grid g = { s.grid g with held := false } ∧
        ∀ k, k ≠ g → t.grid k = s.grid k) ∧
    (∀ h, r.kind = .ldepGo h → s.launchOf h = none → runsTo i s fun t =>
      Answered s t r 7 ∧ t.seqs = s.seqs ∧ t.grids = s.grids)

/-- An attention operation ends with its output and REJ written, or with the poison that it met, logged; its descriptor's state
bits say so, and its locks go. A thread takes its squash event before its next chain: it goes to ENTRY, or into the trap handler
when ENTRY is 0 (R384, R403). The model's choices in it: log entry 31. -/
def Obligations.AttentionEndsAndSquashEvents : Prop :=
  (∀ (s : State) (id : Nat) (o : EngOp) (a : AttnOp), s.opOf id = some o → o.kind = .attn a → a.accepted = true → s.memsWf = true →
    (∀ p ∈ a.pages, s.isOff p = false) → o.team < s.teams.length → overlap a.out 520 a.desc 64 = false →
    let v := leNat ((s.team o.team).scratch.read a.desc 64)
    let bits := fun (t : State) (f : Nat → Option Bool) => ∀ k < 512,
      (leNat ((t.team o.team).scratch.read a.desc 64)).testBit k = (f k).getD (v.testBit k)
    let rest := fun (t : State) (n : Nat) => ∀ x, ¬(a.desc ≤ x ∧ x < a.desc + 64) → ¬(a.out ≤ x ∧ x < a.out + n) →
      memGet (t.team o.team).scratch.bytes x = memGet (s.team o.team).scratch.bytes x
    (∀ ws rej, attnResult a = .inl (ws, rej) → ws.length = 130 → runsTo (.attnComplete id) s fun t =>
      opEnded s t id ∧ t = { s with threads := t.threads, teams := t.teams, ops := t.ops, locks := t.locks } ∧
      (∀ k, k ≠ o.team → t.team k = s.team k) ∧ rest t 520 ∧
      (∀ k < 520, memGet (t.team o.team).scratch.bytes (a.out + k) = (ws.flatMap fun w => natLe 4 w.toNat).getD k 0) ∧
      bits t fun k => if k = 256 then some false else if k = 257 then some true
        else if 192 ≤ k ∧ k < 212 then some (rej.testBit (k - 192)) else none) ∧
    (∀ k x, attnResult a = .inr (k, x) → runsTo (.attnComplete id) s fun t =>
      opEnded s t id ∧ Logged s t 1 (permInfo k x) ∧ (∀ k, k ≠ o.team → t.team k = s.team k) ∧ rest t 0 ∧
      bits t fun k => if k = 256 then some false else if k = 258 then some true
        else if 320 ≤ k ∧ k < 377 then some (x.testBit (k - 320)) else none)) ∧
  ∀ (s : State) (n : Nat) (info entry : Word), s.takesEvent n = true → (s.thread n).ev = some (info, entry) →
    let th := s.thread n
    let c := { th with sqpc := th.pc, sqinfo := info, ev := none }
    (entry ≠ 0 → runsTo (.squashEventTaken n) s fun t =>
      t = { s with threads := t.threads } ∧ t.thread n = { c with pc := entry } ∧ ∀ k, k ≠ n → t.thread k = s.thread k) ∧
    (entry = 0 → (s.group th.grp).tset = 0 → (s.recOf th.grp).trapv ≠ 0 → th.grp < s.groups.length →
      (s.group th.grp).t0 + th.lane = n → th.lane < 64 → runsTo (.squashEventTaken n) s fun t =>
        t = { s with threads := t.threads, groups := t.groups, issue := t.issue, nextId := s.nextId + 1 } ∧
        t.thread n = { c with tpc := th.pc, tnpc := s.skipOf n, tspr := th.spr, spr := 0, pc := (s.recOf th.grp).trapv,
                              age := 0, wait := .none, held := none, delay := some (s.nextId, 4) } ∧
        (∀ k, k ≠ n → t.thread k = s.thread k) ∧ (∀ k, k ≠ th.grp → t.group k = s.group k) ∧
        t.group th.grp = { s.group th.grp with tset := laneSet [th.lane], tcause := 0x16, tinfo := info,
                                               tinst := (s.iword (s.coreOf n) (s.asidOf n) th.pc.toNat).getD 0 })

/-- The strike queue: hardware proposes an entry for a page or sequence; its deadline makes it due; KVSQCMD confirms, vetoes,
moves or changes it; the first that may run does, is logged and goes, or goes without effect if its target has: a demotion that meets
poison logs its lowest address first; an offload copies the page to a slot of the backing area, an eviction drops all that a sequence holds; a restore brings a page back or meets an error of the
link (R143, R387–R390, R474). The model's choices in it: log entries 20 and 40. -/
def Obligations.StrikeQueue : Prop :=
  (∀ s : State, s.strikeWants = true → runsTo .strikePropose s fun t =>
    ∃ e : Strike, t = { s with strikes := s.strikes ++ [e], tick := t.tick } ∧ (e.action, e.page, e.seq) ∈ s.proposals ∧
      e.entry < 64 ∧ (∀ x ∈ s.strikes, x.entry ≠ e.entry) ∧ e.st = 1 ∧ e.dl = s.kvpol / 2 ^ 48 ∧ e.due = false ∧ e.gone = false ∧
      e.h = if e.action = 1 then s.kvMinp else 0) ∧
  (∀ (s : State) (e : Nat), runsTo (.strikeDeadline e) s fun t =>
    t = { s with strikes := s.strikes.map fun x => if x.entry = e ∧ x.st = 1 then { x with dl := 0, due := true } else x }) ∧
  (∀ (s : State) (e : Strike), (∀ x ∈ s.strikes, x.st ≠ 3) → s.strikes.find? (fun x => x.st == 2 || x.due) = some e →
    let run := s.strikes.map fun x => if x.entry = e.entry then { x with st := 3 } else x
    let gone := s.strikes.filter fun x => x.entry != e.entry
    runsTo .strikeActionRun s fun t => t = { s with strikes := if s.strikeAlive e then run else gone }) ∧
  (∀ (s : State) (e : Strike), s.strikes.find? (fun x => x.st == 3) = some e →
    (s.strikeAlive e = false → runsTo .strikeActionRun s fun t =>
      t = { s with strikes := s.strikes.filter fun x => x.entry != e.entry }) ∧
    (s.strikeAlive e = true → runsTo .strikeActionRun s fun t =>
      t.strikes = (s.strikes.filter fun x => x.entry != e.entry) ∧ t.threads = s.threads ∧
      (let met := if e.action = 1 then (s.pageBlks e.page).filterMap fun b => match b.rounded e.h with | .inr x => some x | _ => none else []
       let ran := fun u => Logged u t 5 (BitVec.ofNat 64 (e.h * 256 + e.action * 16 + 3))
       if met = [] then ran s
       else ∃ u k a, (k, a) ∈ met ∧ (∀ x ∈ met, a ≤ x.2) ∧ Logged s u 1 (permInfo k a) ∧ ran u) ∧
      (e.action = 1 → t.kvOff = s.kvOff ∧ t.seqs = s.seqs) ∧
      (e.action = 2 → s.memsWf = true → s.regs.kvbAddr % 32 = 0 → t.seqs = s.seqs ∧ ∀ i, s.kvSlot = some i →
        let a := s.regs.kvbAddr + 65536 * i
        i < s.regs.kvbCnt ∧ (∀ x ∈ s.kvOff, x.slot ≠ i) ∧ t.kvOff = { page := e.page, slot := i, addr := a } :: s.kvOff ∧
        ∀ x, memGet t.host.bytes x =
          if a ≤ x ∧ x < a + 65536 then memGet s.hbm.bytes (kvAddr e.page + (x - a)) else memGet s.host.bytes x) ∧
      (e.action = 3 → t.kvOff = s.kvOff ∧ t.hbm = s.hbm ∧ (s.memsWf = true → ∀ q, s.seq e.seq = some q →
        seqBecomes s t e.seq (some { q with evicted := true, spare := 0, pages := q.pages.map fun _ => [] }))))) ∧
  (∀ (s : State) (y : OffPage), s.kvOff.find? (fun x => x.page == y.page) = some y → 0 < s.kvFree → s.memsWf = true → y.addr % 32 = 0 →
    (∀ x ∈ s.fbuf, ∀ e, x.2 = some e → e.page ≠ kvAddr y.page / 65536) → runsTo (.kvPageRestore y.page) s fun t =>
      t = { s with tick := s.tick + 1 } ∨
      t = { s with tick := s.tick + 1, kvOff := s.kvOff.filter (fun x => x.page != y.page), hbm := t.hbm } ∧
        ∀ x, memGet t.hbm.bytes x = if kvAddr y.page ≤ x ∧ x < kvAddr y.page + 65536 then
          memGet s.host.bytes (y.addr + (x - kvAddr y.page)) else memGet s.hbm.bytes x) ∧
  ∀ (s : State) (e : BitVec 6) (h : BitVec 4), (∃ x ∈ s.strikes, x.entry = e.toNat ∧ (x.st = 1 ∨ x.st = 2)) →
    runsTo (.kvsqcmdConfirm e) s (fun t =>
      t = { s with tick := s.tick + 1, strikes := t.strikes } ∧ t.strikes.length = s.strikes.length ∧
        ∀ (k : Nat) (x y : Strike), s.strikes[k]? = some x → t.strikes[k]? = some y →
          y = { x with st := if x.entry = e.toNat then 2 else x.st, dl := y.dl } ∧ y.dl ≤ max 1 x.dl ∧
            (x.st ≠ 1 ∨ x.due = true → y.dl = x.dl)) ∧
    runsTo (.kvsqcmdVeto e) s (fun t => t = { s with strikes := s.strikes.filter fun x => x.entry != e.toNat }) ∧
    runsTo (.kvsqcmdFront e) s (fun t =>
      t = { s with strikes := (s.strikes.filter fun x => x.entry == e.toNat) ++ s.strikes.filter fun x => x.entry != e.toNat }) ∧
    (h = 0 ∨ h = 15 → runsTo (.kvsqcmdSetH e h) s fun t => t = s) ∧
    (h ≠ 0 ∧ h ≠ 15 → runsTo (.kvsqcmdSetH e h) s fun t =>
      t = { s with strikes := s.strikes.map fun x => if x.entry = e.toNat ∧ x.action = 1 then { x with h := h.toNat } else x })

/-! ## The scheduler -/

/-- The scheduler takes record HEAD of a queue that is behind its tail: a record without fault enters the launch table under a new
handle, a failing one becomes a failed launch with its reason, and a count above the ring stops the queue; a launch that is not
held becomes ready when its dependences are met, and takes the greatest priority of those that wait on it (R418, R419, R422, R429,
R434). The model's choices in it: log entry 33. -/
def Obligations.LaunchesEnterTheTable : Prop :=
  (∀ (q : BitVec 4) (s : State),
    let h := s.hq q.toNat
    let r := h.record.getD (s.physRead (h.base + 256 * (h.head.toNat % 2 ^ h.logn)) 256, h.asid)
    let v := leNat r.1
    let i := if s.lNext < 1024 then s.lNext else s.lFreed.headD 0
    let gen := (s.lent i).gen % 4194303 + 1
    let x : W32 := BitVec.ofNat 32 (gen * 1024 + i)
    let queue := fun y => assocSet default s.hqs q.toNat y
    s.regs.bootState = 2 → h.en = true → h.head ≠ h.tail → h.wait = none →
    (2 ^ h.logn < (h.tail - h.head).toNat → runsTo (.hostQueueConsume q) s fun t =>
      t = { s with hqs := queue { h with en := false, err := true } }) ∧
    ((h.tail - h.head).toNat ≤ 2 ^ h.logn → s.lNext < 1024 ∨ s.lFreed ≠ [] →
      (lrReason v = 0 → (lrOf v).deps = 0 → (lrOf v).tooBig = false → (lrOf v).asid.toNat = r.2 →
        runsTo (.hostQueueConsume q) s fun t =>
          (∃ g : Grid, t = { s with grids := s.grids ++ [g], ltab := t.ltab, lNext := t.lNext, lFreed := t.lFreed, hqs := t.hqs, tick := t.tick } ∧
            g.lr = lrOf v ∧ g.handle = x ∧ g.held = (lrOf v).hold ∧ g.ready = false ∧ g.ended = false ∧ g.reason = 0 ∧ g.deps = [] ∧
            g.nextCl = 0 ∧ g.stop = none ∧ g.entry = i) ∧
          t.ltab = assocSet default s.ltab i { gen, grid := some s.grids.length } ∧
          t.lNext = (if s.lNext < 1024 then s.lNext + 1 else s.lNext) ∧
          t.lFreed = (if s.lNext < 1024 then s.lFreed else s.lFreed.tail) ∧
          t.hqs = queue { h with head := h.head + 1, last := x, record := none }) ∧
      (lrReason v ≠ 0 → runsTo (.hostQueueConsume q) s fun t =>
        (∃ g : Grid, t = { s with grids := s.grids ++ [g], hqs := t.hqs, tick := t.tick } ∧ g.reason = lrReason v ∧ g.stop = some 3 ∧
          g.ended = false ∧ g.queue = q.toNat) ∧
        t.hqs = queue { h with head := h.head + 1, last := 0, record := none }))) ∧
  (∀ (s : State) (n : Nat), let g := s.grid n
    g.ended = false → g.stop = none → g.fatal = none → g.held = false → g.ready = false → (∀ d ∈ g.deps, d.2.2 = true) →
    runsTo (.launchReady n) s fun t => t = { s with grids := t.grids } ∧
      (n < s.grids.length → t.grid n = { g with ready := true }) ∧ ∀ k, k ≠ n → t.grid k = s.grid k) ∧
  ∀ s : State, runsTo .priorityRecompute s fun t => t = { s with grids := t.grids } ∧ t.grids.length = s.grids.length ∧
    ∀ x < s.grids.length, t.grid x = { s.grid x with eff := (t.grid x).eff } ∧ (s.grid x).lr.prio.toNat ≤ (t.grid x).eff ∧
      (∀ y < s.grids.length, (s.grid y).dependsOn (s.grid x) = true → (t.grid y).eff ≤ (t.grid x).eff) ∧
      ((t.grid x).eff = (s.grid x).lr.prio.toNat ∨
        ∃ y < s.grids.length, (s.grid y).dependsOn (s.grid x) = true ∧ (t.grid y).eff = (t.grid x).eff)

/-- A cluster that is placed starts on a rectangle that fits it: its teams on the rectangle's cores by row, its threads at ENTRY
with zeroed registers; a cluster that has waited too long is given a reservation off every other one, and later its cores' teams
of lower priority are pre-empted (R22, R23, R81, R426, R427). The model's choices in it: log entries 15 and 36. -/
def Obligations.ClustersArePlaced : Prop :=
  (∀ (s : State) (g : Nat) (l : List (Nat × Nat)), s.nextPlaced = some ((g, none), l) → runsTo .teamPlace s fun t => ∃ r ∈ l,
    (∀ q ∈ l, (s.grid g).resv = some q → r = q) ∧
    let lr := (s.grid g).lr
    let cs := rectCores lr.w.toNat lr.h.toNat r
    (∃ c : Cluster, t.clusters = s.clusters ++ [c] ∧ c.grid = g ∧ c.ci = (s.grid g).nextCl ∧ c.t0 = s.teams.length ∧
      c.nt = lr.tpc.toNat ∧ c.swapping = false ∧ c.out = false ∧ c.cmem = default) ∧
    t.teams.length = s.teams.length + cs.length ∧ (∀ n < s.teams.length, t.team n = s.team n) ∧
    (∀ k < cs.length, let m := t.team (s.teams.length + k)
      m.cluster = s.clusters.length ∧ m.ti = k ∧ m.core = cs.getD k 0 ∧ m.ng = lr.ngrp.toNat ∧ m.scratch = default ∧ m.tags = [] ∧
        m.sndc = List.replicate 16 0 ∧ m.arrived = 0 ∧ m.ended = false) ∧
    (∀ n < s.threads.length, t.thread n = s.thread n) ∧
    t.threads.length = s.threads.length + cs.length * (lr.ngrp.toNat * lr.width) ∧
    (∀ n, s.threads.length ≤ n → n < t.threads.length → let th := t.thread n
      th.pc = lr.entry ∧ th.slices = List.replicate lr.l.toNat default ∧ th.pend = [] ∧ th.exited = false ∧ th.lvl = 0 ∧ th.fb = 0 ∧
        th.spr = 0 ∧ th.fflags = 0 ∧ th.wait = .none ∧ th.stp = th.stb ∧ th.age = 0) ∧
    (∀ n < s.groups.length, t.group n = s.group n) ∧
    t.grid g = { s.grid g with nextCl := (s.grid g).nextCl + 1, resv := none, evict := false, race := (t.grid g).race, mix := (t.grid g).mix } ∧
    ∀ n, n ≠ g → t.grid n = s.grid n) ∧
  (∀ (s : State) (g : Nat) (r : Nat × Nat), g < s.grids.length → (s.grid g).waiting = true → (s.grid g).resv = none →
    s.bestRect g = some r → runsTo (.placeageExpiry g) s fun t => t = { s with grids := t.grids } ∧
      t.grid g = { s.grid g with resv := some r } ∧ (∀ n, n ≠ g → t.grid n = s.grid n) ∧
      ∀ c ∈ rectCores (s.grid g).lr.w.toNat (s.grid g).lr.h.toNat r, ∀ n < s.grids.length, c ∉ (s.grid n).reserved) ∧
  ∀ (s : State) (g : Nat), g < s.grids.length → (s.grid g).waiting = true → (s.grid g).resv.isSome = true → (s.grid g).evict = false →
    let eff := fun tm => (s.grid (s.cluster (s.team tm).cluster).grid).eff
    let there := fun tm => (∃ c ∈ (s.grid g).reserved, tm ∈ s.resident c) ∧ s.teamEnded tm = false
    runsTo (.placeevictExpiry g) s fun t =>
      t.grid g = { s.grid g with evict := true } ∧ (∀ n, n ≠ g → t.grid n = s.grid n) ∧
      (∀ c < s.clusters.length, (∃ tm, there tm ∧ eff tm < (s.grid g).eff ∧ (s.team tm).cluster = c) → s.clusterEnded c = false →
        (t.cluster c).swapping = true) ∧
      (∀ c < s.clusters.length, ¬(∃ tm, there tm ∧ eff tm < (s.grid g).eff ∧ (s.team tm).cluster = c) → t.cluster c = s.cluster c) ∧
      ((∃ tm, there tm ∧ (s.grid g).eff ≤ eff tm) → Logged s t 4 (BitVec.ofNat 64 (s.grid g).nextCl)) ∧
      ((∀ tm, there tm → eff tm < (s.grid g).eff) → t.evlog = s.evlog ∧ t.elcnt = s.elcnt)

namespace Sys2Proof

/-- A grid that ends before its teams do: its threads have exited, its operations and calls are gone, and it keeps the outcome. -/
def gridStops (s t : State) (g out : Nat) : Prop :=
  (∀ n < s.threads.length, n ∈ (s.gridTeams g).flatMap s.teamThreads →
    t.thread n = { s.thread n with exited := true, wait := .none, pend := [], ev := none }) ∧
  (∀ n, n ∉ (s.gridTeams g).flatMap s.teamThreads → t.thread n = s.thread n) ∧
  t.ops = (s.ops.filter fun o => o.grid != g) ∧ (t.deques = s.deques.filter fun e => e.grid != g) ∧
  (∀ tm ∈ s.gridTeams g, (t.team tm).ended = true) ∧ t.hbm = s.hbm ∧
  t.grid g = { s.grid g with stop := some out, resv := none, wait := none } ∧ ∀ n, n ≠ g → t.grid n = s.grid n

end Sys2Proof

/-- A launch that is done writes its completion record: COUNT rises by 1 after OUTCOME, the cause, the reason, the handle and the
trap's registers; its vector is raised and its entry freed. A grid-fatal trap ends its grid with outcome 1, its context kept while
fewer than 16 are; an abort ends it with 2; a suspended launch's clusters stop, until it is resumed (R423, R424, R447, R452,
R473). The model's choices in it: log entries 34, 35 and 37. -/
def Obligations.LaunchesEnd : Prop :=
  (∀ (s : State) (g : Nat), let gr := s.grid g
    g < s.grids.length → s.completes g = true → s.recs = [] →
    let freed := fun t : State => (gr.entry < 1024 → t.lFreed = s.lFreed ++ [gr.entry] ∧
        t.ltab = assocSet default s.ltab gr.entry { s.lent gr.entry with grid := none }) ∧
      t.grid g = { gr with ended := true, resv := none } ∧ (∀ n, n ≠ g → t.grid n = s.grid n) ∧
      t.deques = (s.deques.filter fun e => e.grid != g) ∧ t.threads = s.threads
    (gr.lr.crec = 0 → gr.reason = 0 → runsTo (.launchComplete g) s fun t => freed t ∧ t.hbm = s.hbm ∧
      t.vectors = if gr.lr.irq then s.vectors ||| laneBit gr.lr.vec.toNat else s.vectors) ∧
    ∀ (pa : Nat) (x : Bool), let a := gr.lr.crec.toNat
      a ≠ 0 → a % 32 = 0 → a + 32 ≤ 2 ^ 57 → s.windowHit gr.lr.asid.toNat a 32 = none → s.memsWf = true →
      (s.xlate gr.lr.asid.toNat a).1 = .ok pa true true x → s.hbm.pzIn pa 32 = false →
      (∀ y ∈ s.accs, y.st ≠ .watch) → (∀ y ∈ s.grids, y.ended = true ∨ y.ready = true ∨ y.deps = [] ∨ y.lr.asid ≠ gr.lr.asid) → gr.stop.getD 0 < 256 →
      let f : FatalTrap := if gr.stop = some 1 then gr.fatal.getD ⟨0, 0, 0, 0, 0⟩ else ⟨0, 0, 0, 0, 0⟩
      runsTo (.launchComplete g) s fun t => freed t ∧
        storesBytes s t .glob 0 pa (natLe 8 (leNat (s.hbm.read pa 8) + 1) ++ natLe 1 (gr.stop.getD 0) ++ natLe 1 f.cause ++
          natLe 2 gr.reason ++ natLe 4 gr.handle.toNat ++ natLe 8 f.tpc.toNat ++ natLe 8 f.tinfo.toNat) false ∧
        t.vectors = if gr.lr.irq then s.vectors ||| laneBit gr.lr.vec.toNat else s.vectors) ∧
  (∀ (s : State) (g : Nat) (f : FatalTrap), let gr := s.grid g
    g < s.grids.length → gr.fatal = some f → gr.ended = false → gr.stop = none → runsTo (.gridFatalTrap g) s fun t =>
      gridStops s t g 1 ∧
      (s.ctxs.length < 16 → ∃ c : Ctx, t.ctxs = s.ctxs ++ [c] ∧ c.handle = gr.handle ∧ c.addr % 256 = 0 ∧ c.addr < hbmSize ∧
        Logged s t 6 (BitVec.ofNat 64 c.addr)) ∧
      (16 ≤ s.ctxs.length → t.ctxs = s.ctxs ∧ Logged s t 6 0)) ∧
  ∀ (s : State) (h : W32) (g : Nat), s.launchOf h = some g → g < s.grids.length → s.regs.bootState ≠ 3 → (s.grid g).stop = none →
    runsTo (.schedcmdAbort h) s (fun t => gridStops s t g 2) ∧
    runsTo (.schedcmdSuspend h) s (fun t =>
      t = { s with threads := t.threads, clusters := t.clusters, grids := t.grids, runs := t.runs } ∧
      t.grid g = { s.grid g with susp := true, resv := none, evict := false } ∧ (∀ n, n ≠ g → t.grid n = s.grid n) ∧
      (∀ n, t.thread n = { s.thread n with pc := (t.thread n).pc }) ∧
      ∀ c < s.clusters.length, t.cluster c =
        if (s.cluster c).grid = g ∧ (s.cluster c).out = false ∧ s.clusterEnded c = false then { s.cluster c with swapping := true }
        else s.cluster c) ∧
    runsTo (.schedcmdResume h) s fun t => t = { s with grids := t.grids } ∧ t.grid g = { s.grid g with susp := false } ∧
      ∀ n, n ≠ g → t.grid n = s.grid n

/-- A swap decision stops a cluster's chains; a stalled access or operation becomes a restart record; a quiet cluster is swapped
out, its contexts saved, its windows closed and its matrix units given up; a cluster swapped in goes on on the cores where it lands, with its threads'
registers as they were (R346, R452–R457). The model's choices in it: log entries 37 and 38. -/
def Obligations.ClustersSwap : Prop :=
  (∀ (s : State) (tm : Nat), let c := (s.team tm).cluster
    s.swapCause tm = true → s.clusterEnded c = false → c < s.clusters.length → runsTo (.swapDecision tm) s fun t =>
      t = { s with threads := t.threads, clusters := t.clusters, runs := t.runs } ∧
      t.cluster c = { s.cluster c with swapping := true } ∧ (∀ k, k ≠ c → t.cluster k = s.cluster k) ∧
      t.runs = (s.runs.filter fun r => (s.team (s.group r.grp).team).cluster != c) ∧
      ∀ n, t.thread n = { s.thread n with pc := (t.thread n).pc }) ∧
  (∀ (s : State) (id : Nat),
    (∀ a, s.accs.find? (fun a => a.id == id) = some a → (a.st = .refused ∨ ∃ e, a.st = .faulted e) →
      (∀ o ∈ s.ops, ∀ d, o.kind ≠ .drain d) → s.swappingTeam (s.teamOf a.thread) = true → runsTo (.swapwaitExpiry id) s fun t =>
        t = { s with accs := s.accs.map fun a => if a.id = id then { a with st := .ready, parked := true } else a }) ∧
    (∀ o w, (∀ a ∈ s.accs, a.id ≠ id) → s.opOf id = some o → o.kind = .wbload w → s.swappingTeam o.team = true → o.parked = false →
      (o.st = .refused ∨ ∃ e, o.st = .faulted e) → runsTo (.swapwaitExpiry id) s fun t =>
        t = { s with ops := s.ops.map fun o => if o.id = id then { o with st := .run, parked := true, engine := false } else o })) ∧
  (∀ (s : State) (c : Nat), s.swapReady c = true → c < s.clusters.length → s.memsWf = true → runsTo (.swapOut c) s fun t =>
    let mine := fun tm => (s.cluster c).t0 ≤ tm ∧ tm < (s.cluster c).t0 + (s.cluster c).nt ∧ s.teamEnded tm = false
    t = { s with clusters := t.clusters, wins := t.wins, mxus := t.mxus, ops := t.ops, locks := t.locks, accs := t.accs, teams := t.teams,
                 areas := t.areas, tick := t.tick } ∧
    (∀ tm, mine tm → ∃ x : Ctx, (tm, x) ∈ t.areas ∧ x.handle = (s.grid (s.cluster (s.team tm).cluster).grid).handle ∧
      x.addr % 256 = 0 ∧ x.addr < hbmSize) ∧
    t.cluster c = { s.cluster c with swapping := false, out := true } ∧ (∀ k, k ≠ c → t.cluster k = s.cluster k) ∧
    (∀ n, mine (s.win n).team → (s.win n).st = .opened → t.win n = { s.win n with st := .closed }) ∧
    (∀ n, ¬(mine (s.win n).team ∧ (s.win n).st = .opened) → t.win n = s.win n) ∧
    (∀ u tm, (s.mxu u).claim = some tm → t.mxu u = if mine tm then default else s.mxu u) ∧
    ∀ n, t.team n = { s.team n with saved := (t.team n).saved }) ∧
  ∀ (s : State) (g c : Nat) (l : List (Nat × Nat)), s.nextPlaced = some ((g, some c), l) → (∀ o ∈ s.ops, o.can = false) →
    c < s.clusters.length → (s.cluster c).t0 + (s.cluster c).nt ≤ s.teams.length →
    runsTo (.swapIn c) s fun t => ∃ r ∈ l,
      let lr := (s.grid (s.cluster c).grid).lr
      let cs := rectCores lr.w.toNat lr.h.toNat r
      t.cluster c = { s.cluster c with out := false } ∧ (∀ k, k ≠ c → t.cluster k = s.cluster k) ∧
      (∀ k < cs.length, (s.cluster c).t0 + k < s.teams.length →
        t.team ((s.cluster c).t0 + k) = { s.team ((s.cluster c).t0 + k) with core := cs.getD k 0, saved := [] }) ∧
      (∀ n, t.thread n = { s.thread n with age := (t.thread n).age, wait := (t.thread n).wait }) ∧
      (∀ n, t.group n = { s.group n with slot := (t.group n).slot }) ∧ t.hbm = s.hbm

/-! ## The host, the links and the module -/

/-- The host's register writes: BAR0 registers take the value of their fields and ignore one that sets an MBZ bit; SRDATA reads
and writes the register selected, and a refused write sets ERR; HQTAIL and CTXFREE; a translation command is accepted when its
operands are in order, and takes effect when it is done (R5, R419, R449, R469–R473). The model's choices in it: log entries 42 and
43. -/
def Obligations.HostRegistersAndCommands : Prop :=
  (∀ (s : State) (v : Word), s.regs.bootState ≠ 3 →
    let w := fun (off : Nat) (Q : State → Prop) => runsTo (.registerWrite off v) s Q
    w 0x12008 (fun t => t = if v.toNat < 2 ^ 32 then { s with elack := v.setWidth 32 } else s) ∧
    (outside v 0x80000000FFFFFFFF = false → w 0x12000 fun t => t = { s with ellost := s.ellost && !v.getLsbD 63 }) ∧
    (outside v 0x80000FFF000003FF = false → w 0x10800 fun t =>
      t = { s with regs := { s.regs with srAsid := v.toNat / 2 ^ 32 % 2 ^ 12, srNum := v.toNat % 2 ^ 10 } }) ∧
    (outside v 0xFFFFFFFFC0000000 = false → w 0x10C00 fun t => t = { s with regs := { s.regs with bar2 := v.toNat } }) ∧
    w 0x11008 (fun t => t = { s with regs := { s.regs with xlArg := v } }) ∧
    (∀ q : Fin 16, let h := s.hq q.val
      (outside v 0xFFFFFFFF00 = false → w (0x10000 + 32 * q.val) fun t =>
        t = { s with hqs := assocSet default s.hqs q.val { h with base := v.toNat } }) ∧
      (outside v 0xCFFF000F = false → v.toNat % 16 ≤ 12 → w (0x10008 + 32 * q.val) fun t =>
        let h' : HostQ := { h with en := v.getLsbD 31, err := h.err && !v.getLsbD 30, asid := v.toNat / 2 ^ 16 % 2 ^ 12, logn := v.toNat % 16 }
        t = { s with hqs := assocSet default s.hqs q.val h' })) ∧
    ∀ off, off % 8 ≠ 0 → w off fun t => t = s) ∧
  (∀ (s : State) (v : Word), s.regs.bootState ≠ 3 →
    let n := s.regs.srNum
    let done := fun (t : State) (err : Bool) => t.regs = { s.regs with srErr := err } ∧ t.hostData = s.hostData
    let seen := if n < 0x380 then s else s.countDl
    runsTo (.srdataAccess false v) s (fun t =>
      t = { seen with hostData := natLe 8 (seen.srRead s.regs.srAsid n).toNat, tick := seen.tick + 1 }) ∧
    (n = 0x302 → runsTo (.srdataAccess true v) s fun t => if v.toNat < 2
      then done t false ∧ t = { s.setAreg s.regs.srAsid n v with regs := t.regs, tick := t.tick }
      else done t true ∧ t = { s with regs := t.regs, tick := t.tick }) ∧
    (n = 0x202 ∨ n = 0x203 → runsTo (.srdataAccess true v) s fun t => if v.toNat < 2 ^ 32
      then done t false ∧ t = { s with mregs := assocSet 0 s.mregs n v, regs := t.regs, tick := t.tick }
      else done t true ∧ t = { s with regs := t.regs, tick := t.tick }) ∧
    (n < 0x200 ∨ sysKnown n = false → runsTo (.srdataAccess true v) s fun t => done t false ∧ t = { s with regs := t.regs })) ∧
  (∀ (s : State) (v : Word), s.regs.bootState ≠ 3 →
    (∀ q : BitVec 4, runsTo (.hqtailWrite q v) s fun t =>
      t = if v.toNat < 2 ^ 32 then { s with hqs := assocSet default s.hqs q.toNat { s.hq q.toNat with tail := v.setWidth 32 } } else s) ∧
    runsTo (.ctxfree v) s (fun t => t =
      if v.toNat < 2 ^ 32 then { s with ctxs := s.ctxs.filter fun c => c.handle != v.setWidth 32 } else s) ∧
    ∀ x ∈ [(Instr.xlcmdRoot v, 1, s.regs.xlArg.toNat % 4096 = 0 ∧ s.regs.xlArg.toNat < hbmSize),
        (.xlcmdInval v, 2, v.toNat / 2 ^ 31 % 2 ^ 16 ≠ 0 ∧ s.regs.xlArg.toNat % 65536 = 0),
        (.xlcmdResolve v, 3, (assocGet none s.fbuf (v.toNat % 4096)).isSome = true),
        (.xlcmdFail v, 4, (assocGet none s.fbuf (v.toNat % 4096)).isSome = true)],
      let mbz := v.toNat / 2 ^ 12 % 2 ^ 19 = 0
      let c : XlCmd := { op := x.2.1, asid := v.toNat / 2 ^ 47 % 2 ^ 12, count := v.toNat / 2 ^ 31 % 2 ^ 16, entry := v.toNat % 4096,
                         arg := s.regs.xlArg.toNat }
      (s.regs.xlCmd.isSome = true → runsTo x.1 s fun t => t = s) ∧
      (s.regs.xlCmd = none → mbz → x.2.2 → runsTo x.1 s fun t =>
        t = { s with regs := { s.regs with xlErr := false, xlCmd := some c } }) ∧
      (s.regs.xlCmd = none → ¬(mbz ∧ x.2.2) → runsTo x.1 s fun t => t = { s with regs := { s.regs with xlErr := true } })) ∧
  ∀ (s : State) (c : XlCmd), s.regs.xlCmd = some c →
    (c.op = 1 → runsTo .xlcmdCommandDone s fun t =>
      t = { s with regs := { s.regs with xlCmd := none }, roots := assocSet none s.roots c.asid (some c.arg) }) ∧
    (c.op = 2 → runsTo .xlcmdCommandDone s fun t =>
      t = { s with regs := { s.regs with xlCmd := none }, lines := t.lines, l1 := t.l1, hbm := t.hbm, ptes := t.ptes, maps := t.maps, recs := t.recs, tick := t.tick } ∧
      ((∀ pa, s.aliased pa = false) → t.hbm = s.hbm) ∧
      (∀ n, n ∈ t.l1 ↔ n ∈ s.l1 ∧ ¬(n.core < 256 ∧ n.asid = c.asid ∧ overlap n.la 128 c.arg (65536 * c.count) = true)) ∧
      (∀ n, n ∈ t.lines ↔ n ∈ s.lines ∧ ¬(n.asid = c.asid ∧ overlap n.la 256 c.arg (65536 * c.count) = true)) ∧
      ∀ p ∈ s.ptes, p.asid ≠ c.asid → p ∈ t.ptes) ∧
    (c.op = 3 → runsTo .xlcmdCommandDone s fun t =>
      let fb := assocSet none s.fbuf c.entry none
      t = { s with regs := { s.regs with xlCmd := none }, fbuf := fb, replays := t.replays, accs := t.accs, ops := t.ops, arrs := t.arrs, reqs := t.reqs, ireqs := t.ireqs, hqs := t.hqs, grids := t.grids, threads := t.threads } ∧
      t.replays = s.replays ++ ((assocGet none s.fbuf c.entry).map (·.order)).getD [] ∧
      (t.accs = s.accs.map fun a => if a.st = .faulted c.entry then { a with st := .faulted replayNo } else a) ∧
      (t.ops = s.ops.map fun o => if o.st = .faulted c.entry then { o with st := .faulted replayNo } else o) ∧
      ∀ n, t.thread n = match (s.thread n).wait with
        | .xlate e a => if e = c.entry then { s.thread n with wait := .xlate replayNo a } else s.thread n
        | _ => s.thread n)

/-- Key commands install and retire a port's keys and zero KEYDATA; a link block whose tag or sequence number fails is dropped and
logged, and a transfer that it could be part of refused; an accepted one advances its epoch's sequence number and brings a transfer its
next bytes, decrypted and decompressed; a port trains or goes down (R358, R360, R477). The model's
choices in it: log entry 26. -/
def Obligations.LinksAndKeys : Prop :=
  (∀ (s : State) (v : Word), s.regs.bootState ≠ 3 → outside v 0xE0000000000F00FF = false →
    let p := v.toNat / 2 ^ 16 % 16
    let e := v.toNat % 256
    let k := s.regs.key
    let q := s.port p
    let does := fun (t : State) (q' : Port) =>
      t = { s with ports := assocSet default s.ports p q', regs := { s.regs with keyData := List.replicate 4 0 } }
    runsTo (.keycmdInstallSend v) s (fun t => does t { q with send := some (e, k), seq := 0 }) ∧
    runsTo (.keycmdInstallReceive v) s (fun t => ∃ l, does t { q with recv := l } ∧ l.length ≤ 2 ∧ l.getLast? = some (e, k, none) ∧
      ∀ x ∈ l, x = (e, k, none) ∨ x ∈ q.recv ∧ x.1 ≠ e) ∧
    runsTo (.keycmdRetire v) s fun t => does t { q with send := none, recv := [] }) ∧
  (∀ (s : State) (port : Nat) (h : Word) (payload tag : List Byte), let q := s.port port
    let src := s.blockFrom
    (q.accepts src.1 src.2 h payload tag = none → runsTo (.linkBlockReceive port h payload tag) s fun t => ∃ u, Logged s.next u 2 (BitVec.ofNat 64 (port % 16)) ∧
      ((t = u ∧ u.ports = s.ports ∧ u.arrs = s.arrs) ∨ ∃ a ∈ s.receiving, t = u.blockLost a)) ∧
    (∀ k, q.accepts src.1 src.2 h payload tag = some k → runsTo (.linkBlockReceive port h payload tag) s fun t =>
      t = { s with ports := t.ports, arrs := t.arrs, tick := t.tick, nextId := t.nextId } ∧
      (t.arrs = s.arrs ∨ ∃ n key bs mark, linkValid h = n ∧ (q.recv[k]?).map (fun x => x.2.1) = some key ∧ bs.length = n ∧
        bs = linkBytes (h.toNat / 2 ^ 16 % 4) n (linkCipher key src.1 src.2 h payload) ∧
        ((∃ a ∈ s.receiving, Nat.min 256 a.missing = n ∧ t.arrs = s.arrs.map fun b => if b.id = a.id then b.take bs mark else b) ∨
          ∃ a : Arrival, a.op = none ∧ a.bytes = [] ∧ t.arrs = s.arrs ++ [a.take bs mark])) ∧
      ∃ r : List (Nat × Nat × Option Nat), t.ports = assocSet default s.ports port { q with recv := r } ∧ r.length = q.recv.length ∧
        ∀ j, r[j]? = (q.recv[j]?).map fun x => if j = k then (x.1, x.2.1, some (h.toNat / 2 ^ 32)) else x)) ∧
  ∀ (s : State) (p : BitVec 4) (up : Bool), runsTo (.ualinkPortStateChange p up) s fun t =>
    t = { s with ports := assocSet default s.ports p.toNat { s.port p.toNat with trained := up } }

/-- Module reset brings every register to its reset value, with the stored chip-scratchpad size in force; a retried boot passes, its image then in flash, or
fails again; BAR2 reads and writes HBM4; an attestation report is asked for and, once the firmware runs, written with identity and nonce; a
soft error poisons a unit; a die that reaches 105 °C is throttled and logged until it falls below 95; a shutdown at 115 °C stops every
clock (R143, R468, R470, R475, R476, R478). The model's choices in it: log entries 37, 41, 44, 45 and 53. -/
def Obligations.ModuleEvents : Prop :=
  (∀ s : State, runsTo .moduleReset s fun t =>
    let r := { Regs.reset with cspCur := s.regs.cspNext, cspNext := s.regs.cspNext }
    t = { State.reset with tick := s.tick + 1, inputs := s.inputs, resizes := s.resizes, flash := s.flash,
                           remap := s.remap, regs := r }) ∧
  (∀ s : State, s.regs.bootState = 3 → runsTo .bootstatRetry s fun t =>
    t = { s with regs := { s.regs with bootState := t.regs.bootState, bootReason := t.regs.bootReason }, flash := t.flash, tick := t.tick } ∧
      (t.regs.bootState = 1 ∧ t.regs.bootReason = 0 ∧ t.flash = s.recovery ∨
        t.regs.bootState = 3 ∧ 1 ≤ t.regs.bootReason ∧ t.regs.bootReason ≤ 3 ∧ t.flash = s.flash)) ∧
  (∀ (s : State) (off : Nat) (bs : List Byte), let a := s.regs.bar2 / s.regs.bar2Size * s.regs.bar2Size + off
    off + bs.length ≤ s.regs.bar2Size → a + bs.length ≤ hbmSize →
    (s.memsWf = true → runsTo (.bar2Access true off bs) s fun t =>
      t = { s with hbm := t.hbm, recs := t.recs, ctxs := s.ctxs.map (·.put a bs), areas := s.areas.map fun x => (x.1, x.2.put a bs) } ∧
      storesBytes s t .glob 0 a bs false) ∧
    ((∀ k < bs.length, s.ctxByte (a + k) = none ∧ s.hbm.unitPz ((a + k) / 32) = false ∧ s.aliased (a + k) = false) →
      runsTo (.bar2Access false off bs) s fun t => t = { s with hostData := s.hbm.read a bs.length, tick := s.tick + 1 })) ∧
  (∀ (s : State) (v : Word), s.regs.bootState ≠ 3 → outside v 0x800000FFFFFFF000 = false → s.regs.att = none →
    runsTo (.attcmd v) s fun t => t = { s with regs := { s.regs with att := some (v.toNat / 2 ^ 12 % 2 ^ 28 * 4096) } }) ∧
  (∀ (s : State) (a : Nat), s.regs.bootState = 2 → s.regs.att = some a → a + 4096 ≤ hbmSize → s.memsWf = true →
    (∀ k < 32, s.aliased (a + k) = false) → runsTo .attestReportDone s fun t =>
    t = { s with hbm := t.hbm, recs := t.recs, ctxs := t.ctxs, areas := t.areas, regs := { s.regs with att := none }, tick := t.tick } ∧
    ∃ bs : List Byte, storesBytes s t .glob 0 a bs false ∧ bs.length = 4096 ∧ bs.take 8 = [0x41, 0x54, 0x52, 0x01, 0, 0, 0, 0] ∧
      (bs.drop 8).take 16 = natLe 16 s.identity ∧ (bs.drop 24).take 32 = s.hbm.read a 32 ∧
      (bs.drop 0x38).take 48 = (List.range 48).map (Config.measurement s.flash) ∧
      (bs.drop 0x70).take 64 = (List.range 64).map (Config.ed25519 (bs.take 0x70)) ∧ bs.drop 0xD9D = List.replicate 611 0) ∧
  (∀ (s : State) (owner u : Nat), s.memsWf = true →
    runsTo (.softError 0 owner u) s (fun t => t = { s with hbm := { s.hbm with pz := t.hbm.pz }, recs := t.recs } ∧
      ∀ k, t.hbm.unitPz k = (decide (k = u) || s.hbm.unitPz k)) ∧
    runsTo (.softError 3 owner u) s fun t => t = { s with chip := { s.chip with pz := t.chip.pz } } ∧
      ∀ k, t.chip.unitPz k = (decide (k = u) || s.chip.unitPz k)) ∧
  ∀ (s : State) (d : BitVec 2), s.regs.hot.length = 4 → s.regs.clk.length = 4 →
    let n := d.toNat
    let at_ := fun (T : Nat) => s.regs.temp.set n T
    (s.regs.hot.getD n false = false → runsTo (.dieThrottle d) s fun t => ∃ T, 105 ≤ T ∧ T < 115 ∧
      Logged s t 7 (d.setWidth 64) ∧
      t = { s with evlog := t.evlog, elcnt := t.elcnt, ellost := t.ellost, vectors := t.vectors, tick := t.tick,
                   regs := { s.regs with temp := at_ T, hot := s.regs.hot.set n true, clk := s.regs.clk.set n 9 } }) ∧
    (s.regs.hot.getD n false = true → runsTo (.dieThrottle d) s fun t => ∃ T, 95 ≤ T ∧ T < 115 ∧
      t = { s with tick := t.tick, regs := { s.regs with temp := at_ T } }) ∧
    runsTo (.dieThrottleEnd d) s (fun t => ∃ T, T < (if s.regs.hot.getD n false then 95 else 105) ∧
      t = { s with tick := t.tick, regs := { s.regs with temp := at_ T, hot := s.regs.hot.set n false } }) ∧
    (∀ c : BitVec 8, 9 ≤ c.toNat → c.toNat ≤ 24 → s.regs.hot.getD n false = false → runsTo (.clockChange d c) s fun t =>
      t = { s with regs := { s.regs with clk := s.regs.clk.set n c.toNat } }) ∧
    runsTo .thermalShutdown s fun t => ∃ die < 4, ∃ T, 115 ≤ T ∧ T < 256 ∧
      t = { s with tick := t.tick, regs := { s.regs with temp := s.regs.temp.set die T, stopped := true }, ports := t.ports } ∧
      (∀ p ∈ t.ports, p.2.trained = false) ∧ t.ports.length = s.ports.length

/-! ## Traps -/

namespace Sys2Proof

/-- A decision of user-handled faults that finds TSET empty: the lanes of the lowest cause class enter the handler, with the registers
of R443 written; the other faulting lanes are deferred; every other thread goes on as it was (R441, R443, R444). -/
def trapEntrySavesAndEnters : Prop :=
  ∀ s : State, s.issue.stalls = [] → s.issue.faults ≠ [] → s.issue.grp < s.groups.length → s.ig.tset = 0 → s.ir.trapv ≠ 0 →
    (∀ f ∈ s.issue.faults, fatalCause f.cause = false ∧ f.cause < 0x100 ∧ s.ig.t0 + f.lane < s.threads.length) →
    (s.issue.faults.map (·.lane)).Nodup →
    runsTo .trapDecision s fun t =>
      let c := lowestClass s.issue.faults
      let fs := s.issue.faults.filter fun f => causeClass f.cause == c
      t = { if c = 0x0B then s.logFaults else s with threads := t.threads, groups := t.groups, issue := { s.issue with faults := [] } } ∧
      (∃ f ∈ fs, (∀ x ∈ fs, f.lane ≤ x.lane) ∧
        t.ig = s.ig.entered fs (lowestCause fs) f.word (reportInfo (lowestCause fs) fs)) ∧
      (∀ g, g ≠ s.issue.grp → t.group g = s.group g) ∧
      (∀ f ∈ fs, t.lt f.lane = (s.lt f.lane).entered s) ∧
      (∀ f ∈ s.issue.faults, f ∉ fs → t.lt f.lane = (s.lt f.lane).deferred s) ∧
      ∀ n, (∀ f ∈ s.issue.faults, n ≠ s.ig.t0 + f.lane) → t.thread n = s.thread n

/-- While TSET is not empty, user-handled faults of lanes outside it are deferred; a grid-fatal fault, and any fault inside it, is
reported to the scheduler, the first report standing, and no lane enters a handler (R441, R444, R446, R447). -/
def trapsThatDoNotEnter : Prop :=
  (∀ s : State, s.issue.stalls = [] → s.ig.tset ≠ 0 → s.ir.trapv ≠ 0 →
    (∀ f ∈ s.issue.faults, fatalCause f.cause = false ∧ laneIn s.ig.tset f.lane = false ∧ s.ig.t0 + f.lane < s.threads.length) →
    runsTo .trapDecision s fun t =>
      t = { s with threads := t.threads, issue := { s.issue with faults := [] } } ∧
      (∀ f ∈ s.issue.faults, t.lt f.lane = (s.lt f.lane).deferred s) ∧
      ∀ n, (∀ f ∈ s.issue.faults, n ≠ s.ig.t0 + f.lane) → t.thread n = s.thread n) ∧
  (∀ s : State, s.issue.stalls = [] → s.gridOfGroup s.issue.grp < s.grids.length →
    (∃ f ∈ s.issue.faults, fatalCause f.cause = true ∨ s.ir.trapv = 0 ∨ laneIn s.ig.tset f.lane = true) →
    runsTo .trapDecision s fun t =>
      let g := s.gridOfGroup s.issue.grp
      t = { s.logFaults with threads := t.threads, grids := t.grids, issue := { s.issue with faults := [] } } ∧
      (t.grid g).fatal.isSome = true ∧ ((s.grid g).fatal.isSome = true → (t.grid g).fatal = (s.grid g).fatal) ∧
      (t.grid g) = { s.grid g with fatal := (t.grid g).fatal } ∧
      (∀ n, n ≠ g → t.grid n = s.grid n) ∧
      (∀ n, (t.thread n).slices = (s.thread n).slices ∧ (t.thread n).pend = (s.thread n).pend ∧ (t.thread n).spr = (s.thread n).spr) ∧
      ∀ n, (∀ f ∈ s.issue.faults, n ≠ s.ig.t0 + f.lane) → t.thread n = s.thread n)

end Sys2Proof

/-- What the decision of a chain's faults does (R441–R447). The model's choices in it: log entry 39. -/
def Obligations.TrapDecisions : Prop := trapEntrySavesAndEnters ∧ trapsThatDoNotEnter

/-- TRAP and BKPT send the lanes that execute them to the handler with their code in TINFO (R462, R443). -/
def Obligations.TrapWordsEnterHandler : Prop :=
  ∀ (g : Guard) (code : BitVec 14) (i : Instr) (cause : Nat),
    (i = .trap g code ∧ cause = 0x11 ∨ i = .bkpt g code ∧ cause = 0x12) →
    ∀ s : State, s.canRun i = true → s.issue.collect = false → s.ig.tset = 0 → s.ir.trapv ≠ 0 → s.actors i ≠ 0 →
      runsTo i s fun t =>
        t = { s with threads := t.threads, groups := t.groups } ∧
        t.ig = { s.ig with tset := s.actors i, tcause := BitVec.ofNat 8 cause, tinst := s.issue.word, tinfo := code.setWidth 64 } ∧
        (∀ k, k ≠ s.issue.grp → t.group k = s.group k) ∧
        (∀ l ∈ s.issue.lanes, t.lt l = if s.guardHolds l g then (s.lt l).entered s else s.lt l) ∧
        ∀ n, (∀ l ∈ s.issue.lanes, n ≠ s.ig.t0 + l) → t.thread n = s.thread n

/-- TRET takes its lanes out of the trap set and back to the chain that trapped, with skip past it; when the trap set has emptied,
the group's deferred threads become ready with age 0 (R463). -/
def Obligations.TrapReturn : Prop :=
  ∀ (g : Guard) (skip : Bool), let i : Instr := if skip then .tretSkip g else .tret g
    ∀ s : State, s.canRun i = true → (∀ l ∈ s.issue.lanes, s.guardHolds l g = true → laneIn s.ig.tset l = true) →
      runsTo i s fun t =>
        let e := s.actors i
        let back := fun l : Nat => if laneIn e l then
            (if skip then { s.lt l with spr := 0, pc := (s.lt l).tnpc } else { s.lt l with spr := (s.lt l).tspr, pc := (s.lt l).tpc })
          else s.lt l
        t = { s with threads := t.threads, groups := t.groups } ∧
        t.ig = { s.ig with tset := s.ig.tset &&& ~~~e } ∧
        (∀ k, k ≠ s.issue.grp → t.group k = s.group k) ∧
        (∀ l < s.ig.w, t.lt l =
          if s.ig.tset &&& ~~~e = 0 ∧ (back l).wait = .deferred then { back l with wait := .none, age := 0 } else back l) ∧
        ∀ n, (∀ l < s.ig.w, n ≠ s.ig.t0 + l) → t.thread n = s.thread n

/-! ## Class P: system registers -/

namespace Sys2Proof

/-- SYSRD writes the register to D; SYSWR of a thread register, of a group register and of a send counter writes it for each lane
that executes, in order; the numbers R449 refuses trap (R449, R464). -/
def systemRegisters : Prop :=
  (∀ g d r, ∀ s : State, s.canRun (.sysrd g d r) = true → sysFault r.toNat false = none →
    runsTo (.sysrd g d r) s fun t => LanesDo s t fun l x y =>
      if s.guardHolds l g then x.Wrote y x (x.locate s.gs d d.w.slices) (sliceVals d.w.slices (s.sysRead l r.toNat)) else y = x) ∧
  (∀ g a r, ∀ s : State, s.canRun (.syswr g a r) = true → sysFault r.toNat true = none →
    let v := fun l => if a.x then wordOf (sval a.w.bits (s.src l a a.w.bits)) else truncW a.w.bits (s.src l a a.w.bits)
    (∀ l ∈ s.issue.lanes, s.guardHolds l g = true → s.sysRefuses r.toNat (v l) = false) →
    runsTo (.syswr g a r) s fun t =>
      let ex := s.issue.lanes.filter fun l => s.guardHolds l g
      if r.toNat < 0x100 then LanesDo s t fun l x y => y = if s.guardHolds l g then x.sysWrite r.toNat (v l) else x
      else if r.toNat < 0x200 then
        t = { s with groups := t.groups } ∧ t.ig = ex.foldl (fun q l => q.sysWrite r.toNat (v l)) s.ig ∧
          ∀ k, k ≠ s.issue.grp → t.group k = s.group k
      else
        t = { s with teams := t.teams } ∧ (∀ k, k ≠ s.ig.team → t.team k = s.team k) ∧
          t.team s.ig.team = { s.team s.ig.team with sndc := (t.team s.ig.team).sndc } ∧
          ∀ k, (t.team s.ig.team).sndc.getD k 0 =
            if k = r.toNat - 0x210 ∧ ex.any (fun l => (v l).getLsbD 63) = true
            then (s.team s.ig.team).sndc.getD k 0 &&& 0x7FFFFFFFFFFFFFFF else (s.team s.ig.team).sndc.getD k 0) ∧
  (∀ g d a r, ∀ s : State, s.begun = true → 0x300 ≤ r.toNat → sysKnown r.toNat = true →
    runsTo (.sysrd g d r) s (fun t => t = (s.faultLanes s.issue.lanes fun _ => (0x08, permInfo 6 r.toNat)).finish) ∧
    (sysReadOnly r.toNat = false →
      runsTo (.syswr g a r) s fun t => t = (s.faultLanes s.issue.lanes fun _ => (0x08, permInfo 6 r.toNat)).finish))

/-- FMODE's words change the group's FMODE once, if a lane executes, and nothing else (R467). -/
def fmodeWords : Prop :=
  ∀ (g : Guard) (v : BitVec 11) (i : Instr) (f : BitVec 11 → BitVec 11),
    (i = .fmodeSet g v ∧ f = (fun m => m ||| v) ∨ i = .fmodeClr g v ∧ f = (fun m => m &&& ~~~v) ∨ i = .fmodeWr g v ∧ f = fun _ => v) →
    ∀ s : State, s.canRun i = true → runsTo i s fun t =>
      t = { s with groups := t.groups } ∧
      t.ig = (if s.actors i = 0 then s.ig else { s.ig with fmode := f s.ig.fmode }) ∧
      ∀ k, k ≠ s.issue.grp → t.group k = s.group k

end Sys2Proof

/-- SYSRD, SYSWR and the FMODE words (R449, R464, R467). -/
def Obligations.SystemRegisterWords : Prop := systemRegisters ∧ fmodeWords

/-! ## Words and their meanings -/

/-- Words written from the tables of 02, 04, 06, 16 and 18 decode to what they stand for (R28, R42, R45, R53). -/
def Obligations.DecodeWords : Prop :=
  let o : Width → Bool → Sel → Operand := fun w x sel => { w, x, sel }
  decode 0x040002800AF86800 = some (.iadd .always (o .w32 false (.slice 0)) (o .w32 false .lane) (o .w32 false (.slice 0))) ∧
  decode 0x209002828E022810 = some (.rng .always (o .w32 false (.slice 40)) (o .w64 false (.slice 8)) (o .w32 false (.slice 16))) ∧
  decode 0x2470000000000400 = some (.fmodeSet .always 0x400) ∧
  decode 0x2400000000001234 = some (.trap .always 0x1234) ∧
  decode 0xFFF0000000000000 = none ∧ decode 0x2400000010001234 = none

/-- Decoding gives back every well-formed instruction from its word, whatever the stitch and baste bits, which the word holds in its
bits 63 and 62 (R28, Table 2.1). -/
def Obligations.DecodeReturnsTheEncodedInstruction : Prop :=
  ∀ (i : Instr) (st ba : Bool) (w : Word), i.wf = true → encode i st ba = some w →
    decode w = some i ∧ stitch w = st ∧ baste w = ba

/-! ## Steps -/

/-- A step that issues a chain issues it for each group of its issue set in turn (R173). A chain of one word runs the instruction that
the word decodes to, for the group's lanes, whose pcs already stand at the next chain (R34, R35); the word is the one that the core's
instruction cache holds at the thread's pc (R29). While a trap of FMODE is enabled, a class D word's faults are only recorded, and are
decided when its result is ready (R442). After the issue only the delays of branches, releases and trap entries are added (R169, R177).
A step in which an event of a unit or an input comes next runs that event. What
follows from an event without one of its own (`State.follow`) comes after each. The model's choices in it: log entries 1, 3, 10 and
39. -/
def Obligations.StepRunsTheDecodedInstruction : Prop :=
  (∀ (s : State) (c p : Nat) (r : Ready) (w : Word) (i : Instr), s.regs.stopped = false → s.chosen = some (.issue c p) →
    s.chose.pick c p = some r → r.chain.words = [w] → decode w = some i →
    let s0 := s.chose
    let s1 := (s0.touchLine c (s0.recOf r.grp).asid.toNat (r.chain.pc / 128)).age c p r
    let h := (s.group r.grp).t0 + r.lanes.headD 0
    let pc := BitVec.ofNat 64 r.chain.pc
    (r.chain.pc = (s.thread h).pc.toNat ∧ ∃ n ∈ s.icache, n.core = s.coreOf h ∧ n.asid = s.asidOf h ∧ n.line = r.chain.pc / 128 ∧
      n.x = true ∧ n.word r.chain.pc = w) ∧
    s1 = { s with threads := s1.threads, icache := s1.icache, slotLast := s1.slotLast, tick := s1.tick } ∧
    (∀ n, ∃ a, s1.thread n = { s.thread n with age := a }) ∧
    (let t := (s0.parts c p r).foldl (fun u q => u.issueChain c p q) s1
     ∃ u : State, step s = .next u.follow ∧ u = { t with threads := u.threads } ∧ u.threads.length = t.threads.length ∧
      ∀ n < t.threads.length,
        let trapped := laneIn (t.group (t.thread n).grp).tset (t.thread n).lane && !laneIn (s0.group (t.thread n).grp).tset (t.thread n).lane
        let mine := (s0.parts c p r).any fun q => q.grp == (t.thread n).grp && q.lanes.contains (t.thread n).lane
        let d := delayOf r.iss mine (redirects i) pc (BitVec.ofNat 64 (r.chain.pc + 8)) trapped (s0.thread n) (t.thread n)
        u.thread n = { t.thread n with delay := d }) ∧
    ∀ q ∈ s0.parts c p r, q.chain = r.chain ∧ q.run = r.run ∧
      ∀ u : State, u.staticFault q = none → u.plain q [i] = true → (∀ l ∈ q.lanes, (u.group q.grp).t0 + l < u.threads.length) →
        let t0 := (u.group q.grp).t0
        let b := (u.begin q).atWord q [i] 0
        b = { u with threads := b.threads, issue := b.issue, nextId := b.nextId } ∧
        (∀ l ∈ q.lanes, b.thread (t0 + l) = { u.thread (t0 + l) with age := 0, pc := BitVec.ofNat 64 (r.chain.pc + 8) }) ∧
        (∀ n, (∀ l ∈ q.lanes, n ≠ t0 + l) → b.thread n = u.thread n) ∧
        (b.issue.grp = q.grp ∧ b.issue.lanes = q.lanes ∧ b.issue.pc = pc ∧ b.issue.wordAddr = pc ∧ b.issue.runPc = pc ∧
          b.issue.nextPc = BitVec.ofNat 64 (r.chain.pc + 8) ∧ b.issue.skipPc = BitVec.ofNat 64 r.chain.skip ∧ b.issue.word = w ∧
          b.issue.collect = false ∧ b.issue.sure = false ∧ b.issue.lead = none ∧ b.issue.faults = [] ∧ b.issue.stalls = []) ∧
        (u.decideAt q [i] = none → ∀ t, exec i b = .next t → u.issueChain c p q = t) ∧
        ∀ n t, u.decideAt q [i] = some n → exec i { b with issue := { b.issue with collect := true } } = .next t →
          u.issueChain c p q = t.putDecision n) ∧
  (∀ (s t : State) (i : Instr), s.regs.stopped = false → s.chosen = some (.event i) → exec i s.chose = .next t →
    step s = .next t.follow) ∧
  (∀ (s t : State) (i : Instr), s.regs.stopped = false → s.chosen = some (.input i) → isExternal i = true →
    exec i { s.chose with inputs := s.inputs.drop 1 } = .next t → step s = .next t.follow)

/-! ## Reset and the form of the memories -/

/-- What module reset leaves (R5, R368, R427, R452, R468, R471): nothing resident, and the registers that software reads at the
values of their tables. The model's choices in it: log entry 5. -/
def Obligations.ResetValues : Prop :=
  let s := State.reset
  s.threads = [] ∧ s.groups = [] ∧ s.teams = [] ∧ s.clusters = [] ∧ s.grids = [] ∧ s.seqs = [] ∧ s.wins = [] ∧ s.accs = [] ∧
    s.ops = [] ∧ s.reqs = [] ∧ s.hqs = [] ∧
  assocGet 0 s.mregs 0x202 = 2000 ∧ assocGet 0 s.mregs 0x203 = 20000 ∧ assocGet 0 s.mregs 0x305 = 50 ∧
  s.elcnt = 0 ∧ s.elack = 0 ∧ s.ellost = false ∧ s.accid = 0 ∧ s.vectors = 0 ∧
  s.regs.bootState = 0 ∧ s.regs.bootReason = 0 ∧ s.regs.bar2 = 0 ∧ s.regs.bar2Size = 2 ^ 30 ∧ s.regs.kvbAddr = 0 ∧
    s.regs.kvbCnt = 0 ∧ s.regs.srNum = 0 ∧ s.regs.srAsid = 0 ∧ s.regs.srErr = false ∧ s.regs.xlCmd = none ∧ s.regs.xlErr = false ∧ s.regs.xlArg = 0 ∧ s.regs.att = none ∧
    s.regs.keyData = [0, 0, 0, 0] ∧ s.regs.stopped = false

/-- At reset the memories are in their canonical form, in which equal contents are equal data (the model's own form of a memory), and
every group has its 12 member and arrival sets (R175). The model's choices in it: log entry 49. -/
def Obligations.ResetMeetsTheInvariants : Prop := State.reset.memsWf = true ∧ State.reset.masksWf = true

/-- Every step keeps every memory, the line tags and the tables of matrix units, windows and sequences in their canonical form, and
every group's 12 member and arrival sets (R175). The model's choices in it: log entry 49. -/
def Obligations.StepKeepsTheInvariants : Prop :=
  (∀ s t : State, s.memsWf = true → step s = .next t → t.memsWf = true) ∧
  ∀ s t : State, s.masksWf = true → step s = .next t → t.masksWf = true

end
end

