-- ==== Sys2Proof/Laws/Slices.lean ====
section
/-! SUPPORT. Slices of a thread and pending writes: what a write of slices makes every slice read afterwards (R64, R70). -/

namespace Sys2Proof
namespace Machine

theorem sliceVals_length (n : Nat) (v : Word) : (sliceVals n v).length = n := by
  induction n generalizing v with
  | zero => rfl
  | succ n ih => simp [sliceVals, ih]

/-- The slices of a value hold its low bits. -/
theorem sliceWord_sliceVals (n : Nat) (v : Word) : sliceWord (sliceVals n v) = truncW (4 * n) v := by
  induction n generalizing v with
  | zero => simp [sliceVals, sliceWord, truncW, Nat.mod_one]
  | succ n ih =>
    simp only [sliceVals, sliceWord, ih]
    refine BitVec.eq_of_getLsbD_eq fun i hi => ?_
    simp only [truncW, BitVec.getLsbD_or, BitVec.getLsbD_shiftLeft, BitVec.getLsbD_setWidth, BitVec.getLsbD_extractLsb',
      BitVec.getLsbD_ofNat, Nat.testBit_mod_two_pow, BitVec.testBit_toNat, BitVec.getLsbD_ushiftRight, Nat.zero_add, hi,
      decide_true, Bool.true_and]
    by_cases h : i < 4
    · simp [h, show i < 4 * (n + 1) by omega]
    · simp [h, show i - 4 < 64 by omega, show (i - 4 < 4 * n) ↔ (i < 4 * (n + 1)) by omega, show 4 + (i - 4) = i by omega]

theorem truncW_toNat (w : Nat) (v : Word) (h : w ≤ 64) : (truncW w v).toNat = v.toNat % 2 ^ w := by
  rw [truncW, BitVec.toNat_ofNat, Nat.mod_eq_of_lt]
  exact lt_of_lt_of_le (Nat.mod_lt _ (by positivity)) (Nat.pow_le_pow_right (by norm_num) h)

theorem truncW_getLsbD (w k : Nat) (v : Word) : (truncW w v).getLsbD k = (decide (k < w) && v.getLsbD k) := by
  by_cases hk : k < 64
  · simp only [truncW, BitVec.getLsbD_ofNat, Nat.testBit_mod_two_pow, hk, decide_true, Bool.true_and, BitVec.testBit_toNat]
  · simp [BitVec.getLsbD_of_ge _ _ (Nat.le_of_not_lt hk)]

/-- The slices of a value rest on its low bits alone. -/
theorem sliceVals_congr {n : Nat} {v w : Word} (h : truncW (4 * n) v = truncW (4 * n) w) : sliceVals n v = sliceVals n w := by
  have hb : ∀ k < 4 * n, v.getLsbD k = w.getLsbD k := fun k hk => by
    have := congrArg (fun x : Word => x.getLsbD k) h
    simpa [truncW_getLsbD, hk] using this
  clear h
  induction n generalizing v w with
  | zero => rfl
  | succ n ih =>
    simp only [sliceVals, List.cons.injEq, Slice.mk.injEq, and_true]
    refine ⟨BitVec.eq_of_getLsbD_eq fun i hi => ?_, ih fun k hk => ?_⟩
    · simpa [hi] using hb i (by omega)
    · simpa using hb (4 + k) (by omega)

theorem Width.bits_eq (w : Width) : w.bits = 4 * w.slices := by cases w <;> rfl

/-- The slices an operand covers are distinct (R65, R80). -/
theorem Thread.locate_nodup (th : Thread) (g : Nat) (o : Operand) (n : Nat) : (th.locate g o n).Nodup := by
  unfold Thread.locate
  split
  · refine List.Nodup.map ?_ List.nodup_range
    intro a b h
    simp only [Thread.phys] at h
    split at h <;> split at h <;> omega
  · exact List.Nodup.map (fun a b h => by simpa using h) List.nodup_range
  · exact List.nodup_nil

/-- An operand that names slices covers as many as it is asked for. -/
theorem Thread.locate_length (th : Thread) (g : Nat) (o : Operand) (n : Nat)
    (h : (∃ v, o.sel = .slice v) ∨ (∃ k, o.sel = .index k)) : (th.locate g o n).length = n := by
  rcases h with ⟨v, h⟩ | ⟨k, h⟩ <;> simp [Thread.locate, h]

/-- Where an operand's slices lie rests on the frame base and the index registers alone. -/
theorem Thread.locate_congr {a b : Thread} (hx : b.x = a.x) (hf : b.fb = a.fb) (g : Nat) (o : Operand) (n : Nat) :
    b.locate g o n = a.locate g o n := by
  unfold Thread.locate Thread.phys
  rw [hx, hf]

@[simp] theorem Thread.locate_addPend (th : Thread) (w : Pend) (g : Nat) (o : Operand) (n : Nat) :
    (th.addPend w).locate g o n = th.locate g o n := rfl

/-- A pending write of known values is what its slices read from then on; the others are as before (R70). -/
theorem Thread.slice_addPend (th : Thread) (w : Pend) (p : Nat) :
    (th.addPend w).slice p = (pendSlice w p).getD (th.slice p) := by
  simp only [Thread.slice, Thread.addPend, List.reverse_append, List.reverse_cons, List.reverse_nil, List.nil_append,
    List.singleton_append, List.findSome?_cons, Thread.fileSlice]
  cases pendSlice w p <;> rfl

theorem pendSlice_not_mem {w : Pend} {p : Nat} (h : p ∉ w.slices) : pendSlice w p = none := by
  unfold pendSlice
  split
  · have : w.slices.findIdx? (· == p) = none := by
      simp only [List.findIdx?_eq_none_iff, beq_eq_false_iff_ne, ne_eq]
      exact fun x hx he => h (he ▸ hx)
    rw [this]
  · rfl

theorem pendSlice_getElem {w : Pend} (hk : w.known = true) (hn : w.slices.Nodup) (i : Nat) (hi : i < w.slices.length) :
    pendSlice w w.slices[i] = w.vals[i]? := by
  have : w.slices.findIdx? (· == w.slices[i]) = some i := by
    rw [List.findIdx?_eq_some_iff_getElem]
    refine ⟨hi, by simp, fun j hj => ?_⟩
    simp only [beq_iff_eq]
    exact fun h => absurd ((List.Nodup.getElem_inj_iff hn).1 h) (by omega)
  simp [pendSlice, hk, this]

/-- Adding a pending write of values to distinct slices writes them. -/
theorem Thread.addPend_wrote (a : Thread) (id : Nat) {ps : List Nat} {vs : List Slice} (hn : ps.Nodup) (hl : vs.length = ps.length) :
    a.Wrote (a.addPend { id, slices := ps, vals := vs, known := true }) a ps vs := by
  refine ⟨?_, fun p hp => ?_, rfl⟩
  · refine List.ext_getElem (by simp [hl]) fun i h1 h2 => ?_
    rw [List.getElem_map, Thread.slice_addPend]
    have := pendSlice_getElem (w := { id, slices := ps, vals := vs, known := true }) rfl hn i (by simpa using h1)
    simp only [] at this
    rw [this, List.getElem?_eq_getElem h2]; rfl
  · rw [Thread.slice_addPend, pendSlice_not_mem hp]; rfl

/-- The slices read the same in a thread whose latches alone differ. -/
@[simp] theorem Thread.slice_latched (th : Thread) (k : Option Nat) (v : Word) (w : Width) (p : Nat) :
    (th.latched k v w).slice p = th.slice p := by cases k <;> rfl

@[simp] theorem Thread.locate_latched (th : Thread) (k : Option Nat) (v : Word) (w : Width) (g : Nat) (o : Operand) (n : Nat) :
    (th.latched k v w).locate g o n = th.locate g o n := by cases k <;> rfl

end Machine
end Sys2Proof
end

