-- ==== Sys2Proof/Laws/Lanes.lean ====
section
/-! SUPPORT. The fold of a word over its issue set, said once: a word whose lanes each change their own thread, in a state where no
lane faults on its operands, answers a state in which each thread of the issue set has changed as its lane says. -/

namespace Sys2Proof
namespace Machine
open Host

/-! ## States that differ in threads alone -/

/-- The states differ in their threads and the next identifier alone, and have as many threads. -/
def ThreadsOnly (s t : State) : Prop :=
  t = { s with threads := t.threads, nextId := t.nextId } ∧ t.threads.length = s.threads.length

theorem ThreadsOnly.refl (s : State) : ThreadsOnly s s := ⟨rfl, rfl⟩

theorem ThreadsOnly.trans {s t u : State} (h : ThreadsOnly s t) (k : ThreadsOnly t u) : ThreadsOnly s u := by
  obtain ⟨h1, h2⟩ := h
  obtain ⟨k1, k2⟩ := k
  refine ⟨?_, k2.trans h2⟩
  rw [k1, h1]

theorem ThreadsOnly.ig {s t : State} (h : ThreadsOnly s t) : t.ig = s.ig := by rw [h.1]; rfl
theorem ThreadsOnly.ir {s t : State} (h : ThreadsOnly s t) : t.ir = s.ir := by rw [h.1]; rfl
theorem ThreadsOnly.gs {s t : State} (h : ThreadsOnly s t) : t.gs = s.gs := by rw [h.1]; rfl
theorem ThreadsOnly.issue {s t : State} (h : ThreadsOnly s t) : t.issue = s.issue := by rw [h.1]
theorem ThreadsOnly.team {s t : State} (h : ThreadsOnly s t) (n : Nat) : t.team n = s.team n := by rw [h.1]; rfl

/-- A change of one lane's thread that may use a fresh identifier. -/
theorem ThreadsOnly.onLane (s : State) (l : Nat) (f : Thread → Thread) : ThreadsOnly s (s.onLane l f) :=
  ⟨rfl, by simp [State.onLane, State.onThread]⟩

theorem ThreadsOnly.fresh (s : State) : ThreadsOnly s s.fresh := ⟨rfl, rfl⟩

theorem State.onThread_thread (s : State) (n m : Nat) (f : Thread → Thread) (h : n < s.threads.length) :
    (s.onThread n f).thread m = if m = n then f (s.thread n) else s.thread m := by
  simp only [State.thread, State.onThread, List.getD_eq_getElem?_getD, List.getElem?_modify]
  by_cases e : n = m
  · subst e
    simp [List.getElem?_eq_getElem h]
  · simp [e, Ne.symm e]

theorem State.onLane_lt (s : State) (l : Nat) (f : Thread → Thread) (h : s.ig.t0 + l < s.threads.length) :
    (s.onLane l f).lt l = f (s.lt l) := by
  show (s.onThread (s.ig.t0 + l) f).thread (s.ig.t0 + l) = _
  rw [State.onThread_thread s _ _ f h]; simp [State.lt]

theorem State.onLane_thread (s : State) (l : Nat) (f : Thread → Thread) (n : Nat) (h : n ≠ s.ig.t0 + l) :
    (s.onLane l f).thread n = s.thread n := by
  simp only [State.thread, State.onLane, State.onThread, List.getD_eq_getElem?_getD, List.getElem?_modify]
  simp [Ne.symm h]

/-- The lane's thread alone has changed. -/
structure LaneOnly (s : State) (l : Nat) (t : State) : Prop where
  threads : ThreadsOnly s t
  others : ∀ n, n ≠ s.ig.t0 + l → t.thread n = s.thread n

theorem LaneOnly.refl (s : State) (l : Nat) : LaneOnly s l s := ⟨.refl s, fun _ _ => rfl⟩

theorem LaneOnly.trans {s t u : State} {l : Nat} (h : LaneOnly s l t) (k : LaneOnly t l u) : LaneOnly s l u :=
  ⟨h.threads.trans k.threads, fun n hn => (k.others n (by rwa [h.threads.ig])).trans (h.others n hn)⟩

theorem LaneOnly.onLane (s : State) (l : Nat) (f : Thread → Thread) : LaneOnly s l (s.onLane l f) :=
  ⟨.onLane s l f, fun n hn => s.onLane_thread l f n hn⟩

theorem LaneOnly.fresh (s : State) (l : Nat) : LaneOnly s l s.fresh := ⟨.fresh s, fun _ _ => rfl⟩

/-! ## The fold -/

/-- What one lane of a fold may rest on: the state it meets differs from the first one in other lanes' threads alone. -/
theorem foldl_lanes {s : State} {f : State → Nat → State} {P : Nat → Thread → Thread → Prop} (ls : List Nat) (hn : ls.Nodup)
    (hf : ∀ s' l, l ∈ ls → ThreadsOnly s s' → s'.lt l = s.lt l → LaneOnly s' l (f s' l) ∧ P l (s.lt l) ((f s' l).lt l)) :
    let t := ls.foldl f s
    ThreadsOnly s t ∧ (∀ n, (∀ l ∈ ls, n ≠ s.ig.t0 + l) → t.thread n = s.thread n) ∧ ∀ l ∈ ls, P l (s.lt l) (t.lt l) := by
  suffices H : ∀ (ls : List Nat) (s' : State), ls.Nodup → ThreadsOnly s s' → (∀ l ∈ ls, s'.lt l = s.lt l) →
      (∀ s' l, l ∈ ls → ThreadsOnly s s' → s'.lt l = s.lt l → LaneOnly s' l (f s' l) ∧ P l (s.lt l) ((f s' l).lt l)) →
      ThreadsOnly s (ls.foldl f s') ∧
        (∀ n, (∀ l ∈ ls, n ≠ s.ig.t0 + l) → (ls.foldl f s').thread n = s'.thread n) ∧
        ∀ l ∈ ls, P l (s.lt l) ((ls.foldl f s').lt l) from
    H ls s hn (.refl s) (fun _ _ => rfl) hf
  intro ls
  induction ls with
  | nil => exact fun s' _ ht _ _ => ⟨ht, fun _ _ => rfl, by simp⟩
  | cons a r ih =>
    intro s' hn ht hl hf
    obtain ⟨ha, hr⟩ := List.nodup_cons.1 hn
    obtain ⟨h1, h2⟩ := hf s' a (by simp) ht (hl a (by simp))
    have ht' := ht.trans h1.threads
    have hl' : ∀ l ∈ r, (f s' a).lt l = s.lt l := fun l hm => by
      have hne : l ≠ a := fun e => ha (e ▸ hm)
      rw [← hl l (by simp [hm])]
      simp only [State.lt, h1.threads.ig]
      exact h1.others _ (by omega)
    obtain ⟨k1, k2, k3⟩ := ih (f s' a) hr ht' hl' fun s'' l hm => hf s'' l (by simp [hm])
    refine ⟨k1, fun n hm => ?_, fun l hm => ?_⟩
    · rw [List.foldl_cons, k2 n fun l hl => hm l (by simp [hl])]
      exact h1.others n (by rw [ht.ig]; exact hm a (by simp))
    · rcases List.mem_cons.1 hm with rfl | hm
      · rw [List.foldl_cons]
        have : ((r.foldl f (f s' l)).lt l) = (f s' l).lt l := by
          simp only [State.lt, k1.ig, ht'.ig]
          exact k2 _ fun l' hl' => by
            have : l' ≠ l := fun e => ha (e ▸ hl')
            omega
        rw [this]; exact h2
      · exact k3 l hm

/-! ## Words given bit by bit -/

theorem laneSet_getLsbD (ls : List Nat) (k : Nat) (hk : k < 64) : (laneSet ls).getLsbD k = ls.contains k := by
  suffices H : ∀ m : Word, (ls.foldl laneAdd m).getLsbD k = (m.getLsbD k || ls.contains k) by
    simpa [laneSet] using H 0
  induction ls with
  | nil => simp
  | cons a r ih =>
    intro m
    rw [List.foldl_cons, ih]
    have : (laneAdd m a).getLsbD k = (m.getLsbD k || decide (a = k)) := by
      simp only [laneAdd, laneBit, BitVec.getLsbD_or, BitVec.getLsbD_ofNat, hk, decide_true, Bool.true_and, Nat.testBit_two_pow]
    rw [this, List.contains_cons, Bool.or_assoc]
    by_cases e : a = k
    · simp [e]
    · rw [show (k == a) = false from beq_eq_false_iff_ne.2 (Ne.symm e)]; simp [e]

theorem wordBits_getLsbD (w : Nat) (f : Nat → Bool) (k : Nat) (hk : k < 64) :
    (wordBits w f).getLsbD k = (decide (k < w) && f k) := by
  rw [wordBits, laneSet_getLsbD _ _ hk, Bool.eq_iff_iff]
  simp

/-- Words agree at a width when they agree bit by bit below it. -/
theorem truncW_eq_of_bits {w : Nat} {x y : Word} (h : ∀ k < w, k < 64 → x.getLsbD k = y.getLsbD k) : truncW w x = truncW w y := by
  refine BitVec.eq_of_getLsbD_eq fun k hk => ?_
  rw [truncW_getLsbD, truncW_getLsbD]
  by_cases hw : k < w
  · simp [hw, h k hw hk]
  · simp [hw]

/-! ## What a state that may run gives -/

theorem State.begun_faults {s : State} (h : s.begun = true) : s.issue.faults = [] ∧ s.issue.stalls = [] := by
  simp only [State.begun, Bool.and_eq_true, List.isEmpty_iff] at h
  exact h.1.1.1.1.1.1

theorem State.begun_nodup {s : State} (h : s.begun = true) : s.issue.lanes.Nodup := by
  simp only [State.begun, Bool.and_eq_true, decide_eq_true_eq] at h
  exact h.1.1.1.1.2

theorem State.begun_thread {s : State} (h : s.begun = true) {l : Nat} (hl : l ∈ s.issue.lanes) :
    s.ig.t0 + l < s.threads.length := by
  simp only [State.begun, Bool.and_eq_true, decide_eq_true_eq, List.all_eq_true] at h
  exact (h.2 l hl).2

theorem State.begun_lane {s : State} (h : s.begun = true) {l : Nat} (hl : l ∈ s.issue.lanes) : l < 64 := by
  simp only [State.begun, Bool.and_eq_true, decide_eq_true_eq, List.all_eq_true] at h
  have := (h.2 l hl).1
  omega

theorem State.canRun_begun {s : State} {i : Instr} (h : s.canRun i = true) : s.begun = true := by
  simp only [State.canRun, Bool.and_eq_true] at h
  exact h.1.2

theorem State.canRun_wf {s : State} {i : Instr} (h : s.canRun i = true) : i.wf = true := by
  simp only [State.canRun, Bool.and_eq_true] at h
  exact h.1.1

theorem State.canRun_guard {s : State} {i : Instr} (h : s.canRun i = true) {l : Nat} (hl : l ∈ s.issue.lanes) :
    s.lowestMark l (i.markedGuard) = none := by
  simp only [State.canRun, State.clear, Bool.and_eq_true, List.all_eq_true, Option.isNone_iff_eq_none] at h
  exact (h.2 l hl).1

theorem State.canRun_operands {s : State} {i : Instr} (h : s.canRun i = true) {l : Nat} (hl : l ∈ s.issue.lanes)
    (hg : s.guardHolds l i.guard = true) : s.operandFault l i i.uses = none := by
  simp only [State.canRun, State.clear, Bool.and_eq_true, List.all_eq_true, Bool.or_eq_true, Bool.not_eq_true',
    Option.isNone_iff_eq_none] at h
  exact (h.2 l hl).2.resolve_left (by simp [hg])

/-- A meaning that recorded no fault and no stall ends without a trap. -/
theorem State.finish_eq {s : State} (hf : s.issue.faults = []) (hs : s.issue.stalls = []) : s.finish = s := by
  unfold State.finish State.trapDecide
  split
  · rfl
  · simp only [hs, hf, List.foldl_nil, State.faultsNested, List.map_nil, List.filter_nil, if_true]
    rcases s with ⟨⟩
    rename_i u _ _ _ _ _
    rcases u with ⟨⟩
    simp only at hf hs
    subst hf hs
    rfl

/-! ## What a lane reads -/

theorem State.lowestMark_congr {s t : State} {l : Nat} (h : t.lt l = s.lt l) (ps : List Nat) :
    t.lowestMark l ps = s.lowestMark l ps := by simp only [State.lowestMark, h]

theorem State.guardHolds_congr {s t : State} {l : Nat} (h : t.lt l = s.lt l) (g : Guard) :
    t.guardHolds l g = s.guardHolds l g := by simp only [State.guardHolds, h]

theorem State.operandFault_congr {s t : State} {l : Nat} (ht : ThreadsOnly s t) (h : t.lt l = s.lt l) (i : Instr) (us : List Use) :
    t.operandFault l i us = s.operandFault l i us := by
  simp only [State.operandFault, State.indexFault, State.markReads, State.lowestMark, h, ht.gs]

theorem State.opRaw_congr {s t : State} {l : Nat} (ht : ThreadsOnly s t) (h : t.lt l = s.lt l) (o : Operand) :
    t.opRaw l o = s.opRaw l o := by
  simp only [State.opRaw, h, ht.gs, ht.ig, ht.team]

theorem State.src_congr {s t : State} {l : Nat} (ht : ThreadsOnly s t) (h : t.lt l = s.lt l) (o : Operand) (w : Nat) :
    t.src l o w = s.src l o w := by
  simp only [State.src, State.opRaw_congr ht h]

theorem State.val_congr {s t : State} {l : Nat} (ht : ThreadsOnly s t) (h : t.lt l = s.lt l) (o : Operand) (w : Nat) :
    t.val l o w = s.val l o w := by
  simp only [State.val, State.src_congr ht h]

theorem State.dstVal_congr {s t : State} {l : Nat} (ht : ThreadsOnly s t) (h : t.lt l = s.lt l) (o : Operand) :
    t.dstVal l o = s.dstVal l o := by
  simp only [State.dstVal, h, ht.gs]

/-! ## Words in which each lane acts for itself -/

/-- What one lane of a word that may run does. -/
theorem State.lane_eq {s s' : State} {i : Instr} {l : Nat} (hr : s.canRun i = true) (hl : l ∈ s.issue.lanes)
    (ht : ThreadsOnly s s') (h : s'.lt l = s.lt l) (off : State → Nat → State) (f : State → Nat → LaneRes) {u : State}
    (hf : s.guardHolds l i.guard = true → f s' l = .ok u) :
    s'.lane i i.uses off f l = if s.guardHolds l i.guard then u else off s' l := by
  unfold State.lane
  rw [State.lowestMark_congr h, State.canRun_guard hr hl]
  simp only [State.guardHolds_congr h]
  split
  · rename_i hg
    rw [State.operandFault_congr ht h, State.canRun_operands hr hl hg, hf hg]
  · rfl

/-- A word whose lanes each complete and change their own thread. -/
theorem State.lanes_do {s : State} {i : Instr} {off : State → Nat → State} {f : State → Nat → LaneRes} {h : State → Nat → State}
    {P : Nat → Thread → Thread → Prop} (hr : s.canRun i = true)
    (hf : ∀ s' l, l ∈ s.issue.lanes → ThreadsOnly s s' → s'.lt l = s.lt l → s.guardHolds l i.guard = true → f s' l = .ok (h s' l))
    (hP : ∀ s' l, l ∈ s.issue.lanes → ThreadsOnly s s' → s'.lt l = s.lt l → s'.ig.t0 + l < s'.threads.length →
      let u := if s.guardHolds l i.guard then h s' l else off s' l
      LaneOnly s' l u ∧ P l (s.lt l) (u.lt l)) :
    LanesDo s (s.lanes i off f) P := by
  have hb := State.canRun_begun hr
  have key := foldl_lanes (s := s) (f := fun s l => s.lane i i.uses off f l) (P := P) s.issue.lanes (State.begun_nodup hb)
    (fun s' l hl ht h' => by
      rw [State.lane_eq hr hl ht h' off f (hf s' l hl ht h')]
      exact hP s' l hl ht h' (by rw [ht.ig, ht.2]; exact State.begun_thread hb hl))
  obtain ⟨k1, k2, k3⟩ := key
  have hfin : (s.lanes i off f) = s.issue.lanes.foldl (fun s l => s.lane i i.uses off f l) s := by
    unfold State.lanes State.lanesThen
    exact State.finish_eq (by rw [k1.issue]; exact (State.begun_faults hb).1) (by rw [k1.issue]; exact (State.begun_faults hb).2)
  rw [hfin]
  refine ⟨?_, k2, k3⟩
  rw [k1.1]

/-- A word of which each lane's effect is total. -/
theorem State.lanesOk_do {s : State} {i : Instr} {off h : State → Nat → State} {P : Nat → Thread → Thread → Prop}
    (hr : s.canRun i = true)
    (hP : ∀ s' l, l ∈ s.issue.lanes → ThreadsOnly s s' → s'.lt l = s.lt l → s'.ig.t0 + l < s'.threads.length →
      let u := if s.guardHolds l i.guard then h s' l else off s' l
      LaneOnly s' l u ∧ P l (s.lt l) (u.lt l)) :
    LanesDo s (s.lanesOk i off h) P :=
  State.lanes_do (h := h) hr (fun _ _ _ _ _ _ => rfl) hP

theorem LaneOnly.setLatch (s : State) (l : Nat) (v : Word) (w : Width) : LaneOnly s l (s.setLatch l v w) := by
  unfold State.setLatch
  split
  · exact .onLane s l _
  · exact .refl s l

theorem State.setLatch_lt (s : State) (l : Nat) (v : Word) (w : Width) (h : s.ig.t0 + l < s.threads.length) :
    (s.setLatch l v w).lt l = (s.lt l).latched s.issue.latch v w := by
  unfold State.setLatch Thread.latched
  cases s.issue.latch with
  | some k => exact State.onLane_lt _ _ _ h
  | none => rfl

theorem LaneOnly.writeSlices (s : State) (l : Nat) (ps : List Nat) (vs : List Slice) : LaneOnly s l (s.writeSlices l ps vs) :=
  (LaneOnly.onLane s l _).trans (.fresh _ l)

theorem State.writeSlices_lt (s : State) (l : Nat) (ps : List Nat) (vs : List Slice) (h : s.ig.t0 + l < s.threads.length) :
    (s.writeSlices l ps vs).lt l = (s.lt l).addPend { id := s.nextId, slices := ps, vals := vs, known := true } := by
  show (s.onLane l _).fresh.lt l = _
  exact s.onLane_lt l _ h

theorem LaneOnly.dst (s : State) (l : Nat) (o : Operand) (v : Word) : LaneOnly s l (s.dst l o v) := by
  unfold State.dst
  split
  · exact .refl s l
  · exact .writeSlices s l _ _

theorem LaneOnly.result (s : State) (l : Nat) (o : Operand) (v : Word) : LaneOnly s l (s.result l o v) :=
  (LaneOnly.dst s l o v).trans (.setLatch _ l _ _)

/-- An operand whose rule is a destination's names slices. -/
theorem OpRule.dst_slices {o : Operand} (h : OpRule.dst.allows o = true) :
    (∃ v, o.sel = .slice v) ∨ (∃ k, o.sel = .index k) := by
  rcases o with ⟨w, x, sel⟩
  cases sel
  case slice v => exact .inl ⟨v, rfl⟩
  case index k => exact .inr ⟨k, rfl⟩
  all_goals exact (Bool.false_ne_true h).elim

/-- A thread that has a pending write more, and a latch. -/
theorem Thread.Wrote.latched {a b : Thread} {ps : List Nat} {vs : List Slice} (h : a.Wrote b a ps vs) (k : Option Nat) (v : Word)
    (w : Width) : a.Wrote (b.latched k v w) (a.latched k v w) ps vs := by
  refine ⟨?_, fun p hp => ?_, ?_⟩
  · rw [← h.values]; exact List.map_congr_left fun p _ => Thread.slice_latched b k v w p
  · rw [Thread.slice_latched]; exact h.others p hp
  · rw [h.rest]; cases k <;> rfl

/-- What a result does to its lane's thread. -/
theorem State.result_wrote (s : State) (l : Nat) (d : Operand) (v : Word) (h : s.ig.t0 + l < s.threads.length)
    (hd : OpRule.dst.allows d = true) :
    let a := s.lt l
    let c := a.latched s.issue.latch (truncW d.w.bits v) d.w
    if d.x then (s.result l d v).lt l = c
    else a.Wrote ((s.result l d v).lt l) c (a.locate s.gs d d.w.slices) (sliceVals d.w.slices v) := by
  have hd2 : ThreadsOnly s (s.dst l d v) := (LaneOnly.dst s l d v).threads
  have e : (s.result l d v).lt l = ((s.dst l d v).lt l).latched s.issue.latch (truncW d.w.bits v) d.w := by
    have hb : (s.dst l d v).ig.t0 + l < (s.dst l d v).threads.length := by rw [hd2.ig, hd2.2]; exact h
    unfold State.result
    rw [State.setLatch_lt (s.dst l d v) l _ _ hb, hd2.issue]
  intro a c
  split
  · rename_i hx
    rw [e]; simp [State.dst, hx, a, c]
  · rename_i hx
    rw [e]
    simp only [State.dst, hx]
    rw [if_neg (by simp), State.writeSlices_lt _ _ _ _ h]
    exact Thread.Wrote.latched (a.addPend_wrote _ (Thread.locate_nodup _ _ _ _)
      (by rw [sliceVals_length, Thread.locate_length _ _ _ _ (OpRule.dst_slices hd)])) _ _ _

/-- A word that writes one value to D in each lane (R67, R39, R42). -/
theorem State.lanesVal_do {s : State} {i : Instr} {d : Operand} {f : State → Nat → Word} (hr : s.canRun i = true)
    (hd : OpRule.dst.allows d = true)
    (hf : ∀ s' l, ThreadsOnly s s' → s'.lt l = s.lt l → f s' l = f s l) :
    LanesDo s (s.lanesVal i d f) (arithLane s i d (f s)) := by
  refine State.lanesOk_do hr fun s' l _ ht h hb => ?_
  by_cases hg : s.guardHolds l i.guard = true
  · simp only [hg, if_true]
    refine ⟨.result s' l d _, ?_⟩
    have := State.result_wrote s' l d (f s' l) hb hd
    simp only [arithLane, hg, if_true]
    rw [hf s' l ht h, h, ht.gs, ht.issue] at this
    rw [hf s' l ht h]
    exact this
  · simp only [hg]
    rw [if_neg (by simp)]
    refine ⟨.setLatch s' l _ _, ?_⟩
    simp only [arithLane, hg]
    rw [if_neg (by simp)]
    show (s'.setLatch l _ _).lt l = _
    rw [State.setLatch_lt _ _ _ _ hb, h, ht.issue, State.dstVal_congr ht h]

/-- An operand of a well-formed word suits its rule. -/
theorem Instr.wf_use {i : Instr} (h : i.wf = true) {u : Use} (hu : u ∈ i.uses) : u.rule.allows u.o = true := by
  simp only [Instr.wf, Bool.and_eq_true, List.all_eq_true, Use.ok, Use.selOk] at h
  exact (h.2 u hu).1.1

/-- A value may be given by any word that agrees in D's width. -/
theorem arithLane_congr {s : State} {i : Instr} {d : Operand} {f v : Nat → Word} {l : Nat} {a b : Thread}
    (hv : truncW d.w.bits (f l) = truncW d.w.bits (v l)) (h : arithLane s i d f l a b) : arithLane s i d v l a b := by
  have e : sliceVals d.w.slices (f l) = sliceVals d.w.slices (v l) := sliceVals_congr (by rw [← Width.bits_eq]; exact hv)
  unfold arithLane at h ⊢
  rwa [← hv, ← e]

/-- A word whose meaning writes one value to D in each lane. -/
theorem writesD_of {i : Instr} {d : Operand} {u : Use} {us : List Use} {f v : State → Nat → Word}
    (he : ∀ s, exec i s = .next (s.lanesVal i d f)) (hu : i.uses = u :: us) (hd : u.o = d) (hr : u.rule = .dst)
    (hf : ∀ s s' l, ThreadsOnly s s' → s'.lt l = s.lt l → f s' l = f s l)
    (hv : ∀ s l, truncW d.w.bits (f s l) = truncW d.w.bits (v s l)) : writesD i d v := by
  intro s hs
  have hw := Instr.wf_use (State.canRun_wf hs) (u := u) (by rw [hu]; exact List.mem_cons_self)
  rw [hr, hd] at hw
  have := State.lanesVal_do (f := f) hs hw (hf s)
  exact ⟨_, he s, this.rest, this.others, fun l hl => arithLane_congr (hv s l) (this.lanes l hl)⟩

/-- A word that changes each lane's own thread by a function, and on an arithmetic pipe leaves zero in its latch. -/
theorem movesLanes_of {i : Instr} {latch : Bool} {ok : State → Nat → Bool} {f : State → Nat → Thread → Thread}
    {h : State → Nat → LaneRes} (he : ∀ s, exec i s = .next (s.lanes i (if latch then offNone else offMem) h))
    (hh : ∀ s s' l, ThreadsOnly s s' → s'.lt l = s.lt l → ok s l = true →
      ∃ k : Thread → Thread, k (s.lt l) = f s l (s.lt l) ∧
        h s' l = .ok (if latch then offNone (s'.onLane l k) l else s'.onLane l k)) :
    movesLanes i latch ok f := by
  intro s hs hok
  refine ⟨_, he s, ?_⟩
  have key := fun s' l (hl : l ∈ s.issue.lanes) ht h' (hg : s.guardHolds l i.guard = true) => hh s s' l ht h' (hok l hl hg)
  refine State.lanes_do (h := fun s' l =>
    let u := s'.onLane l fun _ => f s l (s.lt l)
    if latch then offNone u l else u) hs ?_ ?_
  · intro s' l hl ht h' hg
    obtain ⟨k, hk, e⟩ := key s' l hl ht h' hg
    have : s'.onLane l k = s'.onLane l fun _ => f s l (s.lt l) := by
      have hb : s'.ig.t0 + l < s'.threads.length := by rw [ht.ig, ht.2]; exact State.begun_thread (State.canRun_begun hs) hl
      have h2 : s'.threads.getD (s'.ig.t0 + l) default = s.lt l := h'
      simp only [State.onLane, State.onThread]
      congr 1
      refine List.ext_getElem (by simp) fun n h3 _ => ?_
      simp only [List.getElem_modify]
      split
      · rename_i e; subst e
        rw [← hk, ← h2, List.getD_eq_getElem _ _ hb]
      · rfl
    rw [e, this]
  · intro s' l hl ht h' hb
    by_cases hg : s.guardHolds l i.guard = true
    · simp only [hg, if_true]
      cases latch
      · refine ⟨.onLane _ _ _, ?_⟩
        simp only [moveLane, hg, if_true]
        exact State.onLane_lt _ _ _ hb
      · have hb' : (s'.onLane l fun _ => f s l (s.lt l)).ig.t0 + l < (s'.onLane l fun _ => f s l (s.lt l)).threads.length := by
          rw [(ThreadsOnly.onLane s' l _).ig, (ThreadsOnly.onLane s' l _).2]; exact hb
        refine ⟨(LaneOnly.onLane _ _ _).trans (.setLatch _ _ _ _), ?_⟩
        simp only [moveLane, hg, if_true]
        refine (State.setLatch_lt _ l 0 .w4 hb').trans ?_
        rw [(ThreadsOnly.onLane s' l _).issue, ht.issue, State.onLane_lt _ _ _ hb]
    · rw [if_neg hg]
      cases latch
      · refine ⟨.refl _ _, ?_⟩
        simp only [moveLane, hg]
        exact h'
      · refine ⟨.setLatch _ _ _ _, ?_⟩
        simp only [moveLane, hg]
        refine (State.setLatch_lt _ l 0 .w4 hb).trans ?_
        rw [ht.issue, h']; rfl

end Machine
end Sys2Proof
end

