-- ==== Sys2Proof/Laws/Memory.lean ====
section
/-! SUPPORT. Canonical maps and memories: what a read after a write gives, that every operation on a memory keeps its canonical form,
and that canonical maps which read alike are equal. -/

namespace Sys2Proof
namespace Machine

/-! ## Canonical maps -/

section
variable {α : Type} [DecidableEq α]

/-- Below the first key of a canonical map every key reads as the default. -/
theorem assocGet_below {d : α} {l : List (Nat × α)} {b a : Nat} (h : assocWf d (some b) l = true) (ha : a ≤ b) :
    assocGet d l a = d := by
  cases l with
  | nil => rfl
  | cons x r =>
    obtain ⟨k, v⟩ := x
    simp only [assocWf, Bool.and_eq_true, decide_eq_true_eq] at h
    simp only [assocGet]
    rw [if_neg (by omega), if_pos (by omega)]

theorem assocWf_weaken {d : α} {l : List (Nat × α)} {a b : Nat} (h : assocWf d (some b) l = true) (ha : a ≤ b) :
    assocWf d (some a) l = true := by
  cases l with
  | nil => rfl
  | cons x r =>
    simp only [assocWf, Bool.and_eq_true, decide_eq_true_eq] at h ⊢
    exact ⟨⟨by omega, h.1.2⟩, h.2⟩

theorem assocWf_none {d : α} {l : List (Nat × α)} {b : Nat} (h : assocWf d (some b) l = true) : assocWf d none l = true := by
  cases l with
  | nil => rfl
  | cons x r =>
    simp only [assocWf, Bool.and_eq_true, decide_eq_true_eq] at h ⊢
    exact ⟨⟨trivial, h.1.2⟩, h.2⟩

/-- Setting a key above the bound keeps the form above the bound. -/
theorem assocWf_set_some {d : α} {l : List (Nat × α)} {b a : Nat} (v : α) (h : assocWf d (some b) l = true) (hb : b < a) :
    assocWf d (some b) (assocSet d l a v) = true := by
  induction l generalizing b with
  | nil =>
    simp only [assocSet]
    split
    · rfl
    · simp [assocWf, *]
  | cons x r ih =>
    obtain ⟨k, w⟩ := x
    have hr := h
    simp only [assocWf, Bool.and_eq_true, decide_eq_true_eq] at hr
    obtain ⟨⟨h1, h2⟩, h3⟩ := hr
    simp only [assocSet]
    split
    · subst a
      split
      · exact assocWf_weaken h3 (by omega)
      · simp [assocWf, *]
    · split
      · split
        · exact h
        · simp only [assocWf, Bool.and_eq_true, decide_eq_true_eq]
          exact ⟨⟨by omega, by assumption⟩, ⟨by omega, h2⟩, h3⟩
      · simp only [assocWf, Bool.and_eq_true, decide_eq_true_eq]
        exact ⟨⟨h1, h2⟩, ih h3 (by omega)⟩

/-- Setting a key keeps the canonical form. -/
theorem assocWf_set {d : α} {l : List (Nat × α)} (a : Nat) (v : α) (h : assocWf d none l = true) :
    assocWf d none (assocSet d l a v) = true := by
  cases l with
  | nil =>
    simp only [assocSet]
    split
    · rfl
    · simp [assocWf, *]
  | cons x r =>
    obtain ⟨k, w⟩ := x
    have hr := h
    simp only [assocWf, Bool.and_eq_true, decide_eq_true_eq, true_and] at hr
    obtain ⟨h2, h3⟩ := hr
    simp only [assocSet]
    split
    · subst a
      split
      · exact assocWf_none h3
      · simp [assocWf, *]
    · split
      · split
        · exact h
        · simp only [assocWf, Bool.and_eq_true, decide_eq_true_eq]
          exact ⟨⟨trivial, by assumption⟩, ⟨by omega, h2⟩, h3⟩
      · simp only [assocWf, Bool.and_eq_true, decide_eq_true_eq]
        exact ⟨⟨trivial, h2⟩, assocWf_set_some v h3 (by omega)⟩

theorem assocGet_set_bounded {d : α} {l : List (Nat × α)} (b : Option Nat) (a x : Nat) (v : α) (h : assocWf d b l = true) :
    assocGet d (assocSet d l a v) x = if x = a then v else assocGet d l x := by
  induction l generalizing b with
  | nil =>
    simp only [assocSet]
    split
    · simp only [assocGet]; split <;> simp [*]
    · simp only [assocGet, ite_self]
  | cons y r ih =>
    obtain ⟨k, w⟩ := y
    have h3 : assocWf d (some k) r = true := by
      simp only [assocWf, Bool.and_eq_true] at h; exact h.2
    have hk : ∀ y ≤ k, assocGet d r y = d := fun y hy => assocGet_below h3 hy
    simp only [assocSet]
    split
    · subst a
      split
      · by_cases e : x = k
        · subst e; simp [hk x (le_refl x), *]
        · simp only [assocGet, e, if_false]
          split
          · exact hk x (by omega)
          · rfl
      · simp only [assocGet]; split <;> rfl
    · split
      · split
        · by_cases e : x = a
          · subst e; simp only [assocGet, if_true]
            rw [if_neg (by assumption), if_pos (by assumption)]; simp [*]
          · simp only [e, if_false]
        · by_cases e : x = a
          · subst e; simp [assocGet]
          · simp only [assocGet, e, if_false]
            split
            · rw [if_neg (by omega), if_pos (by omega)]
            · rfl
      · by_cases e : x = k
        · subst e; simp only [assocGet, if_true]; rw [if_neg (by omega)]
        · simp only [assocGet, e, if_false]
          split
          · rw [if_neg (by omega)]
          · exact ih (some k) h3

/-- A key reads as what was set last (read after write). -/
theorem assocGet_set {d : α} {l : List (Nat × α)} (a x : Nat) (v : α) (h : assocWf d none l = true) :
    assocGet d (assocSet d l a v) x = if x = a then v else assocGet d l x := assocGet_set_bounded none a x v h

/-- Canonical maps that read alike are equal. -/
theorem assoc_ext {d : α} {l m : List (Nat × α)} (b : Option Nat) (hl : assocWf d b l = true) (hm : assocWf d b m = true)
    (h : ∀ a, assocGet d l a = assocGet d m a) : l = m := by
  induction l generalizing m b with
  | nil =>
    cases m with
    | nil => rfl
    | cons y r =>
      obtain ⟨k, v⟩ := y
      simp only [assocWf, Bool.and_eq_true, decide_eq_true_eq] at hm
      exact absurd (by simpa [assocGet] using h k) (Ne.symm hm.1.2)
  | cons x r ih =>
    obtain ⟨k, v⟩ := x
    cases m with
    | nil =>
      simp only [assocWf, Bool.and_eq_true, decide_eq_true_eq] at hl
      exact absurd (by simpa [assocGet] using h k) hl.1.2
    | cons y r' =>
      obtain ⟨k', v'⟩ := y
      simp only [assocWf, Bool.and_eq_true, decide_eq_true_eq] at hl hm
      have hkk : k = k' := by
        rcases Nat.lt_trichotomy k k' with e | e | e
        · have := h k
          simp only [assocGet, if_true, if_neg (show ¬ k = k' by omega), if_pos e] at this
          exact absurd this hl.1.2
        · exact e
        · have := h k'
          simp only [assocGet, if_true, if_neg (show ¬ k' = k by omega), if_pos e] at this
          exact absurd this.symm hm.1.2
      subst hkk
      have hv : v = v' := by simpa [assocGet] using h k
      subst hv
      have : r = r' := ih (some k) hl.2 hm.2 fun a => by
        rcases Nat.lt_trichotomy a k with e | e | e
        · rw [assocGet_below hl.2 (by omega), assocGet_below hm.2 (by omega)]
        · rw [assocGet_below hl.2 (by omega), assocGet_below hm.2 (by omega)]
        · have := h a
          simpa only [assocGet, if_neg (show ¬ a = k by omega), if_neg (show ¬ a < k by omega)] using this
      rw [this]

end

/-! ## Bytes -/

/-- The byte at an address after a byte is set. -/
theorem memGet_memSet {m : Memory} (a x : Nat) (b : Byte) (h : Memory.wf m = true) :
    memGet (memSet m a b) x = if x = a then b else memGet m x := assocGet_set a x b h

theorem Memory.wf_memSet {m : Memory} (a : Nat) (b : Byte) (h : Memory.wf m = true) : Memory.wf (memSet m a b) = true :=
  assocWf_set a b h

theorem Memory.wf_memPut {m : Memory} (a : Nat) (bs : List Byte) (h : Memory.wf m = true) : Memory.wf (memPut m a bs) = true := by
  induction bs generalizing m a with
  | nil => exact h
  | cons b r ih => exact ih (a + 1) (Memory.wf_memSet a b h)

/-- The byte at an address after bytes are stored: the stored byte, or what was there. -/
theorem memGet_memPut {m : Memory} (a x : Nat) (bs : List Byte) (h : Memory.wf m = true) :
    memGet (memPut m a bs) x = if a ≤ x ∧ x < a + bs.length then bs.getD (x - a) 0 else memGet m x := by
  induction bs generalizing m a with
  | nil => simp [memPut]
  | cons b r ih =>
    rw [memPut, ih (a + 1) (Memory.wf_memSet a b h)]
    by_cases e : a + 1 ≤ x ∧ x < a + 1 + r.length
    · rw [if_pos e, if_pos (by simp only [List.length_cons]; omega), show x - a = (x - (a + 1)) + 1 by omega, List.getD_cons_succ]
    · rw [if_neg e, memGet_memSet a x b h]
      by_cases e' : x = a
      · subst e'; simp
      · rw [if_neg e', if_neg (by simp only [List.length_cons]; omega)]

/-- What is read where bytes were just stored is those bytes. -/
theorem memBytes_memPut {m : Memory} (a : Nat) (bs : List Byte) (h : Memory.wf m = true) :
    memBytes (memPut m a bs) a bs.length = bs := by
  refine List.ext_getElem (by simp [memBytes]) fun i h1 h2 => ?_
  simp only [memBytes, List.getElem_map, List.getElem_range, memGet_memPut _ _ _ h]
  rw [if_pos (by omega), show a + i - a = i by omega, List.getD_eq_getElem _ _ h2]

@[simp] theorem natLe_length (n v : Nat) : (natLe n v).length = n := by
  induction n generalizing v with
  | zero => rfl
  | succ n ih => simp [natLe, ih]

/-- The bytes of a number give the number back, modulo their range (R3). -/
theorem leNat_natLe (n v : Nat) : leNat (natLe n v) = v % 256 ^ n := by
  induction n generalizing v with
  | zero => simp [natLe, leNat, Nat.mod_one]
  | succ n ih =>
    simp only [natLe, leNat, ih, BitVec.toNat_ofNat]
    rw [Nat.mod_mod_of_dvd _ (by norm_num), show (256 : Nat) ^ (n + 1) = 256 * 256 ^ n by ring, Nat.mod_mul]

/-! ## Memories -/

theorem Mem.wf_write {m : Mem} (a : Nat) (bs : List Byte) (bad : Bool) (h : m.wf = true) : (m.write a bs bad).wf = true := by
  simp only [Mem.wf, Bool.and_eq_true, Mem.write] at h ⊢
  refine ⟨Memory.wf_memPut a bs h.1, ?_⟩
  suffices H : ∀ (us : List Nat) (p : List (Nat × Bool)), assocWf false none p = true →
      assocWf false none (us.foldl (fun p u => assocSet false p u (pzAfter (assocGet false p u) bad a bs.length u)) p) = true
    from H _ _ h.2
  intro us
  induction us with
  | nil => exact fun p hp => hp
  | cons u r ih => exact fun p hp => ih _ (assocWf_set u _ hp)

/-- A byte of a memory after bytes are stored. -/
theorem Mem.get_write {m : Mem} (a x : Nat) (bs : List Byte) (bad : Bool) (h : m.wf = true) :
    memGet (m.write a bs bad).bytes x = if a ≤ x ∧ x < a + bs.length then bs.getD (x - a) 0 else memGet m.bytes x := by
  simp only [Mem.wf, Bool.and_eq_true] at h
  exact memGet_memPut a x bs h.1

/-- Removing keys keeps the canonical form. -/
theorem assocWf_filter {α : Type} [DecidableEq α] {d : α} (p : Nat × α → Bool) {l : List (Nat × α)} {b : Option Nat}
    (h : assocWf d b l = true) : assocWf d b (l.filter p) = true := by
  induction l generalizing b with
  | nil => rfl
  | cons x r ih =>
    obtain ⟨k, v⟩ := x
    simp only [assocWf, Bool.and_eq_true] at h
    have hr := ih h.2
    rw [List.filter_cons]
    split
    · simp only [assocWf, Bool.and_eq_true]
      exact ⟨h.1, hr⟩
    · cases b with
      | none => exact assocWf_none hr
      | some x => exact assocWf_weaken hr (by have := h.1.1; simp only [decide_eq_true_eq] at this; omega)

/-- Changing values to others than the default keeps the canonical form. -/
theorem assocWf_map {α : Type} [DecidableEq α] {d : α} (f : Nat → α → α) {l : List (Nat × α)} {b : Option Nat}
    (h : assocWf d b l = true) (hf : ∀ k v, v ≠ d → f k v ≠ d) : assocWf d b (l.map fun x => (x.1, f x.1 x.2)) = true := by
  induction l generalizing b with
  | nil => rfl
  | cons x r ih =>
    obtain ⟨k, v⟩ := x
    simp only [assocWf, Bool.and_eq_true, decide_eq_true_eq] at h
    simp only [List.map_cons, assocWf, Bool.and_eq_true, decide_eq_true_eq]
    exact ⟨⟨h.1.1, hf k v h.1.2⟩, ih h.2⟩

end Machine
end Sys2Proof
end

