-- ==== Sys2Proof/Laws/PerInstr.lean ====
section
/-! SUPPORT. For each constructor: the decoder gives it back from the fields that the encoder gives it (02 Tables 2.1 to 2.9 and the
field tables of each class). -/

set_option linter.unusedSimpArgs false

namespace Sys2Proof
namespace Laws

/-! ## Bits of words put together from parts -/

theorem low {m n : Nat} (a : BitVec m) (b : BitVec n) (s k : Nat) (h : s + k ≤ n) :
    (a ++ b).extractLsb' s k = b.extractLsb' s k := by
  refine BitVec.eq_of_getLsbD_eq fun i hi => ?_
  simp only [BitVec.getLsbD_extractLsb', BitVec.getLsbD_append, hi, decide_true, Bool.true_and]
  rw [if_pos (by omega)]

theorem high {m n : Nat} (a : BitVec m) (b : BitVec n) (s k : Nat) (h : n ≤ s) :
    (a ++ b).extractLsb' s k = a.extractLsb' (s - n) k := by
  refine BitVec.eq_of_getLsbD_eq fun i hi => ?_
  simp only [BitVec.getLsbD_extractLsb', BitVec.getLsbD_append, hi, decide_true, Bool.true_and]
  rw [if_neg (by omega)]
  congr 1
  omega

theorem all {n : Nat} (b : BitVec n) (s : Nat) (h : s = 0) : b.extractLsb' s n = b := by subst h; simp

theorem zero {n : Nat} (s k : Nat) : (0 : BitVec n).extractLsb' s k = 0 := by simp

theorem bitLow {m n : Nat} (a : BitVec m) (b : BitVec n) (s : Nat) (h : s < n) : (a ++ b).getLsbD s = b.getLsbD s := by
  rw [BitVec.getLsbD_append, if_pos h]

theorem bitHigh {m n : Nat} (a : BitVec m) (b : BitVec n) (s : Nat) (h : n ≤ s) :
    (a ++ b).getLsbD s = a.getLsbD (s - n) := by
  rw [BitVec.getLsbD_append, if_neg (by omega)]

theorem bitAll (x : Bool) (s : Nat) (h : s = 0) : (BitVec.ofBool x).getLsbD s = x := by subst h; cases x <;> rfl

theorem bitZero {n : Nat} (s : Nat) : (0 : BitVec n).getLsbD s = false := BitVec.getLsbD_zero

theorem append_extract (v : BitVec 28) : v.extractLsb' 14 14 ++ v.extractLsb' 0 14 = v := by
  refine BitVec.eq_of_getLsbD_eq fun i hi => ?_
  simp only [BitVec.getLsbD_append, BitVec.getLsbD_extractLsb']
  split
  · simp [*]
  · rw [show 14 + (i - 14) = i by omega]; simp; omega

/-! ## Codes of the parts -/

theorem Width.ofCode_code (w : Width) : Width.ofCode w.code = w := by cases w <;> rfl
theorem PMode.ofCode_code (m : PMode) : PMode.ofCode m.code = some m := by cases m <;> rfl
theorem ICond.ofCode_code (c : ICond) : ICond.ofCode c.code = some c := by cases c <;> rfl
theorem FCond.ofCode_code (c : FCond) : FCond.ofCode c.code = some c := by cases c <;> rfl
theorem RMode.ofCode_code (m : RMode) : RMode.ofCode m.code = some m := by cases m <;> rfl
theorem ScanOp.ofCode_code (o : ScanOp) : ScanOp.ofCode o.code = some o := by cases o <;> rfl
theorem AtomOp.ofCode_code (o : AtomOp) : AtomOp.ofCode o.code = some o := by cases o <;> rfl
theorem AtomFOp.ofCode_code (o : AtomFOp) : AtomFOp.ofCode o.code = some o := by cases o <;> rfl
theorem WCond.ofCode_code (c : WCond) : WCond.ofCode c.code = some c := by cases c <;> rfl
theorem POut.ofCode_code (o : POut) : POut.ofCode o.code = some o := by cases o <;> rfl
theorem DMode.ofCode_code (m : DMode) : DMode.ofCode m.code = some m := by cases m <;> rfl
theorem DSpace.ofCode_code (p : DSpace) : DSpace.ofCode p.code = some p := by cases p <;> rfl
theorem Cols.ofCode_code (c : Cols) : Cols.ofCode c.code = some c := by cases c <;> rfl
theorem SeqQuery.ofCode_code (q : SeqQuery) : SeqQuery.ofCode q.code = some q := by cases q <;> rfl
theorem AffQuery.ofCode_code (q : AffQuery) : AffQuery.ofCode q.code = some q := by cases q <;> rfl
theorem maskOf_maskCode (n : Fin 12) : maskOf (maskCode n) = some n := by revert n; decide

/-- A mask's number is no code of "every lane" (Table 7.1). -/
theorem mask_ne_all (n : Fin 12) : maskCode n ++ (0 : BitVec 10) ≠ (15 : BitVec 4) ++ (0 : BitVec 10) := by
  revert n; decide

theorem Sel.ofCode_code (s : Sel) : Sel.ofCode s.code = s := by
  cases s with
  | slice n =>
    have := n.isLt
    have h : (BitVec.ofNat 10 n.val).toNat = n.val := by rw [BitVec.toNat_ofNat]; omega
    simp only [Sel.code, Sel.ofCode, h, this, dite_true]
  | latch n => revert n; decide
  | index n => revert n; decide
  | affine n => revert n; decide
  | reserved n => revert n; decide
  | _ => rfl

theorem Operand.ofCode_code (o : Operand) : Operand.ofCode o.code = o := by
  simp (disch := omega) only [Operand.code, Operand.ofCode, low, high, all, bitLow, bitHigh, bitAll, Width.ofCode_code, Sel.ofCode_code]

theorem PredBit.ofCode_code (p : PredBit) : PredBit.ofCode p.code = p := by
  simp (disch := omega) only [PredBit.code, PredBit.ofCode, low, high, all]

theorem Guard.ofCode_code (g : Guard) : Guard.ofCode g.code = some g := by
  cases g with
  | always => rfl
  | on n b s =>
    simp (disch := omega) only [Guard.code, Guard.ofCode, low, high, all, bitLow, bitHigh, bitAll, if_true]

theorem PSet.ofCode_code (p : PSet) : PSet.ofCode p.code = some p := by
  cases p with
  | mask n => revert n; decide
  | tset => rfl
  | all => rfl

theorem Amount.ofCode_code (a : Amount) : Amount.ofCode a.code = some a := by
  cases a with
  | imm n => simp (disch := omega) only [Amount.code, Amount.ofCode, low, high, all, if_true]
  | op s =>
    have h : ((8 : BitVec 4) ++ s.code).extractLsb' 7 7 ≠ 0 := fun h => by
      have := congrArg (fun v : BitVec 7 => v.getLsbD 6) h
      simp (disch := omega) only [BitVec.getLsbD_extractLsb', bitHigh] at this
      exact absurd this (by decide)
    simp (disch := omega) only [Amount.code, Amount.ofCode, if_neg h, low, high, all, if_true, Sel.ofCode_code]

namespace RoundTrip

/-- Decoding the fields of an instruction gives the instruction back. -/
def Statement (i : Instr) : Prop := i.fieldsOk = true → ∀ f, encodeFields i = some f → decodeFields f = some i

theorem of_parse {i : Instr} {f : Fields} (he : encodeFields i = some f) (hp : i.fieldsOk = true → parse f = some i) :
    Statement i := by
  intro hi f' hf
  cases he.symm.trans hf
  simp only [decodeFields, hp hi, Option.bind_some, hi, if_true]

theorem of_event {i : Instr} (he : encodeFields i = none) : Statement i := fun _ f hf => by rw [he] at hf; cases hf

theorem mov (g d a) : Statement (.mov g d a) := of_parse rfl fun _ => by
  simp (disch := omega) only [parse, parseA, Fields.mk', BitVec.reduceToNat, Nat.reduceDiv, Option.bind_eq_bind,
    Option.bind_some, Guard.ofCode_code, Operand.ofCode_code, must, if_true, eq_self]
theorem movi (g d imm) : Statement (.movi g d imm) := of_parse rfl fun _ => by
  simp (disch := omega) only [parse, parseA, Fields.long, Fields.imm28, append_extract, BitVec.reduceToNat, Nat.reduceDiv,
    Option.bind_eq_bind, Option.bind_some, Guard.ofCode_code, Operand.ofCode_code]
theorem movhi (g d imm) : Statement (.movhi g d imm) := of_parse rfl fun _ => by
  simp (disch := omega) only [parse, parseA, Fields.long, Fields.imm28, append_extract, BitVec.reduceToNat, Nat.reduceDiv,
    Option.bind_eq_bind, Option.bind_some, Guard.ofCode_code, Operand.ofCode_code]
theorem smove (g d a n) : Statement (.smove g d a n) := of_parse rfl fun _ => by
  simp (disch := omega) only [parse, parseA, Fields.mk', BitVec.reduceToNat, Nat.reduceDiv, Option.bind_eq_bind,
    Option.bind_some, Guard.ofCode_code, Operand.ofCode_code]
theorem sset (g d v n1) : Statement (.sset g d v n1) := of_parse rfl fun _ => by
  simp (disch := omega) only [parse, parseA, Fields.mk', BitVec.reduceToNat, Nat.reduceDiv, Option.bind_eq_bind,
    Option.bind_some, Guard.ofCode_code, Operand.ofCode_code, must, if_true, eq_self, low, high, all, zero, bitLow, bitHigh,
    bitAll, bitZero]
theorem loop (step a off) : Statement (.loop step a off) := of_parse rfl fun _ => by
  simp (disch := omega) only [parse, parseA, Fields.mk', BitVec.reduceToNat, Nat.reduceDiv, Option.bind_eq_bind,
    Option.bind_some, Operand.ofCode_code, must, if_true, eq_self]
theorem endloopBrk (m1 off) : Statement (.endloopBrk m1 off) := of_parse rfl fun h => by
  replace h : off ≠ 0 := by simp only [Instr.fieldsOk, decide_eq_true_eq] at h; exact h.2
  simp (disch := omega) only [parse, parseA, Fields.mk', BitVec.reduceToNat, Nat.reduceDiv, Option.bind_eq_bind,
    Option.bind_some, must, if_true, eq_self, if_neg h]
theorem frameadj (delta) : Statement (.frameadj delta) := of_parse rfl fun _ => by
  simp (disch := omega) only [parse, parseA, Fields.mk', BitVec.reduceToNat, Nat.reduceDiv, Option.bind_eq_bind,
    Option.bind_some, must, if_true, eq_self]
theorem ixset (g d x count) : Statement (.ixset g d x count) := of_parse rfl fun _ => by
  simp (disch := omega) only [parse, parseA, Fields.mk', BitVec.reduceToNat, Nat.reduceDiv, Option.bind_eq_bind,
    Option.bind_some, Guard.ofCode_code, Operand.ofCode_code]
theorem ixstepAdd (g x a imm) : Statement (.ixstepAdd g x a imm) := of_parse rfl fun h => by
  replace h : x.w ≠ .w8 := by simpa only [Instr.fieldsOk, decide_eq_true_eq] using h
  simp (disch := omega) only [parse, parseA, Fields.mk', BitVec.reduceToNat, Nat.reduceDiv, Option.bind_eq_bind,
    Option.bind_some, Guard.ofCode_code, Operand.ofCode_code, if_neg h]
theorem ixstepSet (g x a imm) : Statement (.ixstepSet g x a imm) := of_parse rfl fun h => by
  replace h : x.w = .w8 := by simpa only [Instr.fieldsOk, decide_eq_true_eq] using h
  simp (disch := omega) only [parse, parseA, Fields.mk', BitVec.reduceToNat, Nat.reduceDiv, Option.bind_eq_bind,
    Option.bind_some, Guard.ofCode_code, Operand.ofCode_code, if_pos h]
theorem spill (g d n) : Statement (.spill g d n) := of_parse rfl fun _ => by
  simp (disch := omega) only [parse, parseA, Fields.mk', BitVec.reduceToNat, Nat.reduceDiv, Option.bind_eq_bind,
    Option.bind_some, Guard.ofCode_code, Operand.ofCode_code, must, if_true, eq_self]
theorem fill (g d n) : Statement (.fill g d n) := of_parse rfl fun _ => by
  simp (disch := omega) only [parse, parseA, Fields.mk', BitVec.reduceToNat, Nat.reduceDiv, Option.bind_eq_bind,
    Option.bind_some, Guard.ofCode_code, Operand.ofCode_code, must, if_true, eq_self]
theorem stashq (g d q) : Statement (.stashq g d q) := of_parse rfl fun _ => by
  simp (disch := omega) only [parse, parseA, Fields.mk', BitVec.reduceToNat, Nat.reduceDiv, Option.bind_eq_bind,
    Option.bind_some, Guard.ofCode_code, Operand.ofCode_code, must, if_true, eq_self, low, high, all, zero, bitLow, bitHigh,
    bitAll, bitZero]
theorem iadd (g d a b) : Statement (.iadd g d a b) := of_parse rfl fun _ => by
  simp (disch := omega) only [parse, parseB, Fields.mk', BitVec.reduceToNat, Nat.reduceDiv, Option.bind_eq_bind,
    Option.bind_some, Guard.ofCode_code, Operand.ofCode_code]
theorem iadds (g d a b) : Statement (.iadds g d a b) := of_parse rfl fun _ => by
  simp (disch := omega) only [parse, parseB, Fields.mk', BitVec.reduceToNat, Nat.reduceDiv, Option.bind_eq_bind,
    Option.bind_some, Guard.ofCode_code, Operand.ofCode_code]
theorem isub (g d a b) : Statement (.isub g d a b) := of_parse rfl fun _ => by
  simp (disch := omega) only [parse, parseB, Fields.mk', BitVec.reduceToNat, Nat.reduceDiv, Option.bind_eq_bind,
    Option.bind_some, Guard.ofCode_code, Operand.ofCode_code]
theorem isubs (g d a b) : Statement (.isubs g d a b) := of_parse rfl fun _ => by
  simp (disch := omega) only [parse, parseB, Fields.mk', BitVec.reduceToNat, Nat.reduceDiv, Option.bind_eq_bind,
    Option.bind_some, Guard.ofCode_code, Operand.ofCode_code]
theorem imul (g d a b) : Statement (.imul g d a b) := of_parse rfl fun _ => by
  simp (disch := omega) only [parse, parseB, Fields.mk', BitVec.reduceToNat, Nat.reduceDiv, Option.bind_eq_bind,
    Option.bind_some, Guard.ofCode_code, Operand.ofCode_code]
theorem imulh (g d a b) : Statement (.imulh g d a b) := of_parse rfl fun _ => by
  simp (disch := omega) only [parse, parseB, Fields.mk', BitVec.reduceToNat, Nat.reduceDiv, Option.bind_eq_bind,
    Option.bind_some, Guard.ofCode_code, Operand.ofCode_code]
theorem imad (g d a b) : Statement (.imad g d a b) := of_parse rfl fun _ => by
  simp (disch := omega) only [parse, parseB, Fields.mk', BitVec.reduceToNat, Nat.reduceDiv, Option.bind_eq_bind,
    Option.bind_some, Guard.ofCode_code, Operand.ofCode_code]
theorem imin (g d a b) : Statement (.imin g d a b) := of_parse rfl fun _ => by
  simp (disch := omega) only [parse, parseB, Fields.mk', BitVec.reduceToNat, Nat.reduceDiv, Option.bind_eq_bind,
    Option.bind_some, Guard.ofCode_code, Operand.ofCode_code]
theorem imax (g d a b) : Statement (.imax g d a b) := of_parse rfl fun _ => by
  simp (disch := omega) only [parse, parseB, Fields.mk', BitVec.reduceToNat, Nat.reduceDiv, Option.bind_eq_bind,
    Option.bind_some, Guard.ofCode_code, Operand.ofCode_code]
theorem iabs (g d a) : Statement (.iabs g d a) := of_parse rfl fun _ => by
  simp (disch := omega) only [parse, parseB, Fields.mk', BitVec.reduceToNat, Nat.reduceDiv, Option.bind_eq_bind,
    Option.bind_some, Guard.ofCode_code, Operand.ofCode_code, must, if_true, eq_self]
theorem ineg (g d a) : Statement (.ineg g d a) := of_parse rfl fun _ => by
  simp (disch := omega) only [parse, parseB, Fields.mk', BitVec.reduceToNat, Nat.reduceDiv, Option.bind_eq_bind,
    Option.bind_some, Guard.ofCode_code, Operand.ofCode_code, must, if_true, eq_self]
theorem and (g d a b) : Statement (.and g d a b) := of_parse rfl fun _ => by
  simp (disch := omega) only [parse, parseB, Fields.mk', BitVec.reduceToNat, Nat.reduceDiv, Option.bind_eq_bind,
    Option.bind_some, Guard.ofCode_code, Operand.ofCode_code]
theorem or (g d a b) : Statement (.or g d a b) := of_parse rfl fun _ => by
  simp (disch := omega) only [parse, parseB, Fields.mk', BitVec.reduceToNat, Nat.reduceDiv, Option.bind_eq_bind,
    Option.bind_some, Guard.ofCode_code, Operand.ofCode_code]
theorem xor (g d a b) : Statement (.xor g d a b) := of_parse rfl fun _ => by
  simp (disch := omega) only [parse, parseB, Fields.mk', BitVec.reduceToNat, Nat.reduceDiv, Option.bind_eq_bind,
    Option.bind_some, Guard.ofCode_code, Operand.ofCode_code]
theorem andn (g d a b) : Statement (.andn g d a b) := of_parse rfl fun _ => by
  simp (disch := omega) only [parse, parseB, Fields.mk', BitVec.reduceToNat, Nat.reduceDiv, Option.bind_eq_bind,
    Option.bind_some, Guard.ofCode_code, Operand.ofCode_code]
theorem not (g d a) : Statement (.not g d a) := of_parse rfl fun _ => by
  simp (disch := omega) only [parse, parseB, Fields.mk', BitVec.reduceToNat, Nat.reduceDiv, Option.bind_eq_bind,
    Option.bind_some, Guard.ofCode_code, Operand.ofCode_code, must, if_true, eq_self]
theorem shl (g d a n) : Statement (.shl g d a n) := of_parse rfl fun _ => by
  simp (disch := omega) only [parse, parseB, Fields.mk', BitVec.reduceToNat, Nat.reduceDiv, Option.bind_eq_bind,
    Option.bind_some, Guard.ofCode_code, Operand.ofCode_code, Amount.ofCode_code]
theorem shr (g d a n) : Statement (.shr g d a n) := of_parse rfl fun _ => by
  simp (disch := omega) only [parse, parseB, Fields.mk', BitVec.reduceToNat, Nat.reduceDiv, Option.bind_eq_bind,
    Option.bind_some, Guard.ofCode_code, Operand.ofCode_code, Amount.ofCode_code]
theorem sar (g d a n) : Statement (.sar g d a n) := of_parse rfl fun _ => by
  simp (disch := omega) only [parse, parseB, Fields.mk', BitVec.reduceToNat, Nat.reduceDiv, Option.bind_eq_bind,
    Option.bind_some, Guard.ofCode_code, Operand.ofCode_code, Amount.ofCode_code]
theorem rot (g d a n) : Statement (.rot g d a n) := of_parse rfl fun _ => by
  simp (disch := omega) only [parse, parseB, Fields.mk', BitVec.reduceToNat, Nat.reduceDiv, Option.bind_eq_bind,
    Option.bind_some, Guard.ofCode_code, Operand.ofCode_code, Amount.ofCode_code]
theorem popc (g d a) : Statement (.popc g d a) := of_parse rfl fun _ => by
  simp (disch := omega) only [parse, parseB, Fields.mk', BitVec.reduceToNat, Nat.reduceDiv, Option.bind_eq_bind,
    Option.bind_some, Guard.ofCode_code, Operand.ofCode_code, must, if_true, eq_self]
theorem clz (g d a) : Statement (.clz g d a) := of_parse rfl fun _ => by
  simp (disch := omega) only [parse, parseB, Fields.mk', BitVec.reduceToNat, Nat.reduceDiv, Option.bind_eq_bind,
    Option.bind_some, Guard.ofCode_code, Operand.ofCode_code, must, if_true, eq_self]
theorem brev (g d a) : Statement (.brev g d a) := of_parse rfl fun _ => by
  simp (disch := omega) only [parse, parseB, Fields.mk', BitVec.reduceToNat, Nat.reduceDiv, Option.bind_eq_bind,
    Option.bind_some, Guard.ofCode_code, Operand.ofCode_code, must, if_true, eq_self]
theorem bfx (g d a s len1 pos) : Statement (.bfx g d a s len1 pos) := of_parse rfl fun _ => by
  simp (disch := omega) only [parse, parseB, Fields.mk', BitVec.reduceToNat, Nat.reduceDiv, Option.bind_eq_bind,
    Option.bind_some, Guard.ofCode_code, Operand.ofCode_code, must, if_true, eq_self, low, high, all, zero, bitLow, bitHigh,
    bitAll, bitZero]
theorem bfi (g d a len1 pos) : Statement (.bfi g d a len1 pos) := of_parse rfl fun _ => by
  simp (disch := omega) only [parse, parseB, Fields.mk', BitVec.reduceToNat, Nat.reduceDiv, Option.bind_eq_bind,
    Option.bind_some, Guard.ofCode_code, Operand.ofCode_code, must, if_true, eq_self, low, high, all, zero, bitLow, bitHigh,
    bitAll, bitZero]
theorem icmp (g c m p a b) : Statement (.icmp g c m p a b) := of_parse rfl fun _ => by
  simp (disch := omega) only [parse, parseB, Fields.mk', BitVec.reduceToNat, Nat.reduceDiv, Option.bind_eq_bind,
    Option.bind_some, Guard.ofCode_code, Operand.ofCode_code, cmpField, low, high, all, zero, bitLow, bitHigh, bitAll, bitZero,
    PredBit.ofCode_code, PMode.ofCode_code, ICond.ofCode_code]
theorem sel (g d a b) : Statement (.sel g d a b) := of_parse rfl fun _ => by
  simp (disch := omega) only [parse, parseB, Fields.mk', BitVec.reduceToNat, Nat.reduceDiv, Option.bind_eq_bind,
    Option.bind_some, Guard.ofCode_code, Operand.ofCode_code]
theorem amov (g d a b) : Statement (.amov g d a b) := of_parse rfl fun _ => by
  simp (disch := omega) only [parse, parseC, Fields.mk', BitVec.reduceToNat, Nat.reduceDiv, Option.bind_eq_bind,
    Option.bind_some, Guard.ofCode_code, Operand.ofCode_code]
theorem aadd (g d a b) : Statement (.aadd g d a b) := of_parse rfl fun _ => by
  simp (disch := omega) only [parse, parseC, Fields.mk', BitVec.reduceToNat, Nat.reduceDiv, Option.bind_eq_bind,
    Option.bind_some, Guard.ofCode_code, Operand.ofCode_code]
theorem amul (g d a b) : Statement (.amul g d a b) := of_parse rfl fun _ => by
  simp (disch := omega) only [parse, parseC, Fields.mk', BitVec.reduceToNat, Nat.reduceDiv, Option.bind_eq_bind,
    Option.bind_some, Guard.ofCode_code, Operand.ofCode_code]
theorem aget (g d a q) : Statement (.aget g d a q) := of_parse rfl fun _ => by
  simp (disch := omega) only [parse, parseC, Fields.mk', BitVec.reduceToNat, Nat.reduceDiv, Option.bind_eq_bind,
    Option.bind_some, Guard.ofCode_code, Operand.ofCode_code, AffQuery.ofCode_code]
theorem afrom (g d a) : Statement (.afrom g d a) := of_parse rfl fun _ => by
  simp (disch := omega) only [parse, parseC, Fields.mk', BitVec.reduceToNat, Nat.reduceDiv, Option.bind_eq_bind,
    Option.bind_some, Guard.ofCode_code, Operand.ofCode_code, must, if_true, eq_self]
theorem alea (g d a n s) : Statement (.alea g d a n s) := of_parse rfl fun _ => by
  simp (disch := omega) only [parse, parseC, Fields.mk', BitVec.reduceToNat, Nat.reduceDiv, Option.bind_eq_bind,
    Option.bind_some, Guard.ofCode_code, Operand.ofCode_code, must, if_true, eq_self, low, high, all, zero, bitLow, bitHigh,
    bitAll, bitZero]
theorem fadd (g d a b) : Statement (.fadd g d a b) := of_parse rfl fun _ => by
  simp (disch := omega) only [parse, parseD, Fields.mk', BitVec.reduceToNat, Nat.reduceDiv, Option.bind_eq_bind,
    Option.bind_some, Guard.ofCode_code, Operand.ofCode_code]
theorem fsub (g d a b) : Statement (.fsub g d a b) := of_parse rfl fun _ => by
  simp (disch := omega) only [parse, parseD, Fields.mk', BitVec.reduceToNat, Nat.reduceDiv, Option.bind_eq_bind,
    Option.bind_some, Guard.ofCode_code, Operand.ofCode_code]
theorem fmul (g d a b) : Statement (.fmul g d a b) := of_parse rfl fun _ => by
  simp (disch := omega) only [parse, parseD, Fields.mk', BitVec.reduceToNat, Nat.reduceDiv, Option.bind_eq_bind,
    Option.bind_some, Guard.ofCode_code, Operand.ofCode_code]
theorem ffma (g d a b) : Statement (.ffma g d a b) := of_parse rfl fun _ => by
  simp (disch := omega) only [parse, parseD, Fields.mk', BitVec.reduceToNat, Nat.reduceDiv, Option.bind_eq_bind,
    Option.bind_some, Guard.ofCode_code, Operand.ofCode_code]
theorem fmin (g d a b) : Statement (.fmin g d a b) := of_parse rfl fun _ => by
  simp (disch := omega) only [parse, parseD, Fields.mk', BitVec.reduceToNat, Nat.reduceDiv, Option.bind_eq_bind,
    Option.bind_some, Guard.ofCode_code, Operand.ofCode_code]
theorem fmax (g d a b) : Statement (.fmax g d a b) := of_parse rfl fun _ => by
  simp (disch := omega) only [parse, parseD, Fields.mk', BitVec.reduceToNat, Nat.reduceDiv, Option.bind_eq_bind,
    Option.bind_some, Guard.ofCode_code, Operand.ofCode_code]
theorem fneg (g d a) : Statement (.fneg g d a) := of_parse rfl fun _ => by
  simp (disch := omega) only [parse, parseD, Fields.mk', BitVec.reduceToNat, Nat.reduceDiv, Option.bind_eq_bind,
    Option.bind_some, Guard.ofCode_code, Operand.ofCode_code, must, if_true, eq_self]
theorem fabs (g d a) : Statement (.fabs g d a) := of_parse rfl fun _ => by
  simp (disch := omega) only [parse, parseD, Fields.mk', BitVec.reduceToNat, Nat.reduceDiv, Option.bind_eq_bind,
    Option.bind_some, Guard.ofCode_code, Operand.ofCode_code, must, if_true, eq_self]
theorem fcmp (g c m p a b) : Statement (.fcmp g c m p a b) := of_parse rfl fun _ => by
  simp (disch := omega) only [parse, parseD, Fields.mk', BitVec.reduceToNat, Nat.reduceDiv, Option.bind_eq_bind,
    Option.bind_some, Guard.ofCode_code, Operand.ofCode_code, cmpField, low, high, all, zero, bitLow, bitHigh, bitAll, bitZero,
    PredBit.ofCode_code, PMode.ofCode_code, FCond.ofCode_code]
theorem fclass (g d a) : Statement (.fclass g d a) := of_parse rfl fun _ => by
  simp (disch := omega) only [parse, parseD, Fields.mk', BitVec.reduceToNat, Nat.reduceDiv, Option.bind_eq_bind,
    Option.bind_some, Guard.ofCode_code, Operand.ofCode_code, must, if_true, eq_self]
theorem frcp (g d a) : Statement (.frcp g d a) := of_parse rfl fun _ => by
  simp (disch := omega) only [parse, parseD, Fields.mk', BitVec.reduceToNat, Nat.reduceDiv, Option.bind_eq_bind,
    Option.bind_some, Guard.ofCode_code, Operand.ofCode_code, must, if_true, eq_self]
theorem frsq (g d a) : Statement (.frsq g d a) := of_parse rfl fun _ => by
  simp (disch := omega) only [parse, parseD, Fields.mk', BitVec.reduceToNat, Nat.reduceDiv, Option.bind_eq_bind,
    Option.bind_some, Guard.ofCode_code, Operand.ofCode_code, must, if_true, eq_self]
theorem fsqrt (g d a) : Statement (.fsqrt g d a) := of_parse rfl fun _ => by
  simp (disch := omega) only [parse, parseD, Fields.mk', BitVec.reduceToNat, Nat.reduceDiv, Option.bind_eq_bind,
    Option.bind_some, Guard.ofCode_code, Operand.ofCode_code, must, if_true, eq_self]
theorem fexp2 (g d a) : Statement (.fexp2 g d a) := of_parse rfl fun _ => by
  simp (disch := omega) only [parse, parseD, Fields.mk', BitVec.reduceToNat, Nat.reduceDiv, Option.bind_eq_bind,
    Option.bind_some, Guard.ofCode_code, Operand.ofCode_code, must, if_true, eq_self]
theorem flog2 (g d a) : Statement (.flog2 g d a) := of_parse rfl fun _ => by
  simp (disch := omega) only [parse, parseD, Fields.mk', BitVec.reduceToNat, Nat.reduceDiv, Option.bind_eq_bind,
    Option.bind_some, Guard.ofCode_code, Operand.ofCode_code, must, if_true, eq_self]
theorem ftanh (g d a) : Statement (.ftanh g d a) := of_parse rfl fun _ => by
  simp (disch := omega) only [parse, parseD, Fields.mk', BitVec.reduceToNat, Nat.reduceDiv, Option.bind_eq_bind,
    Option.bind_some, Guard.ofCode_code, Operand.ofCode_code, must, if_true, eq_self]
theorem fscl (g d a b) : Statement (.fscl g d a b) := of_parse rfl fun _ => by
  simp (disch := omega) only [parse, parseD, Fields.mk', BitVec.reduceToNat, Nat.reduceDiv, Option.bind_eq_bind,
    Option.bind_some, Guard.ofCode_code, Operand.ofCode_code]
theorem frnd (g d a m) : Statement (.frnd g d a m) := of_parse rfl fun _ => by
  simp (disch := omega) only [parse, parseD, Fields.mk', BitVec.reduceToNat, Nat.reduceDiv, Option.bind_eq_bind,
    Option.bind_some, Guard.ofCode_code, Operand.ofCode_code, must, if_true, eq_self, low, high, all, zero, bitLow, bitHigh,
    bitAll, bitZero, RMode.ofCode_code]
theorem cvtfTo (g d a slot) : Statement (.cvtfTo g d a slot) := of_parse rfl fun _ => by
  simp (disch := omega) only [parse, parseD, Fields.mk', BitVec.reduceToNat, Nat.reduceDiv, Option.bind_eq_bind,
    Option.bind_some, Guard.ofCode_code, Operand.ofCode_code, must, if_true, eq_self, low, high, all, zero, bitLow, bitHigh,
    bitAll, bitZero]
  rfl
theorem cvtfFrom (g d a slot) : Statement (.cvtfFrom g d a slot) := of_parse rfl fun _ => by
  simp (disch := omega) only [parse, parseD, Fields.mk', BitVec.reduceToNat, Nat.reduceDiv, Option.bind_eq_bind,
    Option.bind_some, Guard.ofCode_code, Operand.ofCode_code, must, if_true, eq_self, low, high, all, zero, bitLow, bitHigh,
    bitAll, bitZero]
  rfl
theorem cvtfi (g d a s m) : Statement (.cvtfi g d a s m) := of_parse rfl fun _ => by
  simp (disch := omega) only [parse, parseD, Fields.mk', BitVec.reduceToNat, Nat.reduceDiv, Option.bind_eq_bind,
    Option.bind_some, Guard.ofCode_code, Operand.ofCode_code, must, if_true, eq_self, low, high, all, zero, bitLow, bitHigh,
    bitAll, bitZero, RMode.ofCode_code]
theorem cvtif (g d a m) : Statement (.cvtif g d a m) := of_parse rfl fun _ => by
  simp (disch := omega) only [parse, parseD, Fields.mk', BitVec.reduceToNat, Nat.reduceDiv, Option.bind_eq_bind,
    Option.bind_some, Guard.ofCode_code, Operand.ofCode_code, must, if_true, eq_self, low, high, all, zero, bitLow, bitHigh,
    bitAll, bitZero, RMode.ofCode_code]
theorem qblk (d a slot sc) : Statement (.qblk d a slot sc) := of_parse rfl fun _ => by
  simp (disch := omega) only [parse, parseD, Fields.mk', BitVec.reduceToNat, Nat.reduceDiv, Option.bind_eq_bind,
    Option.bind_some, Operand.ofCode_code, must, if_true, eq_self, low, high, all, zero, bitLow, bitHigh, bitAll, bitZero,
    Sel.ofCode_code]
theorem dqblk (d a slot sc) : Statement (.dqblk d a slot sc) := of_parse rfl fun _ => by
  simp (disch := omega) only [parse, parseD, Fields.mk', BitVec.reduceToNat, Nat.reduceDiv, Option.bind_eq_bind,
    Option.bind_some, Operand.ofCode_code, must, if_true, eq_self, low, high, all, zero, bitLow, bitHigh, bitAll, bitZero,
    Sel.ofCode_code]
theorem bra (g off) : Statement (.bra g off) := of_parse rfl fun _ => by
  simp (disch := omega) only [parse, parseE, Fields.long, Fields.imm28, append_extract, BitVec.reduceToNat, Nat.reduceDiv,
    Option.bind_eq_bind, Option.bind_some, Guard.ofCode_code, must, if_true, eq_self, low, high, all, zero, bitLow, bitHigh,
    bitAll, bitZero]
theorem braLv (g n off) : Statement (.braLv g n off) := of_parse rfl fun _ => by
  have h : maskCode n ++ (0 : BitVec 10) ≠ (15 : BitVec 4) ++ (0 : BitVec 10) := mask_ne_all n
  simp (disch := omega) only [parse, parseE, Fields.long, Fields.imm28, append_extract, BitVec.reduceToNat, Nat.reduceDiv,
    Option.bind_eq_bind, Option.bind_some, Guard.ofCode_code, must, if_true, eq_self, low, high, all, zero, bitLow, bitHigh,
    bitAll, bitZero, maskOf_maskCode, if_neg h]
theorem brx (g a) : Statement (.brx g a) := of_parse rfl fun _ => by
  simp (disch := omega) only [parse, parseE, Fields.mk', BitVec.reduceToNat, Nat.reduceDiv, Option.bind_eq_bind,
    Option.bind_some, Guard.ofCode_code, Operand.ofCode_code, must, if_true, eq_self]
theorem call (g d off) : Statement (.call g d off) := of_parse rfl fun _ => by
  simp (disch := omega) only [parse, parseE, Fields.long, Fields.imm28, append_extract, BitVec.reduceToNat, Nat.reduceDiv,
    Option.bind_eq_bind, Option.bind_some, Guard.ofCode_code, Operand.ofCode_code]
theorem callx (g d a) : Statement (.callx g d a) := of_parse rfl fun _ => by
  simp (disch := omega) only [parse, parseE, Fields.mk', BitVec.reduceToNat, Nat.reduceDiv, Option.bind_eq_bind,
    Option.bind_some, Guard.ofCode_code, Operand.ofCode_code, must, if_true, eq_self]
theorem ret (g a) : Statement (.ret g a) := of_parse rfl fun _ => by
  simp (disch := omega) only [parse, parseE, Fields.mk', BitVec.reduceToNat, Nat.reduceDiv, Option.bind_eq_bind,
    Option.bind_some, Guard.ofCode_code, Operand.ofCode_code, must, if_true, eq_self]
theorem join (g n) : Statement (.join g n) := of_parse rfl fun _ => by
  simp (disch := omega) only [parse, parseE, Fields.mk', BitVec.reduceToNat, Nat.reduceDiv, Option.bind_eq_bind,
    Option.bind_some, Guard.ofCode_code, must, if_true, eq_self, low, high, all, zero, bitLow, bitHigh, bitAll, bitZero,
    maskOf_maskCode]
theorem leave (g n) : Statement (.leave g n) := of_parse rfl fun _ => by
  simp (disch := omega) only [parse, parseE, Fields.mk', BitVec.reduceToNat, Nat.reduceDiv, Option.bind_eq_bind,
    Option.bind_some, Guard.ofCode_code, must, if_true, eq_self, low, high, all, zero, bitLow, bitHigh, bitAll, bitZero,
    maskOf_maskCode]
theorem jwait (g n) : Statement (.jwait g n) := of_parse rfl fun _ => by
  simp (disch := omega) only [parse, parseE, Fields.mk', BitVec.reduceToNat, Nat.reduceDiv, Option.bind_eq_bind,
    Option.bind_some, Guard.ofCode_code, must, if_true, eq_self, low, high, all, zero, bitLow, bitHigh, bitAll, bitZero,
    maskOf_maskCode]
theorem mget (g d arr n) : Statement (.mget g d arr n) := of_parse rfl fun _ => by
  simp (disch := omega) only [parse, parseE, Fields.mk', BitVec.reduceToNat, Nat.reduceDiv, Option.bind_eq_bind,
    Option.bind_some, Guard.ofCode_code, Operand.ofCode_code, must, if_true, eq_self, low, high, all, zero, bitLow, bitHigh,
    bitAll, bitZero, maskOf_maskCode]
theorem mput (g a n) : Statement (.mput g a n) := of_parse rfl fun _ => by
  simp (disch := omega) only [parse, parseE, Fields.mk', BitVec.reduceToNat, Nat.reduceDiv, Option.bind_eq_bind,
    Option.bind_some, Guard.ofCode_code, Operand.ofCode_code, must, if_true, eq_self, low, high, all, zero, bitLow, bitHigh,
    bitAll, bitZero, maskOf_maskCode]
theorem exit (g) : Statement (.exit g) := of_parse rfl fun _ => by
  simp (disch := omega) only [parse, parseE, Fields.mk', BitVec.reduceToNat, Nat.reduceDiv, Option.bind_eq_bind,
    Option.bind_some, Guard.ofCode_code, must, if_true, eq_self]
theorem yield (g c) : Statement (.yield g c) := of_parse rfl fun _ => by
  simp (disch := omega) only [parse, parseE, Fields.mk', BitVec.reduceToNat, Nat.reduceDiv, Option.bind_eq_bind,
    Option.bind_some, Guard.ofCode_code, must, if_true, eq_self, low, high, all, zero, bitLow, bitHigh, bitAll, bitZero]
theorem nop (g) : Statement (.nop g) := of_parse rfl fun _ => by
  simp (disch := omega) only [parse, parseE, Fields.mk', BitVec.reduceToNat, Nat.reduceDiv, Option.bind_eq_bind,
    Option.bind_some, Guard.ofCode_code, must, if_true, eq_self]
theorem shfl (p d a b) : Statement (.shfl p d a b) := of_parse rfl fun _ => by
  simp (disch := omega) only [parse, parseF, Fields.mk', BitVec.reduceToNat, Nat.reduceDiv, Option.bind_eq_bind,
    Option.bind_some, PSet.ofCode_code, Operand.ofCode_code]
theorem shflup (p d a n) : Statement (.shflup p d a n) := of_parse rfl fun _ => by
  simp (disch := omega) only [parse, parseF, Fields.mk', BitVec.reduceToNat, Nat.reduceDiv, Option.bind_eq_bind,
    Option.bind_some, PSet.ofCode_code, Operand.ofCode_code, must, if_true, eq_self, low, high, all, zero, bitLow, bitHigh,
    bitAll, bitZero]
theorem shfldn (p d a n) : Statement (.shfldn p d a n) := of_parse rfl fun _ => by
  simp (disch := omega) only [parse, parseF, Fields.mk', BitVec.reduceToNat, Nat.reduceDiv, Option.bind_eq_bind,
    Option.bind_some, PSet.ofCode_code, Operand.ofCode_code, must, if_true, eq_self, low, high, all, zero, bitLow, bitHigh,
    bitAll, bitZero]
theorem shflx (p d a n) : Statement (.shflx p d a n) := of_parse rfl fun _ => by
  simp (disch := omega) only [parse, parseF, Fields.mk', BitVec.reduceToNat, Nat.reduceDiv, Option.bind_eq_bind,
    Option.bind_some, PSet.ofCode_code, Operand.ofCode_code, must, if_true, eq_self, low, high, all, zero, bitLow, bitHigh,
    bitAll, bitZero]
theorem bcast (p d a lo n) : Statement (.bcast p d a lo n) := of_parse rfl fun _ => by
  simp (disch := omega) only [parse, parseF, Fields.mk', BitVec.reduceToNat, Nat.reduceDiv, Option.bind_eq_bind,
    Option.bind_some, PSet.ofCode_code, Operand.ofCode_code, must, if_true, eq_self, low, high, all, zero, bitLow, bitHigh,
    bitAll, bitZero]
theorem scan (p d a op excl) : Statement (.scan p d a op excl) := of_parse rfl fun _ => by
  simp (disch := omega) only [parse, parseF, Fields.mk', BitVec.reduceToNat, Nat.reduceDiv, Option.bind_eq_bind,
    Option.bind_some, PSet.ofCode_code, Operand.ofCode_code, must, if_true, eq_self, low, high, all, zero, bitLow, bitHigh,
    bitAll, bitZero, ScanOp.ofCode_code]
theorem reduce (p d a op) : Statement (.reduce p d a op) := of_parse rfl fun _ => by
  simp (disch := omega) only [parse, parseF, Fields.mk', BitVec.reduceToNat, Nat.reduceDiv, Option.bind_eq_bind,
    Option.bind_some, PSet.ofCode_code, Operand.ofCode_code, must, if_true, eq_self, low, high, all, zero, bitLow, bitHigh,
    bitAll, bitZero, ScanOp.ofCode_code]
theorem ballot (p d q) : Statement (.ballot p d q) := of_parse rfl fun _ => by
  simp (disch := omega) only [parse, parseF, Fields.mk', BitVec.reduceToNat, Nat.reduceDiv, Option.bind_eq_bind,
    Option.bind_some, PSet.ofCode_code, Operand.ofCode_code, must, if_true, eq_self, low, high, all, zero, bitLow, bitHigh,
    bitAll, bitZero, PredBit.ofCode_code]
theorem prank (p d t q) : Statement (.prank p d t q) := of_parse rfl fun _ => by
  simp (disch := omega) only [parse, parseF, Fields.mk', BitVec.reduceToNat, Nat.reduceDiv, Option.bind_eq_bind,
    Option.bind_some, PSet.ofCode_code, Operand.ofCode_code, must, if_true, eq_self, low, high, all, zero, bitLow, bitHigh,
    bitAll, bitZero, PredBit.ofCode_code]
theorem sample (p d a b) : Statement (.sample p d a b) := of_parse rfl fun _ => by
  simp (disch := omega) only [parse, parseF, Fields.mk', BitVec.reduceToNat, Nat.reduceDiv, Option.bind_eq_bind,
    Option.bind_some, PSet.ofCode_code, Operand.ofCode_code]
theorem ldg (g d a hint off) : Statement (.ldg g d a hint off) := of_parse rfl fun _ => by
  simp (disch := omega) only [parse, parseG, Fields.mk', BitVec.reduceToNat, Nat.reduceDiv, Option.bind_eq_bind,
    Option.bind_some, Guard.ofCode_code, Operand.ofCode_code, low, high, all, zero, bitLow, bitHigh, bitAll, bitZero]
theorem stg (g d a hint off) : Statement (.stg g d a hint off) := of_parse rfl fun _ => by
  simp (disch := omega) only [parse, parseG, Fields.mk', BitVec.reduceToNat, Nat.reduceDiv, Option.bind_eq_bind,
    Option.bind_some, Guard.ofCode_code, Operand.ofCode_code, low, high, all, zero, bitLow, bitHigh, bitAll, bitZero]
theorem lds (g d a off) : Statement (.lds g d a off) := of_parse rfl fun _ => by
  simp (disch := omega) only [parse, parseG, Fields.mk', BitVec.reduceToNat, Nat.reduceDiv, Option.bind_eq_bind,
    Option.bind_some, Guard.ofCode_code, Operand.ofCode_code, must, if_true, eq_self, low, high, all, zero, bitLow, bitHigh,
    bitAll, bitZero]
theorem sts (g d a off) : Statement (.sts g d a off) := of_parse rfl fun _ => by
  simp (disch := omega) only [parse, parseG, Fields.mk', BitVec.reduceToNat, Nat.reduceDiv, Option.bind_eq_bind,
    Option.bind_some, Guard.ofCode_code, Operand.ofCode_code, must, if_true, eq_self, low, high, all, zero, bitLow, bitHigh,
    bitAll, bitZero]
theorem ldc (g d a off) : Statement (.ldc g d a off) := of_parse rfl fun _ => by
  simp (disch := omega) only [parse, parseG, Fields.mk', BitVec.reduceToNat, Nat.reduceDiv, Option.bind_eq_bind,
    Option.bind_some, Guard.ofCode_code, Operand.ofCode_code, must, if_true, eq_self, low, high, all, zero, bitLow, bitHigh,
    bitAll, bitZero]
theorem stc (g d a off) : Statement (.stc g d a off) := of_parse rfl fun _ => by
  simp (disch := omega) only [parse, parseG, Fields.mk', BitVec.reduceToNat, Nat.reduceDiv, Option.bind_eq_bind,
    Option.bind_some, Guard.ofCode_code, Operand.ofCode_code, must, if_true, eq_self, low, high, all, zero, bitLow, bitHigh,
    bitAll, bitZero]
theorem ldx (g d a off) : Statement (.ldx g d a off) := of_parse rfl fun _ => by
  simp (disch := omega) only [parse, parseG, Fields.mk', BitVec.reduceToNat, Nat.reduceDiv, Option.bind_eq_bind,
    Option.bind_some, Guard.ofCode_code, Operand.ofCode_code, must, if_true, eq_self, low, high, all, zero, bitLow, bitHigh,
    bitAll, bitZero]
theorem stx (g d a off) : Statement (.stx g d a off) := of_parse rfl fun _ => by
  simp (disch := omega) only [parse, parseG, Fields.mk', BitVec.reduceToNat, Nat.reduceDiv, Option.bind_eq_bind,
    Option.bind_some, Guard.ofCode_code, Operand.ofCode_code, must, if_true, eq_self, low, high, all, zero, bitLow, bitHigh,
    bitAll, bitZero]
theorem ldt (g d l n1 t) : Statement (.ldt g d l n1 t) := of_parse rfl fun _ => by
  simp (disch := omega) only [parse, parseG, Fields.mk', BitVec.reduceToNat, Nat.reduceDiv, Option.bind_eq_bind,
    Option.bind_some, Guard.ofCode_code, Operand.ofCode_code, low, high, all, zero, bitLow, bitHigh, bitAll, bitZero]
theorem stt (g d l n1 t) : Statement (.stt g d l n1 t) := of_parse rfl fun _ => by
  simp (disch := omega) only [parse, parseG, Fields.mk', BitVec.reduceToNat, Nat.reduceDiv, Option.bind_eq_bind,
    Option.bind_some, Guard.ofCode_code, Operand.ofCode_code, low, high, all, zero, bitLow, bitHigh, bitAll, bitZero]
theorem pref (g w a hint off) : Statement (.pref g w a hint off) := of_parse rfl fun _ => by
  simp (disch := omega) only [parse, parseG, Fields.mk', BitVec.reduceToNat, Nat.reduceDiv, Option.bind_eq_bind,
    Option.bind_some, Guard.ofCode_code, Operand.ofCode_code, must, if_true, eq_self, low, high, all, zero, bitLow, bitHigh,
    bitAll, bitZero, Width.ofCode_code]
theorem l1inv (g len a off) : Statement (.l1inv g len a off) := of_parse rfl fun _ => by
  simp (disch := omega) only [parse, parseG, Fields.mk', BitVec.reduceToNat, Nat.reduceDiv, Option.bind_eq_bind,
    Option.bind_some, Guard.ofCode_code, Operand.ofCode_code, must, if_true, eq_self, low, high, all, zero, bitLow, bitHigh,
    bitAll, bitZero]
  rfl
theorem l1invAll (g) : Statement (.l1invAll g) := of_parse rfl fun _ => by
  simp (disch := omega) only [parse, parseG, Fields.mk', BitVec.reduceToNat, Nat.reduceDiv, Option.bind_eq_bind,
    Option.bind_some, Guard.ofCode_code, must, if_true, eq_self, low, high, all, zero, bitLow, bitHigh, bitAll, bitZero]
theorem fence (sc) : Statement (.fence sc) := of_parse rfl fun _ => by
  simp (disch := omega) only [parse, parseH, Fields.mk', BitVec.reduceToNat, Nat.reduceDiv, Option.bind_eq_bind,
    Option.bind_some, must, if_true, eq_self, low, high, all, zero, bitLow, bitHigh, bitAll, bitZero]
theorem bart (n) : Statement (.bart n) := of_parse rfl fun _ => by
  simp (disch := omega) only [parse, parseH, Fields.mk', BitVec.reduceToNat, Nat.reduceDiv, Option.bind_eq_bind,
    Option.bind_some, must, if_true, eq_self, low, high, all, zero, bitLow, bitHigh, bitAll, bitZero]
  rfl
theorem bartN (n a) : Statement (.bartN n a) := of_parse rfl fun _ => by
  simp (disch := omega) only [parse, parseH, Fields.mk', BitVec.reduceToNat, Nat.reduceDiv, Option.bind_eq_bind,
    Option.bind_some, Operand.ofCode_code, must, if_true, eq_self, low, high, all, zero, bitLow, bitHigh, bitAll, bitZero]
  rfl
theorem barc (n) : Statement (.barc n) := of_parse rfl fun _ => by
  simp (disch := omega) only [parse, parseH, Fields.mk', BitVec.reduceToNat, Nat.reduceDiv, Option.bind_eq_bind,
    Option.bind_some, must, if_true, eq_self, low, high, all, zero, bitLow, bitHigh, bitAll, bitZero]
theorem pld (d r slot n dflt out) : Statement (.pld d r slot n dflt out) := of_parse rfl fun _ => by
  simp (disch := omega) only [parse, parseI, Fields.mk', BitVec.reduceToNat, Nat.reduceDiv, Option.bind_eq_bind,
    Option.bind_some, Operand.ofCode_code, must, if_true, eq_self, low, high, all, zero, bitLow, bitHigh, bitAll, bitZero,
    POut.ofCode_code]
theorem prfn (d r slot n dflt) : Statement (.prfn d r slot n dflt) := of_parse rfl fun _ => by
  simp (disch := omega) only [parse, parseI, Fields.mk', BitVec.reduceToNat, Nat.reduceDiv, Option.bind_eq_bind,
    Option.bind_some, Operand.ofCode_code, must, if_true, eq_self, low, high, all, zero, bitLow, bitHigh, bitAll, bitZero]
theorem pst (a r slot n dflt) : Statement (.pst a r slot n dflt) := of_parse rfl fun _ => by
  simp (disch := omega) only [parse, parseI, Fields.mk', BitVec.reduceToNat, Nat.reduceDiv, Option.bind_eq_bind,
    Option.bind_some, Operand.ofCode_code, must, if_true, eq_self, low, high, all, zero, bitLow, bitHigh, bitAll, bitZero]
theorem pcopy (desc bar n f) : Statement (.pcopy desc bar n f) := of_parse rfl fun _ => by
  simp (disch := omega) only [parse, parseI, Fields.mk', BitVec.reduceToNat, Nat.reduceDiv, Option.bind_eq_bind,
    Option.bind_some, Operand.ofCode_code, must, if_true, eq_self, low, high, all, zero, bitLow, bitHigh, bitAll, bitZero]
theorem pcopyx (desc bar n f) : Statement (.pcopyx desc bar n f) := of_parse rfl fun _ => by
  simp (disch := omega) only [parse, parseI, Fields.mk', BitVec.reduceToNat, Nat.reduceDiv, Option.bind_eq_bind,
    Option.bind_some, Operand.ofCode_code, must, if_true, eq_self, low, high, all, zero, bitLow, bitHigh, bitAll, bitZero]
theorem pbinit (bar) : Statement (.pbinit bar) := of_parse rfl fun _ => by
  simp (disch := omega) only [parse, parseI, Fields.mk', BitVec.reduceToNat, Nat.reduceDiv, Option.bind_eq_bind,
    Option.bind_some, Operand.ofCode_code, must, if_true, eq_self]
theorem pbwait (q bar n) : Statement (.pbwait q bar n) := of_parse rfl fun _ => by
  simp (disch := omega) only [parse, parseI, Fields.mk', BitVec.reduceToNat, Nat.reduceDiv, Option.bind_eq_bind,
    Option.bind_some, Operand.ofCode_code, must, if_true, eq_self, low, high, all, zero, bitLow, bitHigh, bitAll, bitZero,
    PredBit.ofCode_code]
theorem pbtest (d bar hi) : Statement (.pbtest d bar hi) := of_parse rfl fun _ => by
  simp (disch := omega) only [parse, parseI, Fields.mk', BitVec.reduceToNat, Nat.reduceDiv, Option.bind_eq_bind,
    Option.bind_some, Operand.ofCode_code, must, if_true, eq_self, low, high, all, zero, bitLow, bitHigh, bitAll, bitZero]
theorem pgate (d pair est thr) : Statement (.pgate d pair est thr) := of_parse rfl fun _ => by
  simp (disch := omega) only [parse, parseI, Fields.mk', BitVec.reduceToNat, Nat.reduceDiv, Option.bind_eq_bind,
    Option.bind_some, Operand.ofCode_code, must, if_true, eq_self, low, high, all, zero, bitLow, bitHigh, bitAll, bitZero,
    Sel.ofCode_code]
theorem paudit (d e thr) : Statement (.paudit d e thr) := of_parse rfl fun _ => by
  simp (disch := omega) only [parse, parseI, Fields.mk', BitVec.reduceToNat, Nat.reduceDiv, Option.bind_eq_bind,
    Option.bind_some, Operand.ofCode_code, must, if_true, eq_self, low, high, all, zero, bitLow, bitHigh, bitAll, bitZero,
    Sel.ofCode_code]
theorem pdrop (desc h) : Statement (.pdrop desc h) := of_parse rfl fun _ => by
  simp (disch := omega) only [parse, parseI, Fields.mk', BitVec.reduceToNat, Nat.reduceDiv, Option.bind_eq_bind,
    Option.bind_some, Operand.ofCode_code, must, if_true, eq_self, low, high, all, zero, bitLow, bitHigh, bitAll, bitZero]
theorem ptagGet (d t chip) : Statement (.ptagGet d t chip) := of_parse rfl fun _ => by
  simp (disch := omega) only [parse, parseI, Fields.mk', BitVec.reduceToNat, Nat.reduceDiv, Option.bind_eq_bind,
    Option.bind_some, Operand.ofCode_code, must, if_true, eq_self, low, high, all, zero, bitLow, bitHigh, bitAll, bitZero]
  rfl
theorem ptagSet (t chip v) : Statement (.ptagSet t chip v) := of_parse rfl fun _ => by
  simp (disch := omega) only [parse, parseI, Fields.mk', BitVec.reduceToNat, Nat.reduceDiv, Option.bind_eq_bind,
    Option.bind_some, Operand.ofCode_code, must, if_true, eq_self, low, high, all, zero, bitLow, bitHigh, bitAll, bitZero]
  rfl
theorem mma (tile rb e slot a chunk sc) : Statement (.mma tile rb e slot a chunk sc) := of_parse rfl fun _ => by
  simp (disch := omega) only [parse, parseJ, Fields.mk', BitVec.reduceToNat, Nat.reduceDiv, Option.bind_eq_bind,
    Option.bind_some, Operand.ofCode_code, must, if_true, eq_self, low, high, all, zero, bitLow, bitHigh, bitAll, bitZero]
theorem mmap (tile rb e r chunk idx) : Statement (.mmap tile rb e r chunk idx) := of_parse rfl fun _ => by
  simp (disch := omega) only [parse, parseJ, Fields.mk', BitVec.reduceToNat, Nat.reduceDiv, Option.bind_eq_bind,
    Option.bind_some, Operand.ofCode_code, must, if_true, eq_self, low, high, all, zero, bitLow, bitHigh, bitAll, bitZero,
    Sel.ofCode_code]
theorem wbload (e c1 slot s src b) : Statement (.wbload e c1 slot s src b) := of_parse rfl fun _ => by
  simp (disch := omega) only [parse, parseJ, Fields.mk', BitVec.reduceToNat, Nat.reduceDiv, Option.bind_eq_bind,
    Option.bind_some, Operand.ofCode_code, must, if_true, eq_self, low, high, all, zero, bitLow, bitHigh, bitAll, bitZero]
theorem wbdrop (e) : Statement (.wbdrop e) := of_parse rfl fun _ => by
  simp (disch := omega) only [parse, parseJ, Fields.mk', BitVec.reduceToNat, Nat.reduceDiv, Option.bind_eq_bind,
    Option.bind_some, must, if_true, eq_self, low, high, all, zero, bitLow, bitHigh, bitAll, bitZero]
theorem acq (tile) : Statement (.acq tile) := of_parse rfl fun _ => by
  simp (disch := omega) only [parse, parseJ, Fields.mk', BitVec.reduceToNat, Nat.reduceDiv, Option.bind_eq_bind,
    Option.bind_some, must, if_true, eq_self, low, high, all, zero, bitLow, bitHigh, bitAll, bitZero]
theorem rel (tile) : Statement (.rel tile) := of_parse rfl fun _ => by
  simp (disch := omega) only [parse, parseJ, Fields.mk', BitVec.reduceToNat, Nat.reduceDiv, Option.bind_eq_bind,
    Option.bind_some, must, if_true, eq_self, low, high, all, zero, bitLow, bitHigh, bitAll, bitZero]
theorem accrd (tile rb cols d) : Statement (.accrd tile rb cols d) := of_parse rfl fun _ => by
  simp (disch := omega) only [parse, parseJ, Fields.mk', BitVec.reduceToNat, Nat.reduceDiv, Option.bind_eq_bind,
    Option.bind_some, Operand.ofCode_code, must, if_true, eq_self, low, high, all, zero, bitLow, bitHigh, bitAll, bitZero,
    Cols.ofCode_code]
theorem accwr (tile rb cols a) : Statement (.accwr tile rb cols a) := of_parse rfl fun _ => by
  simp (disch := omega) only [parse, parseJ, Fields.mk', BitVec.reduceToNat, Nat.reduceDiv, Option.bind_eq_bind,
    Option.bind_some, Operand.ofCode_code, must, if_true, eq_self, low, high, all, zero, bitLow, bitHigh, bitAll, bitZero,
    Cols.ofCode_code]
theorem accz (tile) : Statement (.accz tile) := of_parse rfl fun _ => by
  simp (disch := omega) only [parse, parseJ, Fields.mk', BitVec.reduceToNat, Nat.reduceDiv, Option.bind_eq_bind,
    Option.bind_some, must, if_true, eq_self, low, high, all, zero, bitLow, bitHigh, bitAll, bitZero]
theorem drain (tile mode space w z a stride) : Statement (.drain tile mode space w z a stride) := of_parse rfl fun _ => by
  simp (disch := omega) only [parse, parseJ, Fields.mk', BitVec.reduceToNat, Nat.reduceDiv, Option.bind_eq_bind,
    Option.bind_some, Operand.ofCode_code, must, if_true, eq_self, low, high, all, zero, bitLow, bitHigh, bitAll, bitZero,
    DMode.ofCode_code, DSpace.ofCode_code]
theorem atom (g d a op n off) : Statement (.atom g d a op n off) := of_parse rfl fun _ => by
  simp (disch := omega) only [parse, parseK, Fields.mk', BitVec.reduceToNat, Nat.reduceDiv, Option.bind_eq_bind,
    Option.bind_some, Guard.ofCode_code, Operand.ofCode_code, must, if_true, eq_self, low, high, all, zero, bitLow, bitHigh,
    bitAll, bitZero, AtomOp.ofCode_code]
theorem cas (g d a b) : Statement (.cas g d a b) := of_parse rfl fun _ => by
  simp (disch := omega) only [parse, parseK, Fields.mk', BitVec.reduceToNat, Nat.reduceDiv, Option.bind_eq_bind,
    Option.bind_some, Guard.ofCode_code, Operand.ofCode_code]
theorem atomf (g d a op n off) : Statement (.atomf g d a op n off) := of_parse rfl fun _ => by
  simp (disch := omega) only [parse, parseK, Fields.mk', BitVec.reduceToNat, Nat.reduceDiv, Option.bind_eq_bind,
    Option.bind_some, Guard.ofCode_code, Operand.ofCode_code, must, if_true, eq_self, low, high, all, zero, bitLow, bitHigh,
    bitAll, bitZero, AtomFOp.ofCode_code]
theorem waitv (g d a c off) : Statement (.waitv g d a c off) := of_parse rfl fun _ => by
  simp (disch := omega) only [parse, parseK, Fields.mk', BitVec.reduceToNat, Nat.reduceDiv, Option.bind_eq_bind,
    Option.bind_some, Guard.ofCode_code, Operand.ofCode_code, must, if_true, eq_self, low, high, all, zero, bitLow, bitHigh,
    bitAll, bitZero, WCond.ofCode_code]
theorem dqpush (g w0 w1 w2) : Statement (.dqpush g w0 w1 w2) := of_parse rfl fun _ => by
  simp (disch := omega) only [parse, parseK, Fields.mk', BitVec.reduceToNat, Nat.reduceDiv, Option.bind_eq_bind,
    Option.bind_some, Guard.ofCode_code, Operand.ofCode_code]
theorem dqpop (g d q) : Statement (.dqpop g d q) := of_parse rfl fun _ => by
  simp (disch := omega) only [parse, parseK, Fields.mk', BitVec.reduceToNat, Nat.reduceDiv, Option.bind_eq_bind,
    Option.bind_some, Guard.ofCode_code, Operand.ofCode_code, must, if_true, eq_self, low, high, all, zero, bitLow, bitHigh,
    bitAll, bitZero, PredBit.ofCode_code]
theorem dqsteal (g d q) : Statement (.dqsteal g d q) := of_parse rfl fun _ => by
  simp (disch := omega) only [parse, parseK, Fields.mk', BitVec.reduceToNat, Nat.reduceDiv, Option.bind_eq_bind,
    Option.bind_some, Guard.ofCode_code, Operand.ofCode_code, must, if_true, eq_self, low, high, all, zero, bitLow, bitHigh,
    bitAll, bitZero, PredBit.ofCode_code]
theorem fork (g ctr entry arg) : Statement (.fork g ctr entry arg) := of_parse rfl fun _ => by
  simp (disch := omega) only [parse, parseK, Fields.mk', BitVec.reduceToNat, Nat.reduceDiv, Option.bind_eq_bind,
    Option.bind_some, Guard.ofCode_code, Operand.ofCode_code]
theorem tjoin (g ctr) : Statement (.tjoin g ctr) := of_parse rfl fun _ => by
  simp (disch := omega) only [parse, parseK, Fields.mk', BitVec.reduceToNat, Nat.reduceDiv, Option.bind_eq_bind,
    Option.bind_some, Guard.ofCode_code, Operand.ofCode_code, must, if_true, eq_self]
theorem tend (g ctr) : Statement (.tend g ctr) := of_parse rfl fun _ => by
  simp (disch := omega) only [parse, parseK, Fields.mk', BitVec.reduceToNat, Nat.reduceDiv, Option.bind_eq_bind,
    Option.bind_some, Guard.ofCode_code, Operand.ofCode_code, must, if_true, eq_self]
theorem wreg (g d base space w r sz) : Statement (.wreg g d base space w r sz) := of_parse rfl fun _ => by
  simp (disch := omega) only [parse, parseL, Fields.mk', BitVec.reduceToNat, Nat.reduceDiv, Option.bind_eq_bind,
    Option.bind_some, Guard.ofCode_code, Operand.ofCode_code, must, if_true, eq_self, low, high, all, zero, bitLow, bitHigh,
    bitAll, bitZero, DSpace.ofCode_code]
  rfl
theorem wregRe (g d) : Statement (.wregRe g d) := of_parse rfl fun _ => by
  simp (disch := omega) only [parse, parseL, Fields.mk', BitVec.reduceToNat, Nat.reduceDiv, Option.bind_eq_bind,
    Option.bind_some, Guard.ofCode_code, Operand.ofCode_code, must, if_true, eq_self]
  rfl
theorem wdereg (g d h) : Statement (.wdereg g d h) := of_parse rfl fun _ => by
  simp (disch := omega) only [parse, parseL, Fields.mk', BitVec.reduceToNat, Nat.reduceDiv, Option.bind_eq_bind,
    Option.bind_some, Guard.ofCode_code, Operand.ofCode_code, must, if_true, eq_self]
theorem put (g src dst ctl) : Statement (.put g src dst ctl) := of_parse rfl fun _ => by
  simp (disch := omega) only [parse, parseL, Fields.mk', BitVec.reduceToNat, Nat.reduceDiv, Option.bind_eq_bind,
    Option.bind_some, Guard.ofCode_code, Operand.ofCode_code]
theorem putm (g src list ctl) : Statement (.putm g src list ctl) := of_parse rfl fun _ => by
  simp (disch := omega) only [parse, parseL, Fields.mk', BitVec.reduceToNat, Nat.reduceDiv, Option.bind_eq_bind,
    Option.bind_some, Guard.ofCode_code, Operand.ofCode_code]
theorem get (g dst src ctl) : Statement (.get g dst src ctl) := of_parse rfl fun _ => by
  simp (disch := omega) only [parse, parseL, Fields.mk', BitVec.reduceToNat, Nat.reduceDiv, Option.bind_eq_bind,
    Option.bind_some, Guard.ofCode_code, Operand.ofCode_code]
theorem wcntW (g d h) : Statement (.wcntW g d h) := of_parse rfl fun _ => by
  simp (disch := omega) only [parse, parseL, Fields.mk', BitVec.reduceToNat, Nat.reduceDiv, Option.bind_eq_bind,
    Option.bind_some, Guard.ofCode_code, Operand.ofCode_code, must, if_true, eq_self]
  rfl
theorem wcntDone (g d c) : Statement (.wcntDone g d c) := of_parse rfl fun _ => by
  simp (disch := omega) only [parse, parseL, Fields.mk', BitVec.reduceToNat, Nat.reduceDiv, Option.bind_eq_bind,
    Option.bind_some, Guard.ofCode_code, Operand.ofCode_code, must, if_true, eq_self, low, high, all, zero, bitLow, bitHigh,
    bitAll, bitZero]
  rfl
theorem wcntRef (g d c) : Statement (.wcntRef g d c) := of_parse rfl fun _ => by
  simp (disch := omega) only [parse, parseL, Fields.mk', BitVec.reduceToNat, Nat.reduceDiv, Option.bind_eq_bind,
    Option.bind_some, Guard.ofCode_code, Operand.ofCode_code, must, if_true, eq_self, low, high, all, zero, bitLow, bitHigh,
    bitAll, bitZero]
  rfl
theorem wwaitW (g d h) : Statement (.wwaitW g d h) := of_parse rfl fun _ => by
  simp (disch := omega) only [parse, parseL, Fields.mk', BitVec.reduceToNat, Nat.reduceDiv, Option.bind_eq_bind,
    Option.bind_some, Guard.ofCode_code, Operand.ofCode_code, must, if_true, eq_self]
  rfl
theorem wwaitSnd (g d c) : Statement (.wwaitSnd g d c) := of_parse rfl fun _ => by
  simp (disch := omega) only [parse, parseL, Fields.mk', BitVec.reduceToNat, Nat.reduceDiv, Option.bind_eq_bind,
    Option.bind_some, Guard.ofCode_code, Operand.ofCode_code, must, if_true, eq_self, low, high, all, zero, bitLow, bitHigh,
    bitAll, bitZero]
  rfl
theorem rsend (g m dst size st) : Statement (.rsend g m dst size st) := of_parse rfl fun _ => by
  simp (disch := omega) only [parse, parseL, Fields.mk', BitVec.reduceToNat, Nat.reduceDiv, Option.bind_eq_bind,
    Option.bind_some, Guard.ofCode_code, Operand.ofCode_code, must, if_true, eq_self, low, high, all, zero, bitLow, bitHigh,
    bitAll, bitZero, Sel.ofCode_code]
theorem rwait (g d hdr) : Statement (.rwait g d hdr) := of_parse rfl fun _ => by
  simp (disch := omega) only [parse, parseL, Fields.mk', BitVec.reduceToNat, Nat.reduceDiv, Option.bind_eq_bind,
    Option.bind_some, Guard.ofCode_code, Operand.ofCode_code, must, if_true, eq_self]
theorem radv (g hdr n) : Statement (.radv g hdr n) := of_parse rfl fun _ => by
  simp (disch := omega) only [parse, parseL, Fields.mk', BitVec.reduceToNat, Nat.reduceDiv, Option.bind_eq_bind,
    Option.bind_some, Guard.ofCode_code, Operand.ofCode_code, must, if_true, eq_self]
theorem kvmap (g d key) : Statement (.kvmap g d key) := of_parse rfl fun _ => by
  simp (disch := omega) only [parse, parseM, Fields.mk', BitVec.reduceToNat, Nat.reduceDiv, Option.bind_eq_bind,
    Option.bind_some, Guard.ofCode_code, Operand.ofCode_code, must, if_true, eq_self]
theorem kvalloc (g d a rsv) : Statement (.kvalloc g d a rsv) := of_parse rfl fun _ => by
  simp (disch := omega) only [parse, parseM, Fields.mk', BitVec.reduceToNat, Nat.reduceDiv, Option.bind_eq_bind,
    Option.bind_some, Guard.ofCode_code, Operand.ofCode_code, must, if_true, eq_self, low, high, all, zero, bitLow, bitHigh,
    bitAll, bitZero]
theorem kvfree (g d a) : Statement (.kvfree g d a) := of_parse rfl fun _ => by
  simp (disch := omega) only [parse, parseM, Fields.mk', BitVec.reduceToNat, Nat.reduceDiv, Option.bind_eq_bind,
    Option.bind_some, Guard.ofCode_code, Operand.ofCode_code, must, if_true, eq_self]
theorem kvfork (g d a n) : Statement (.kvfork g d a n) := of_parse rfl fun _ => by
  simp (disch := omega) only [parse, parseM, Fields.mk', BitVec.reduceToNat, Nat.reduceDiv, Option.bind_eq_bind,
    Option.bind_some, Guard.ofCode_code, Operand.ofCode_code]
theorem kvapp (g d key src) : Statement (.kvapp g d key src) := of_parse rfl fun _ => by
  simp (disch := omega) only [parse, parseM, Fields.mk', BitVec.reduceToNat, Nat.reduceDiv, Option.bind_eq_bind,
    Option.bind_some, Guard.ofCode_code, Operand.ofCode_code]
theorem kvcommit (g d a n) : Statement (.kvcommit g d a n) := of_parse rfl fun _ => by
  simp (disch := omega) only [parse, parseM, Fields.mk', BitVec.reduceToNat, Nat.reduceDiv, Option.bind_eq_bind,
    Option.bind_some, Guard.ofCode_code, Operand.ofCode_code]
theorem kvtrim (g d a n) : Statement (.kvtrim g d a n) := of_parse rfl fun _ => by
  simp (disch := omega) only [parse, parseM, Fields.mk', BitVec.reduceToNat, Nat.reduceDiv, Option.bind_eq_bind,
    Option.bind_some, Guard.ofCode_code, Operand.ofCode_code]
theorem attn (g d key desc) : Statement (.attn g d key desc) := of_parse rfl fun _ => by
  simp (disch := omega) only [parse, parseM, Fields.mk', BitVec.reduceToNat, Nat.reduceDiv, Option.bind_eq_bind,
    Option.bind_some, Guard.ofCode_code, Operand.ofCode_code]
theorem attnwait (g q desc) : Statement (.attnwait g q desc) := of_parse rfl fun _ => by
  simp (disch := omega) only [parse, parseM, Fields.mk', BitVec.reduceToNat, Nat.reduceDiv, Option.bind_eq_bind,
    Option.bind_some, Guard.ofCode_code, Operand.ofCode_code, must, if_true, eq_self, low, high, all, zero, bitLow, bitHigh,
    bitAll, bitZero, PredBit.ofCode_code]
theorem grinit (g d a img) : Statement (.grinit g d a img) := of_parse rfl fun _ => by
  simp (disch := omega) only [parse, parseN, Fields.mk', BitVec.reduceToNat, Nat.reduceDiv, Option.bind_eq_bind,
    Option.bind_some, Guard.ofCode_code, Operand.ofCode_code]
theorem grmask (g d seq off) : Statement (.grmask g d seq off) := of_parse rfl fun _ => by
  simp (disch := omega) only [parse, parseN, Fields.mk', BitVec.reduceToNat, Nat.reduceDiv, Option.bind_eq_bind,
    Option.bind_some, Guard.ofCode_code, Operand.ofCode_code]
theorem gradv (g d a q) : Statement (.gradv g d a q) := of_parse rfl fun _ => by
  simp (disch := omega) only [parse, parseN, Fields.mk', BitVec.reduceToNat, Nat.reduceDiv, Option.bind_eq_bind,
    Option.bind_some, Guard.ofCode_code, Operand.ofCode_code, must, if_true, eq_self, low, high, all, zero, bitLow, bitHigh,
    bitAll, bitZero, PredBit.ofCode_code]
theorem grckptSave (g d seq c) : Statement (.grckptSave g d seq c) := of_parse rfl fun _ => by
  simp (disch := omega) only [parse, parseN, Fields.mk', BitVec.reduceToNat, Nat.reduceDiv, Option.bind_eq_bind,
    Option.bind_some, Guard.ofCode_code, Operand.ofCode_code, must, if_true, eq_self, low, high, all, zero, bitLow, bitHigh,
    bitAll, bitZero]
theorem grckptRel (g d seq c) : Statement (.grckptRel g d seq c) := of_parse rfl fun _ => by
  simp (disch := omega) only [parse, parseN, Fields.mk', BitVec.reduceToNat, Nat.reduceDiv, Option.bind_eq_bind,
    Option.bind_some, Guard.ofCode_code, Operand.ofCode_code, must, if_true, eq_self, low, high, all, zero, bitLow, bitHigh,
    bitAll, bitZero]
  rfl
theorem grckptRelall (g d seq) : Statement (.grckptRelall g d seq) := of_parse rfl fun _ => by
  simp (disch := omega) only [parse, parseN, Fields.mk', BitVec.reduceToNat, Nat.reduceDiv, Option.bind_eq_bind,
    Option.bind_some, Guard.ofCode_code, Operand.ofCode_code, must, if_true, eq_self]
  rfl
theorem grroll (g d seq c) : Statement (.grroll g d seq c) := of_parse rfl fun _ => by
  simp (disch := omega) only [parse, parseN, Fields.mk', BitVec.reduceToNat, Nat.reduceDiv, Option.bind_eq_bind,
    Option.bind_some, Guard.ofCode_code, Operand.ofCode_code, must, if_true, eq_self, low, high, all, zero, bitLow, bitHigh,
    bitAll, bitZero]
theorem grfork (g d a) : Statement (.grfork g d a) := of_parse rfl fun _ => by
  simp (disch := omega) only [parse, parseN, Fields.mk', BitVec.reduceToNat, Nat.reduceDiv, Option.bind_eq_bind,
    Option.bind_some, Guard.ofCode_code, Operand.ofCode_code, must, if_true, eq_self]
theorem grstat (g d seq ck) : Statement (.grstat g d seq ck) := of_parse rfl fun _ => by
  simp (disch := omega) only [parse, parseN, Fields.mk', BitVec.reduceToNat, Nat.reduceDiv, Option.bind_eq_bind,
    Option.bind_some, Guard.ofCode_code, Operand.ofCode_code, must, if_true, eq_self, low, high, all, zero, bitLow, bitHigh,
    bitAll, bitZero]
theorem squash (g d a n) : Statement (.squash g d a n) := of_parse rfl fun _ => by
  simp (disch := omega) only [parse, parseN, Fields.mk', BitVec.reduceToNat, Nat.reduceDiv, Option.bind_eq_bind,
    Option.bind_some, Guard.ofCode_code, Operand.ofCode_code]
theorem sqsetTag (g d a) : Statement (.sqsetTag g d a) := of_parse rfl fun _ => by
  simp (disch := omega) only [parse, parseN, Fields.mk', BitVec.reduceToNat, Nat.reduceDiv, Option.bind_eq_bind,
    Option.bind_some, Guard.ofCode_code, Operand.ofCode_code, must, if_true, eq_self, low, high, all, zero, bitLow, bitHigh,
    bitAll, bitZero]
theorem sqsetOff (g d) : Statement (.sqsetOff g d) := of_parse rfl fun _ => by
  simp (disch := omega) only [parse, parseN, Fields.mk', BitVec.reduceToNat, Nat.reduceDiv, Option.bind_eq_bind,
    Option.bind_some, Guard.ofCode_code, Operand.ofCode_code, must, if_true, eq_self, low, high, all, zero, bitLow, bitHigh,
    bitAll, bitZero]
  rfl
theorem sqsetEntry (g d a) : Statement (.sqsetEntry g d a) := of_parse rfl fun _ => by
  simp (disch := omega) only [parse, parseN, Fields.mk', BitVec.reduceToNat, Nat.reduceDiv, Option.bind_eq_bind,
    Option.bind_some, Guard.ofCode_code, Operand.ofCode_code, must, if_true, eq_self, low, high, all, zero, bitLow, bitHigh,
    bitAll, bitZero]
  rfl
theorem sqsetUnreg (g d) : Statement (.sqsetUnreg g d) := of_parse rfl fun _ => by
  simp (disch := omega) only [parse, parseN, Fields.mk', BitVec.reduceToNat, Nat.reduceDiv, Option.bind_eq_bind,
    Option.bind_some, Guard.ofCode_code, Operand.ofCode_code, must, if_true, eq_self, low, high, all, zero, bitLow, bitHigh,
    bitAll, bitZero]
  rfl
theorem rng (g d a b) : Statement (.rng g d a b) := of_parse rfl fun _ => by
  simp (disch := omega) only [parse, parseN, Fields.mk', BitVec.reduceToNat, Nat.reduceDiv, Option.bind_eq_bind,
    Option.bind_some, Guard.ofCode_code, Operand.ofCode_code]
theorem launch (g d a) : Statement (.launch g d a) := of_parse rfl fun _ => by
  simp (disch := omega) only [parse, parseO, Fields.mk', BitVec.reduceToNat, Nat.reduceDiv, Option.bind_eq_bind,
    Option.bind_some, Guard.ofCode_code, Operand.ofCode_code, must, if_true, eq_self]
theorem ldepAdd (g d a) : Statement (.ldepAdd g d a) := of_parse rfl fun _ => by
  simp (disch := omega) only [parse, parseO, Fields.mk', BitVec.reduceToNat, Nat.reduceDiv, Option.bind_eq_bind,
    Option.bind_some, Guard.ofCode_code, Operand.ofCode_code, must, if_true, eq_self]
  rfl
theorem ldepGo (g d) : Statement (.ldepGo g d) := of_parse rfl fun _ => by
  simp (disch := omega) only [parse, parseO, Fields.mk', BitVec.reduceToNat, Nat.reduceDiv, Option.bind_eq_bind,
    Option.bind_some, Guard.ofCode_code, Operand.ofCode_code, must, if_true, eq_self]
  rfl
theorem lquery (g d h) : Statement (.lquery g d h) := of_parse rfl fun _ => by
  simp (disch := omega) only [parse, parseO, Fields.mk', BitVec.reduceToNat, Nat.reduceDiv, Option.bind_eq_bind,
    Option.bind_some, Guard.ofCode_code, Operand.ofCode_code, must, if_true, eq_self]
theorem seqadm (g d a) : Statement (.seqadm g d a) := of_parse rfl fun _ => by
  simp (disch := omega) only [parse, parseO, Fields.mk', BitVec.reduceToNat, Nat.reduceDiv, Option.bind_eq_bind,
    Option.bind_some, Guard.ofCode_code, Operand.ofCode_code, must, if_true, eq_self]
theorem seqret (g d seq) : Statement (.seqret g d seq) := of_parse rfl fun _ => by
  simp (disch := omega) only [parse, parseO, Fields.mk', BitVec.reduceToNat, Nat.reduceDiv, Option.bind_eq_bind,
    Option.bind_some, Guard.ofCode_code, Operand.ofCode_code, must, if_true, eq_self]
theorem seqinfo (g d a q) : Statement (.seqinfo g d a q) := of_parse rfl fun _ => by
  simp (disch := omega) only [parse, parseO, Fields.mk', BitVec.reduceToNat, Nat.reduceDiv, Option.bind_eq_bind,
    Option.bind_some, Guard.ofCode_code, Operand.ofCode_code, must, if_true, eq_self, low, high, all, zero, bitLow, bitHigh,
    bitAll, bitZero, SeqQuery.ofCode_code]
theorem trap (g code) : Statement (.trap g code) := of_parse rfl fun _ => by
  simp (disch := omega) only [parse, parseP, Fields.mk', BitVec.reduceToNat, Nat.reduceDiv, Option.bind_eq_bind,
    Option.bind_some, Guard.ofCode_code, must, if_true, eq_self]
theorem tret (g) : Statement (.tret g) := of_parse rfl fun _ => by
  simp (disch := omega) only [parse, parseP, Fields.mk', BitVec.reduceToNat, Nat.reduceDiv, Option.bind_eq_bind,
    Option.bind_some, Guard.ofCode_code, must, if_true, eq_self]
theorem tretSkip (g) : Statement (.tretSkip g) := of_parse rfl fun _ => by
  simp (disch := omega) only [parse, parseP, Fields.mk', BitVec.reduceToNat, Nat.reduceDiv, Option.bind_eq_bind,
    Option.bind_some, Guard.ofCode_code, must, if_true, eq_self]
  rfl
theorem sysrd (g d r) : Statement (.sysrd g d r) := of_parse rfl fun _ => by
  simp (disch := omega) only [parse, parseP, Fields.mk', BitVec.reduceToNat, Nat.reduceDiv, Option.bind_eq_bind,
    Option.bind_some, Guard.ofCode_code, Operand.ofCode_code, must, if_true, eq_self, low, high, all, zero, bitLow, bitHigh,
    bitAll, bitZero]
theorem syswr (g a r) : Statement (.syswr g a r) := of_parse rfl fun _ => by
  simp (disch := omega) only [parse, parseP, Fields.mk', BitVec.reduceToNat, Nat.reduceDiv, Option.bind_eq_bind,
    Option.bind_some, Guard.ofCode_code, Operand.ofCode_code, must, if_true, eq_self, low, high, all, zero, bitLow, bitHigh,
    bitAll, bitZero]
theorem bkpt (g code) : Statement (.bkpt g code) := of_parse rfl fun _ => by
  simp (disch := omega) only [parse, parseP, Fields.mk', BitVec.reduceToNat, Nat.reduceDiv, Option.bind_eq_bind,
    Option.bind_some, Guard.ofCode_code, must, if_true, eq_self]
theorem hcall (g d a svc) : Statement (.hcall g d a svc) := of_parse rfl fun _ => by
  simp (disch := omega) only [parse, parseP, Fields.mk', BitVec.reduceToNat, Nat.reduceDiv, Option.bind_eq_bind,
    Option.bind_some, Guard.ofCode_code, Operand.ofCode_code, must, if_true, eq_self, low, high, all, zero, bitLow, bitHigh,
    bitAll, bitZero]
theorem xinv (g len a off) : Statement (.xinv g len a off) := of_parse rfl fun _ => by
  simp (disch := omega) only [parse, parseP, Fields.mk', BitVec.reduceToNat, Nat.reduceDiv, Option.bind_eq_bind,
    Option.bind_some, Guard.ofCode_code, Operand.ofCode_code, must, if_true, eq_self, low, high, all, zero, bitLow, bitHigh,
    bitAll, bitZero]
  rfl
theorem xinvAll (g) : Statement (.xinvAll g) := of_parse rfl fun _ => by
  simp (disch := omega) only [parse, parseP, Fields.mk', BitVec.reduceToNat, Nat.reduceDiv, Option.bind_eq_bind,
    Option.bind_some, Guard.ofCode_code, must, if_true, eq_self, low, high, all, zero, bitLow, bitHigh, bitAll, bitZero]
theorem fmodeSet (g v) : Statement (.fmodeSet g v) := of_parse rfl fun _ => by
  simp (disch := omega) only [parse, parseP, Fields.mk', BitVec.reduceToNat, Nat.reduceDiv, Option.bind_eq_bind,
    Option.bind_some, Guard.ofCode_code, must, if_true, eq_self, low, high, all, zero, bitLow, bitHigh, bitAll, bitZero]
theorem fmodeClr (g v) : Statement (.fmodeClr g v) := of_parse rfl fun _ => by
  simp (disch := omega) only [parse, parseP, Fields.mk', BitVec.reduceToNat, Nat.reduceDiv, Option.bind_eq_bind,
    Option.bind_some, Guard.ofCode_code, must, if_true, eq_self, low, high, all, zero, bitLow, bitHigh, bitAll, bitZero]
  rfl
theorem fmodeWr (g v) : Statement (.fmodeWr g v) := of_parse rfl fun _ => by
  simp (disch := omega) only [parse, parseP, Fields.mk', BitVec.reduceToNat, Nat.reduceDiv, Option.bind_eq_bind,
    Option.bind_some, Guard.ofCode_code, must, if_true, eq_self, low, high, all, zero, bitLow, bitHigh, bitAll, bitZero]
  rfl
theorem yieldDelayEnd (t) : Statement (.yieldDelayEnd t) := of_event rfl
theorem crossLaneComplete (grp addr) : Statement (.crossLaneComplete grp addr) := of_event rfl
theorem sliceWriteComplete (t id) : Statement (.sliceWriteComplete t id) := of_event rfl
theorem loadDataReturn (id) : Statement (.loadDataReturn id) := of_event rfl
theorem storePerformed (id) : Statement (.storePerformed id) := of_event rfl
theorem strongAccessPerformed (id) : Statement (.strongAccessPerformed id) := of_event rfl
theorem waitvReread (t) : Statement (.waitvReread t) := of_event rfl
theorem icacheFill (core asid line) : Statement (.icacheFill core asid line) := of_event rfl
theorem faultBufferRetry (id) : Statement (.faultBufferRetry id) := of_event rfl
theorem barrierEpisodeComplete (cluster owner n) : Statement (.barrierEpisodeComplete cluster owner n) := of_event rfl
theorem teamPhaseArrival (team) : Statement (.teamPhaseArrival team) := of_event rfl
theorem phaseBoundaryComplete (grid) : Statement (.phaseBoundaryComplete grid) := of_event rfl
theorem squashEventTaken (t) : Statement (.squashEventTaken t) := of_event rfl
theorem copyEngineStart (id) : Statement (.copyEngineStart id) := of_event rfl
theorem copyRegionComplete (id) : Statement (.copyRegionComplete id) := of_event rfl
theorem copyPoisonEnd (id) : Statement (.copyPoisonEnd id) := of_event rfl
theorem pdropComplete (id) : Statement (.pdropComplete id) := of_event rfl
theorem matrixPass (unit) : Statement (.matrixPass unit) := of_event rfl
theorem wbloadComplete (id) : Statement (.wbloadComplete id) := of_event rfl
theorem drainComplete (id) : Statement (.drainComplete id) := of_event rfl
theorem windowFree (idx) : Statement (.windowFree idx) := of_event rfl
theorem arrivalAccept (id) : Statement (.arrivalAccept id) := of_event rfl
theorem arrivalLand (id) : Statement (.arrivalLand id) := of_event rfl
theorem transferComplete (id) : Statement (.transferComplete id) := of_event rfl
theorem transferRefused (id) : Statement (.transferRefused id) := of_event rfl
theorem attnComplete (id) : Statement (.attnComplete id) := of_event rfl
theorem sequenceRequestComplete (id) : Statement (.sequenceRequestComplete id) := of_event rfl
theorem walkerRequestStart (id) : Statement (.walkerRequestStart id) := of_event rfl
theorem strikeDeadline (e) : Statement (.strikeDeadline e) := of_event rfl
theorem kvPageRestore (page) : Statement (.kvPageRestore page) := of_event rfl
theorem kvsqcmdConfirm (e) : Statement (.kvsqcmdConfirm e) := of_event rfl
theorem kvsqcmdVeto (e) : Statement (.kvsqcmdVeto e) := of_event rfl
theorem hostQueueConsume (q) : Statement (.hostQueueConsume q) := of_event rfl
theorem launchReady (grid) : Statement (.launchReady grid) := of_event rfl
theorem placeageExpiry (grid) : Statement (.placeageExpiry grid) := of_event rfl
theorem placeevictExpiry (grid) : Statement (.placeevictExpiry grid) := of_event rfl
theorem launchComplete (grid) : Statement (.launchComplete grid) := of_event rfl
theorem gridFatalTrap (grid) : Statement (.gridFatalTrap grid) := of_event rfl
theorem swapDecision (team) : Statement (.swapDecision team) := of_event rfl
theorem swapOut (cluster) : Statement (.swapOut cluster) := of_event rfl
theorem swapIn (cluster) : Statement (.swapIn cluster) := of_event rfl
theorem swapwaitExpiry (id) : Statement (.swapwaitExpiry id) := of_event rfl
theorem linkBlockReceive (port header payload tag) : Statement (.linkBlockReceive port header payload tag) := of_event rfl
theorem hcallAnswer (id) : Statement (.hcallAnswer id) := of_event rfl
theorem kvsqcmdFront (e) : Statement (.kvsqcmdFront e) := of_event rfl
theorem kvsqcmdSetH (e h) : Statement (.kvsqcmdSetH e h) := of_event rfl
theorem hqtailWrite (q v) : Statement (.hqtailWrite q v) := of_event rfl
theorem schedcmdAbort (handle) : Statement (.schedcmdAbort handle) := of_event rfl
theorem schedcmdSuspend (handle) : Statement (.schedcmdSuspend handle) := of_event rfl
theorem schedcmdResume (handle) : Statement (.schedcmdResume handle) := of_event rfl
theorem attcmd (v) : Statement (.attcmd v) := of_event rfl
theorem xlcmdRoot (v) : Statement (.xlcmdRoot v) := of_event rfl
theorem xlcmdInval (v) : Statement (.xlcmdInval v) := of_event rfl
theorem xlcmdResolve (v) : Statement (.xlcmdResolve v) := of_event rfl
theorem xlcmdFail (v) : Statement (.xlcmdFail v) := of_event rfl
theorem keycmdInstallSend (v) : Statement (.keycmdInstallSend v) := of_event rfl
theorem keycmdInstallReceive (v) : Statement (.keycmdInstallReceive v) := of_event rfl
theorem keycmdRetire (v) : Statement (.keycmdRetire v) := of_event rfl
theorem srdataAccess (write v) : Statement (.srdataAccess write v) := of_event rfl
theorem ctxfree (v) : Statement (.ctxfree v) := of_event rfl
theorem registerWrite (off v) : Statement (.registerWrite off v) := of_event rfl
theorem bar2Access (write off bytes) : Statement (.bar2Access write off bytes) := of_event rfl
theorem softError (space owner unit) : Statement (.softError space owner unit) := of_event rfl
theorem ualinkPortStateChange (port up) : Statement (.ualinkPortStateChange port up) := of_event rfl
theorem dieThrottle (d) : Statement (.dieThrottle d) := of_event rfl
theorem dieThrottleEnd (d) : Statement (.dieThrottleEnd d) := of_event rfl
theorem clockChange (d clk) : Statement (.clockChange d clk) := of_event rfl
theorem endloop : Statement (.endloop) := of_parse rfl fun _ => by
  simp (disch := omega) only [parse, parseA, Fields.mk', BitVec.reduceToNat, Nat.reduceDiv, Option.bind_eq_bind,
    Option.bind_some, must, if_true, eq_self]
theorem phase : Statement (.phase) := of_parse rfl fun _ => by
  simp (disch := omega) only [parse, parseH, Fields.mk', BitVec.reduceToNat, Nat.reduceDiv, Option.bind_eq_bind,
    Option.bind_some, must, if_true, eq_self]
theorem phasea : Statement (.phasea) := of_parse rfl fun _ => by
  simp (disch := omega) only [parse, parseH, Fields.mk', BitVec.reduceToNat, Nat.reduceDiv, Option.bind_eq_bind,
    Option.bind_some, must, if_true, eq_self]
theorem phasew : Statement (.phasew) := of_parse rfl fun _ => by
  simp (disch := omega) only [parse, parseH, Fields.mk', BitVec.reduceToNat, Nat.reduceDiv, Option.bind_eq_bind,
    Option.bind_some, must, if_true, eq_self]
theorem trapDecision : Statement (.trapDecision) := of_event rfl
theorem strikePropose : Statement (.strikePropose) := of_event rfl
theorem strikeActionRun : Statement (.strikeActionRun) := of_event rfl
theorem teamPlace : Statement (.teamPlace) := of_event rfl
theorem priorityRecompute : Statement (.priorityRecompute) := of_event rfl
theorem moduleReset : Statement (.moduleReset) := of_event rfl
theorem bootstatRetry : Statement (.bootstatRetry) := of_event rfl
theorem attestReportDone : Statement (.attestReportDone) := of_event rfl
theorem xlcmdCommandDone : Statement (.xlcmdCommandDone) := of_event rfl
theorem thermalShutdown : Statement (.thermalShutdown) := of_event rfl

end RoundTrip
end Laws
end Sys2Proof
end

