-- ==== Sys2Proof/Laws/State.lean ====
section
/-! SUPPORT. Each field of the state after each of the named updates of it. -/

namespace Sys2Proof
namespace Machine

/-! ## `State.onThread` -/

section
variable (s : State) (k : Nat) (f : Thread → Thread)

@[simp] theorem State.onThread_threads : (s.onThread k f).threads = s.threads.modify k f := rfl
@[simp] theorem State.onThread_groups : (s.onThread k f).groups = s.groups := rfl
@[simp] theorem State.onThread_teams : (s.onThread k f).teams = s.teams := rfl
@[simp] theorem State.onThread_clusters : (s.onThread k f).clusters = s.clusters := rfl
@[simp] theorem State.onThread_grids : (s.onThread k f).grids = s.grids := rfl
@[simp] theorem State.onThread_remap : (s.onThread k f).remap = s.remap := rfl
@[simp] theorem State.onThread_hbm : (s.onThread k f).hbm = s.hbm := rfl
@[simp] theorem State.onThread_chip : (s.onThread k f).chip = s.chip := rfl
@[simp] theorem State.onThread_chipTags : (s.onThread k f).chipTags = s.chipTags := rfl
@[simp] theorem State.onThread_host : (s.onThread k f).host = s.host := rfl
@[simp] theorem State.onThread_accs : (s.onThread k f).accs = s.accs := rfl
@[simp] theorem State.onThread_locks : (s.onThread k f).locks = s.locks := rfl
@[simp] theorem State.onThread_recs : (s.onThread k f).recs = s.recs := rfl
@[simp] theorem State.onThread_ops : (s.onThread k f).ops = s.ops := rfl
@[simp] theorem State.onThread_mxus : (s.onThread k f).mxus = s.mxus := rfl
@[simp] theorem State.onThread_lines : (s.onThread k f).lines = s.lines := rfl
@[simp] theorem State.onThread_l1 : (s.onThread k f).l1 = s.l1 := rfl
@[simp] theorem State.onThread_ptes : (s.onThread k f).ptes = s.ptes := rfl
@[simp] theorem State.onThread_maps : (s.onThread k f).maps = s.maps := rfl
@[simp] theorem State.onThread_roots : (s.onThread k f).roots = s.roots := rfl
@[simp] theorem State.onThread_fbuf : (s.onThread k f).fbuf = s.fbuf := rfl
@[simp] theorem State.onThread_icache : (s.onThread k f).icache = s.icache := rfl
@[simp] theorem State.onThread_ireqs : (s.onThread k f).ireqs = s.ireqs := rfl
@[simp] theorem State.onThread_replays : (s.onThread k f).replays = s.replays := rfl
@[simp] theorem State.onThread_deques : (s.onThread k f).deques = s.deques := rfl
@[simp] theorem State.onThread_wins : (s.onThread k f).wins = s.wins := rfl
@[simp] theorem State.onThread_winNext : (s.onThread k f).winNext = s.winNext := rfl
@[simp] theorem State.onThread_winFreed : (s.onThread k f).winFreed = s.winFreed := rfl
@[simp] theorem State.onThread_arrs : (s.onThread k f).arrs = s.arrs := rfl
@[simp] theorem State.onThread_ports : (s.onThread k f).ports = s.ports := rfl
@[simp] theorem State.onThread_wire : (s.onThread k f).wire = s.wire := rfl
@[simp] theorem State.onThread_rings : (s.onThread k f).rings = s.rings := rfl
@[simp] theorem State.onThread_accid : (s.onThread k f).accid = s.accid := rfl
@[simp] theorem State.onThread_aregs : (s.onThread k f).aregs = s.aregs := rfl
@[simp] theorem State.onThread_seqs : (s.onThread k f).seqs = s.seqs := rfl
@[simp] theorem State.onThread_gnodes : (s.onThread k f).gnodes = s.gnodes := rfl
@[simp] theorem State.onThread_kvOff : (s.onThread k f).kvOff = s.kvOff := rfl
@[simp] theorem State.onThread_kvTotal : (s.onThread k f).kvTotal = s.kvTotal := rfl
@[simp] theorem State.onThread_reqs : (s.onThread k f).reqs = s.reqs := rfl
@[simp] theorem State.onThread_strikes : (s.onThread k f).strikes = s.strikes := rfl
@[simp] theorem State.onThread_mregs : (s.onThread k f).mregs = s.mregs := rfl
@[simp] theorem State.onThread_evlog : (s.onThread k f).evlog = s.evlog := rfl
@[simp] theorem State.onThread_elcnt : (s.onThread k f).elcnt = s.elcnt := rfl
@[simp] theorem State.onThread_elack : (s.onThread k f).elack = s.elack := rfl
@[simp] theorem State.onThread_ellost : (s.onThread k f).ellost = s.ellost := rfl
@[simp] theorem State.onThread_pzMet : (s.onThread k f).pzMet = s.pzMet := rfl
@[simp] theorem State.onThread_pzLogged : (s.onThread k f).pzLogged = s.pzLogged := rfl
@[simp] theorem State.onThread_vectors : (s.onThread k f).vectors = s.vectors := rfl
@[simp] theorem State.onThread_hqs : (s.onThread k f).hqs = s.hqs := rfl
@[simp] theorem State.onThread_ltab : (s.onThread k f).ltab = s.ltab := rfl
@[simp] theorem State.onThread_lNext : (s.onThread k f).lNext = s.lNext := rfl
@[simp] theorem State.onThread_lFreed : (s.onThread k f).lFreed = s.lFreed := rfl
@[simp] theorem State.onThread_hcalls : (s.onThread k f).hcalls = s.hcalls := rfl
@[simp] theorem State.onThread_ctxs : (s.onThread k f).ctxs = s.ctxs := rfl
@[simp] theorem State.onThread_areas : (s.onThread k f).areas = s.areas := rfl
@[simp] theorem State.onThread_regs : (s.onThread k f).regs = s.regs := rfl
@[simp] theorem State.onThread_hostData : (s.onThread k f).hostData = s.hostData := rfl
@[simp] theorem State.onThread_flash : (s.onThread k f).flash = s.flash := rfl
@[simp] theorem State.onThread_resizes : (s.onThread k f).resizes = s.resizes := rfl
@[simp] theorem State.onThread_runs : (s.onThread k f).runs = s.runs := rfl
@[simp] theorem State.onThread_slotLast : (s.onThread k f).slotLast = s.slotLast := rfl
@[simp] theorem State.onThread_issue : (s.onThread k f).issue = s.issue := rfl
@[simp] theorem State.onThread_decs : (s.onThread k f).decs = s.decs := rfl
@[simp] theorem State.onThread_tick : (s.onThread k f).tick = s.tick := rfl
@[simp] theorem State.onThread_nextId : (s.onThread k f).nextId = s.nextId := rfl
@[simp] theorem State.onThread_inputs : (s.onThread k f).inputs = s.inputs := rfl

end

/-! ## `State.onGroup` -/

section
variable (s : State) (k : Nat) (f : Group → Group)

@[simp] theorem State.onGroup_threads : (s.onGroup k f).threads = s.threads := rfl
@[simp] theorem State.onGroup_groups : (s.onGroup k f).groups = s.groups.modify k f := rfl
@[simp] theorem State.onGroup_teams : (s.onGroup k f).teams = s.teams := rfl
@[simp] theorem State.onGroup_clusters : (s.onGroup k f).clusters = s.clusters := rfl
@[simp] theorem State.onGroup_grids : (s.onGroup k f).grids = s.grids := rfl
@[simp] theorem State.onGroup_remap : (s.onGroup k f).remap = s.remap := rfl
@[simp] theorem State.onGroup_hbm : (s.onGroup k f).hbm = s.hbm := rfl
@[simp] theorem State.onGroup_chip : (s.onGroup k f).chip = s.chip := rfl
@[simp] theorem State.onGroup_chipTags : (s.onGroup k f).chipTags = s.chipTags := rfl
@[simp] theorem State.onGroup_host : (s.onGroup k f).host = s.host := rfl
@[simp] theorem State.onGroup_accs : (s.onGroup k f).accs = s.accs := rfl
@[simp] theorem State.onGroup_locks : (s.onGroup k f).locks = s.locks := rfl
@[simp] theorem State.onGroup_recs : (s.onGroup k f).recs = s.recs := rfl
@[simp] theorem State.onGroup_ops : (s.onGroup k f).ops = s.ops := rfl
@[simp] theorem State.onGroup_mxus : (s.onGroup k f).mxus = s.mxus := rfl
@[simp] theorem State.onGroup_lines : (s.onGroup k f).lines = s.lines := rfl
@[simp] theorem State.onGroup_l1 : (s.onGroup k f).l1 = s.l1 := rfl
@[simp] theorem State.onGroup_ptes : (s.onGroup k f).ptes = s.ptes := rfl
@[simp] theorem State.onGroup_maps : (s.onGroup k f).maps = s.maps := rfl
@[simp] theorem State.onGroup_roots : (s.onGroup k f).roots = s.roots := rfl
@[simp] theorem State.onGroup_fbuf : (s.onGroup k f).fbuf = s.fbuf := rfl
@[simp] theorem State.onGroup_icache : (s.onGroup k f).icache = s.icache := rfl
@[simp] theorem State.onGroup_ireqs : (s.onGroup k f).ireqs = s.ireqs := rfl
@[simp] theorem State.onGroup_replays : (s.onGroup k f).replays = s.replays := rfl
@[simp] theorem State.onGroup_deques : (s.onGroup k f).deques = s.deques := rfl
@[simp] theorem State.onGroup_wins : (s.onGroup k f).wins = s.wins := rfl
@[simp] theorem State.onGroup_winNext : (s.onGroup k f).winNext = s.winNext := rfl
@[simp] theorem State.onGroup_winFreed : (s.onGroup k f).winFreed = s.winFreed := rfl
@[simp] theorem State.onGroup_arrs : (s.onGroup k f).arrs = s.arrs := rfl
@[simp] theorem State.onGroup_ports : (s.onGroup k f).ports = s.ports := rfl
@[simp] theorem State.onGroup_wire : (s.onGroup k f).wire = s.wire := rfl
@[simp] theorem State.onGroup_rings : (s.onGroup k f).rings = s.rings := rfl
@[simp] theorem State.onGroup_accid : (s.onGroup k f).accid = s.accid := rfl
@[simp] theorem State.onGroup_aregs : (s.onGroup k f).aregs = s.aregs := rfl
@[simp] theorem State.onGroup_seqs : (s.onGroup k f).seqs = s.seqs := rfl
@[simp] theorem State.onGroup_gnodes : (s.onGroup k f).gnodes = s.gnodes := rfl
@[simp] theorem State.onGroup_kvOff : (s.onGroup k f).kvOff = s.kvOff := rfl
@[simp] theorem State.onGroup_kvTotal : (s.onGroup k f).kvTotal = s.kvTotal := rfl
@[simp] theorem State.onGroup_reqs : (s.onGroup k f).reqs = s.reqs := rfl
@[simp] theorem State.onGroup_strikes : (s.onGroup k f).strikes = s.strikes := rfl
@[simp] theorem State.onGroup_mregs : (s.onGroup k f).mregs = s.mregs := rfl
@[simp] theorem State.onGroup_evlog : (s.onGroup k f).evlog = s.evlog := rfl
@[simp] theorem State.onGroup_elcnt : (s.onGroup k f).elcnt = s.elcnt := rfl
@[simp] theorem State.onGroup_elack : (s.onGroup k f).elack = s.elack := rfl
@[simp] theorem State.onGroup_ellost : (s.onGroup k f).ellost = s.ellost := rfl
@[simp] theorem State.onGroup_pzMet : (s.onGroup k f).pzMet = s.pzMet := rfl
@[simp] theorem State.onGroup_pzLogged : (s.onGroup k f).pzLogged = s.pzLogged := rfl
@[simp] theorem State.onGroup_vectors : (s.onGroup k f).vectors = s.vectors := rfl
@[simp] theorem State.onGroup_hqs : (s.onGroup k f).hqs = s.hqs := rfl
@[simp] theorem State.onGroup_ltab : (s.onGroup k f).ltab = s.ltab := rfl
@[simp] theorem State.onGroup_lNext : (s.onGroup k f).lNext = s.lNext := rfl
@[simp] theorem State.onGroup_lFreed : (s.onGroup k f).lFreed = s.lFreed := rfl
@[simp] theorem State.onGroup_hcalls : (s.onGroup k f).hcalls = s.hcalls := rfl
@[simp] theorem State.onGroup_ctxs : (s.onGroup k f).ctxs = s.ctxs := rfl
@[simp] theorem State.onGroup_areas : (s.onGroup k f).areas = s.areas := rfl
@[simp] theorem State.onGroup_regs : (s.onGroup k f).regs = s.regs := rfl
@[simp] theorem State.onGroup_hostData : (s.onGroup k f).hostData = s.hostData := rfl
@[simp] theorem State.onGroup_flash : (s.onGroup k f).flash = s.flash := rfl
@[simp] theorem State.onGroup_resizes : (s.onGroup k f).resizes = s.resizes := rfl
@[simp] theorem State.onGroup_runs : (s.onGroup k f).runs = s.runs := rfl
@[simp] theorem State.onGroup_slotLast : (s.onGroup k f).slotLast = s.slotLast := rfl
@[simp] theorem State.onGroup_issue : (s.onGroup k f).issue = s.issue := rfl
@[simp] theorem State.onGroup_decs : (s.onGroup k f).decs = s.decs := rfl
@[simp] theorem State.onGroup_tick : (s.onGroup k f).tick = s.tick := rfl
@[simp] theorem State.onGroup_nextId : (s.onGroup k f).nextId = s.nextId := rfl
@[simp] theorem State.onGroup_inputs : (s.onGroup k f).inputs = s.inputs := rfl

end

/-! ## `State.onTeam` -/

section
variable (s : State) (k : Nat) (f : Team → Team)

@[simp] theorem State.onTeam_threads : (s.onTeam k f).threads = s.threads := rfl
@[simp] theorem State.onTeam_groups : (s.onTeam k f).groups = s.groups := rfl
@[simp] theorem State.onTeam_teams : (s.onTeam k f).teams = s.teams.modify k f := rfl
@[simp] theorem State.onTeam_clusters : (s.onTeam k f).clusters = s.clusters := rfl
@[simp] theorem State.onTeam_grids : (s.onTeam k f).grids = s.grids := rfl
@[simp] theorem State.onTeam_remap : (s.onTeam k f).remap = s.remap := rfl
@[simp] theorem State.onTeam_hbm : (s.onTeam k f).hbm = s.hbm := rfl
@[simp] theorem State.onTeam_chip : (s.onTeam k f).chip = s.chip := rfl
@[simp] theorem State.onTeam_chipTags : (s.onTeam k f).chipTags = s.chipTags := rfl
@[simp] theorem State.onTeam_host : (s.onTeam k f).host = s.host := rfl
@[simp] theorem State.onTeam_accs : (s.onTeam k f).accs = s.accs := rfl
@[simp] theorem State.onTeam_locks : (s.onTeam k f).locks = s.locks := rfl
@[simp] theorem State.onTeam_recs : (s.onTeam k f).recs = s.recs := rfl
@[simp] theorem State.onTeam_ops : (s.onTeam k f).ops = s.ops := rfl
@[simp] theorem State.onTeam_mxus : (s.onTeam k f).mxus = s.mxus := rfl
@[simp] theorem State.onTeam_lines : (s.onTeam k f).lines = s.lines := rfl
@[simp] theorem State.onTeam_l1 : (s.onTeam k f).l1 = s.l1 := rfl
@[simp] theorem State.onTeam_ptes : (s.onTeam k f).ptes = s.ptes := rfl
@[simp] theorem State.onTeam_maps : (s.onTeam k f).maps = s.maps := rfl
@[simp] theorem State.onTeam_roots : (s.onTeam k f).roots = s.roots := rfl
@[simp] theorem State.onTeam_fbuf : (s.onTeam k f).fbuf = s.fbuf := rfl
@[simp] theorem State.onTeam_icache : (s.onTeam k f).icache = s.icache := rfl
@[simp] theorem State.onTeam_ireqs : (s.onTeam k f).ireqs = s.ireqs := rfl
@[simp] theorem State.onTeam_replays : (s.onTeam k f).replays = s.replays := rfl
@[simp] theorem State.onTeam_deques : (s.onTeam k f).deques = s.deques := rfl
@[simp] theorem State.onTeam_wins : (s.onTeam k f).wins = s.wins := rfl
@[simp] theorem State.onTeam_winNext : (s.onTeam k f).winNext = s.winNext := rfl
@[simp] theorem State.onTeam_winFreed : (s.onTeam k f).winFreed = s.winFreed := rfl
@[simp] theorem State.onTeam_arrs : (s.onTeam k f).arrs = s.arrs := rfl
@[simp] theorem State.onTeam_ports : (s.onTeam k f).ports = s.ports := rfl
@[simp] theorem State.onTeam_wire : (s.onTeam k f).wire = s.wire := rfl
@[simp] theorem State.onTeam_rings : (s.onTeam k f).rings = s.rings := rfl
@[simp] theorem State.onTeam_accid : (s.onTeam k f).accid = s.accid := rfl
@[simp] theorem State.onTeam_aregs : (s.onTeam k f).aregs = s.aregs := rfl
@[simp] theorem State.onTeam_seqs : (s.onTeam k f).seqs = s.seqs := rfl
@[simp] theorem State.onTeam_gnodes : (s.onTeam k f).gnodes = s.gnodes := rfl
@[simp] theorem State.onTeam_kvOff : (s.onTeam k f).kvOff = s.kvOff := rfl
@[simp] theorem State.onTeam_kvTotal : (s.onTeam k f).kvTotal = s.kvTotal := rfl
@[simp] theorem State.onTeam_reqs : (s.onTeam k f).reqs = s.reqs := rfl
@[simp] theorem State.onTeam_strikes : (s.onTeam k f).strikes = s.strikes := rfl
@[simp] theorem State.onTeam_mregs : (s.onTeam k f).mregs = s.mregs := rfl
@[simp] theorem State.onTeam_evlog : (s.onTeam k f).evlog = s.evlog := rfl
@[simp] theorem State.onTeam_elcnt : (s.onTeam k f).elcnt = s.elcnt := rfl
@[simp] theorem State.onTeam_elack : (s.onTeam k f).elack = s.elack := rfl
@[simp] theorem State.onTeam_ellost : (s.onTeam k f).ellost = s.ellost := rfl
@[simp] theorem State.onTeam_pzMet : (s.onTeam k f).pzMet = s.pzMet := rfl
@[simp] theorem State.onTeam_pzLogged : (s.onTeam k f).pzLogged = s.pzLogged := rfl
@[simp] theorem State.onTeam_vectors : (s.onTeam k f).vectors = s.vectors := rfl
@[simp] theorem State.onTeam_hqs : (s.onTeam k f).hqs = s.hqs := rfl
@[simp] theorem State.onTeam_ltab : (s.onTeam k f).ltab = s.ltab := rfl
@[simp] theorem State.onTeam_lNext : (s.onTeam k f).lNext = s.lNext := rfl
@[simp] theorem State.onTeam_lFreed : (s.onTeam k f).lFreed = s.lFreed := rfl
@[simp] theorem State.onTeam_hcalls : (s.onTeam k f).hcalls = s.hcalls := rfl
@[simp] theorem State.onTeam_ctxs : (s.onTeam k f).ctxs = s.ctxs := rfl
@[simp] theorem State.onTeam_areas : (s.onTeam k f).areas = s.areas := rfl
@[simp] theorem State.onTeam_regs : (s.onTeam k f).regs = s.regs := rfl
@[simp] theorem State.onTeam_hostData : (s.onTeam k f).hostData = s.hostData := rfl
@[simp] theorem State.onTeam_flash : (s.onTeam k f).flash = s.flash := rfl
@[simp] theorem State.onTeam_resizes : (s.onTeam k f).resizes = s.resizes := rfl
@[simp] theorem State.onTeam_runs : (s.onTeam k f).runs = s.runs := rfl
@[simp] theorem State.onTeam_slotLast : (s.onTeam k f).slotLast = s.slotLast := rfl
@[simp] theorem State.onTeam_issue : (s.onTeam k f).issue = s.issue := rfl
@[simp] theorem State.onTeam_decs : (s.onTeam k f).decs = s.decs := rfl
@[simp] theorem State.onTeam_tick : (s.onTeam k f).tick = s.tick := rfl
@[simp] theorem State.onTeam_nextId : (s.onTeam k f).nextId = s.nextId := rfl
@[simp] theorem State.onTeam_inputs : (s.onTeam k f).inputs = s.inputs := rfl

end

/-! ## `State.onCluster` -/

section
variable (s : State) (k : Nat) (f : Cluster → Cluster)

@[simp] theorem State.onCluster_threads : (s.onCluster k f).threads = s.threads := rfl
@[simp] theorem State.onCluster_groups : (s.onCluster k f).groups = s.groups := rfl
@[simp] theorem State.onCluster_teams : (s.onCluster k f).teams = s.teams := rfl
@[simp] theorem State.onCluster_clusters : (s.onCluster k f).clusters = s.clusters.modify k f := rfl
@[simp] theorem State.onCluster_grids : (s.onCluster k f).grids = s.grids := rfl
@[simp] theorem State.onCluster_remap : (s.onCluster k f).remap = s.remap := rfl
@[simp] theorem State.onCluster_hbm : (s.onCluster k f).hbm = s.hbm := rfl
@[simp] theorem State.onCluster_chip : (s.onCluster k f).chip = s.chip := rfl
@[simp] theorem State.onCluster_chipTags : (s.onCluster k f).chipTags = s.chipTags := rfl
@[simp] theorem State.onCluster_host : (s.onCluster k f).host = s.host := rfl
@[simp] theorem State.onCluster_accs : (s.onCluster k f).accs = s.accs := rfl
@[simp] theorem State.onCluster_locks : (s.onCluster k f).locks = s.locks := rfl
@[simp] theorem State.onCluster_recs : (s.onCluster k f).recs = s.recs := rfl
@[simp] theorem State.onCluster_ops : (s.onCluster k f).ops = s.ops := rfl
@[simp] theorem State.onCluster_mxus : (s.onCluster k f).mxus = s.mxus := rfl
@[simp] theorem State.onCluster_lines : (s.onCluster k f).lines = s.lines := rfl
@[simp] theorem State.onCluster_l1 : (s.onCluster k f).l1 = s.l1 := rfl
@[simp] theorem State.onCluster_ptes : (s.onCluster k f).ptes = s.ptes := rfl
@[simp] theorem State.onCluster_maps : (s.onCluster k f).maps = s.maps := rfl
@[simp] theorem State.onCluster_roots : (s.onCluster k f).roots = s.roots := rfl
@[simp] theorem State.onCluster_fbuf : (s.onCluster k f).fbuf = s.fbuf := rfl
@[simp] theorem State.onCluster_icache : (s.onCluster k f).icache = s.icache := rfl
@[simp] theorem State.onCluster_ireqs : (s.onCluster k f).ireqs = s.ireqs := rfl
@[simp] theorem State.onCluster_replays : (s.onCluster k f).replays = s.replays := rfl
@[simp] theorem State.onCluster_deques : (s.onCluster k f).deques = s.deques := rfl
@[simp] theorem State.onCluster_wins : (s.onCluster k f).wins = s.wins := rfl
@[simp] theorem State.onCluster_winNext : (s.onCluster k f).winNext = s.winNext := rfl
@[simp] theorem State.onCluster_winFreed : (s.onCluster k f).winFreed = s.winFreed := rfl
@[simp] theorem State.onCluster_arrs : (s.onCluster k f).arrs = s.arrs := rfl
@[simp] theorem State.onCluster_ports : (s.onCluster k f).ports = s.ports := rfl
@[simp] theorem State.onCluster_wire : (s.onCluster k f).wire = s.wire := rfl
@[simp] theorem State.onCluster_rings : (s.onCluster k f).rings = s.rings := rfl
@[simp] theorem State.onCluster_accid : (s.onCluster k f).accid = s.accid := rfl
@[simp] theorem State.onCluster_aregs : (s.onCluster k f).aregs = s.aregs := rfl
@[simp] theorem State.onCluster_seqs : (s.onCluster k f).seqs = s.seqs := rfl
@[simp] theorem State.onCluster_gnodes : (s.onCluster k f).gnodes = s.gnodes := rfl
@[simp] theorem State.onCluster_kvOff : (s.onCluster k f).kvOff = s.kvOff := rfl
@[simp] theorem State.onCluster_kvTotal : (s.onCluster k f).kvTotal = s.kvTotal := rfl
@[simp] theorem State.onCluster_reqs : (s.onCluster k f).reqs = s.reqs := rfl
@[simp] theorem State.onCluster_strikes : (s.onCluster k f).strikes = s.strikes := rfl
@[simp] theorem State.onCluster_mregs : (s.onCluster k f).mregs = s.mregs := rfl
@[simp] theorem State.onCluster_evlog : (s.onCluster k f).evlog = s.evlog := rfl
@[simp] theorem State.onCluster_elcnt : (s.onCluster k f).elcnt = s.elcnt := rfl
@[simp] theorem State.onCluster_elack : (s.onCluster k f).elack = s.elack := rfl
@[simp] theorem State.onCluster_ellost : (s.onCluster k f).ellost = s.ellost := rfl
@[simp] theorem State.onCluster_pzMet : (s.onCluster k f).pzMet = s.pzMet := rfl
@[simp] theorem State.onCluster_pzLogged : (s.onCluster k f).pzLogged = s.pzLogged := rfl
@[simp] theorem State.onCluster_vectors : (s.onCluster k f).vectors = s.vectors := rfl
@[simp] theorem State.onCluster_hqs : (s.onCluster k f).hqs = s.hqs := rfl
@[simp] theorem State.onCluster_ltab : (s.onCluster k f).ltab = s.ltab := rfl
@[simp] theorem State.onCluster_lNext : (s.onCluster k f).lNext = s.lNext := rfl
@[simp] theorem State.onCluster_lFreed : (s.onCluster k f).lFreed = s.lFreed := rfl
@[simp] theorem State.onCluster_hcalls : (s.onCluster k f).hcalls = s.hcalls := rfl
@[simp] theorem State.onCluster_ctxs : (s.onCluster k f).ctxs = s.ctxs := rfl
@[simp] theorem State.onCluster_areas : (s.onCluster k f).areas = s.areas := rfl
@[simp] theorem State.onCluster_regs : (s.onCluster k f).regs = s.regs := rfl
@[simp] theorem State.onCluster_hostData : (s.onCluster k f).hostData = s.hostData := rfl
@[simp] theorem State.onCluster_flash : (s.onCluster k f).flash = s.flash := rfl
@[simp] theorem State.onCluster_resizes : (s.onCluster k f).resizes = s.resizes := rfl
@[simp] theorem State.onCluster_runs : (s.onCluster k f).runs = s.runs := rfl
@[simp] theorem State.onCluster_slotLast : (s.onCluster k f).slotLast = s.slotLast := rfl
@[simp] theorem State.onCluster_issue : (s.onCluster k f).issue = s.issue := rfl
@[simp] theorem State.onCluster_decs : (s.onCluster k f).decs = s.decs := rfl
@[simp] theorem State.onCluster_tick : (s.onCluster k f).tick = s.tick := rfl
@[simp] theorem State.onCluster_nextId : (s.onCluster k f).nextId = s.nextId := rfl
@[simp] theorem State.onCluster_inputs : (s.onCluster k f).inputs = s.inputs := rfl

end

/-! ## `State.onGrid` -/

section
variable (s : State) (k : Nat) (f : Grid → Grid)

@[simp] theorem State.onGrid_threads : (s.onGrid k f).threads = s.threads := rfl
@[simp] theorem State.onGrid_groups : (s.onGrid k f).groups = s.groups := rfl
@[simp] theorem State.onGrid_teams : (s.onGrid k f).teams = s.teams := rfl
@[simp] theorem State.onGrid_clusters : (s.onGrid k f).clusters = s.clusters := rfl
@[simp] theorem State.onGrid_grids : (s.onGrid k f).grids = s.grids.modify k f := rfl
@[simp] theorem State.onGrid_remap : (s.onGrid k f).remap = s.remap := rfl
@[simp] theorem State.onGrid_hbm : (s.onGrid k f).hbm = s.hbm := rfl
@[simp] theorem State.onGrid_chip : (s.onGrid k f).chip = s.chip := rfl
@[simp] theorem State.onGrid_chipTags : (s.onGrid k f).chipTags = s.chipTags := rfl
@[simp] theorem State.onGrid_host : (s.onGrid k f).host = s.host := rfl
@[simp] theorem State.onGrid_accs : (s.onGrid k f).accs = s.accs := rfl
@[simp] theorem State.onGrid_locks : (s.onGrid k f).locks = s.locks := rfl
@[simp] theorem State.onGrid_recs : (s.onGrid k f).recs = s.recs := rfl
@[simp] theorem State.onGrid_ops : (s.onGrid k f).ops = s.ops := rfl
@[simp] theorem State.onGrid_mxus : (s.onGrid k f).mxus = s.mxus := rfl
@[simp] theorem State.onGrid_lines : (s.onGrid k f).lines = s.lines := rfl
@[simp] theorem State.onGrid_l1 : (s.onGrid k f).l1 = s.l1 := rfl
@[simp] theorem State.onGrid_ptes : (s.onGrid k f).ptes = s.ptes := rfl
@[simp] theorem State.onGrid_maps : (s.onGrid k f).maps = s.maps := rfl
@[simp] theorem State.onGrid_roots : (s.onGrid k f).roots = s.roots := rfl
@[simp] theorem State.onGrid_fbuf : (s.onGrid k f).fbuf = s.fbuf := rfl
@[simp] theorem State.onGrid_icache : (s.onGrid k f).icache = s.icache := rfl
@[simp] theorem State.onGrid_ireqs : (s.onGrid k f).ireqs = s.ireqs := rfl
@[simp] theorem State.onGrid_replays : (s.onGrid k f).replays = s.replays := rfl
@[simp] theorem State.onGrid_deques : (s.onGrid k f).deques = s.deques := rfl
@[simp] theorem State.onGrid_wins : (s.onGrid k f).wins = s.wins := rfl
@[simp] theorem State.onGrid_winNext : (s.onGrid k f).winNext = s.winNext := rfl
@[simp] theorem State.onGrid_winFreed : (s.onGrid k f).winFreed = s.winFreed := rfl
@[simp] theorem State.onGrid_arrs : (s.onGrid k f).arrs = s.arrs := rfl
@[simp] theorem State.onGrid_ports : (s.onGrid k f).ports = s.ports := rfl
@[simp] theorem State.onGrid_wire : (s.onGrid k f).wire = s.wire := rfl
@[simp] theorem State.onGrid_rings : (s.onGrid k f).rings = s.rings := rfl
@[simp] theorem State.onGrid_accid : (s.onGrid k f).accid = s.accid := rfl
@[simp] theorem State.onGrid_aregs : (s.onGrid k f).aregs = s.aregs := rfl
@[simp] theorem State.onGrid_seqs : (s.onGrid k f).seqs = s.seqs := rfl
@[simp] theorem State.onGrid_gnodes : (s.onGrid k f).gnodes = s.gnodes := rfl
@[simp] theorem State.onGrid_kvOff : (s.onGrid k f).kvOff = s.kvOff := rfl
@[simp] theorem State.onGrid_kvTotal : (s.onGrid k f).kvTotal = s.kvTotal := rfl
@[simp] theorem State.onGrid_reqs : (s.onGrid k f).reqs = s.reqs := rfl
@[simp] theorem State.onGrid_strikes : (s.onGrid k f).strikes = s.strikes := rfl
@[simp] theorem State.onGrid_mregs : (s.onGrid k f).mregs = s.mregs := rfl
@[simp] theorem State.onGrid_evlog : (s.onGrid k f).evlog = s.evlog := rfl
@[simp] theorem State.onGrid_elcnt : (s.onGrid k f).elcnt = s.elcnt := rfl
@[simp] theorem State.onGrid_elack : (s.onGrid k f).elack = s.elack := rfl
@[simp] theorem State.onGrid_ellost : (s.onGrid k f).ellost = s.ellost := rfl
@[simp] theorem State.onGrid_pzMet : (s.onGrid k f).pzMet = s.pzMet := rfl
@[simp] theorem State.onGrid_pzLogged : (s.onGrid k f).pzLogged = s.pzLogged := rfl
@[simp] theorem State.onGrid_vectors : (s.onGrid k f).vectors = s.vectors := rfl
@[simp] theorem State.onGrid_hqs : (s.onGrid k f).hqs = s.hqs := rfl
@[simp] theorem State.onGrid_ltab : (s.onGrid k f).ltab = s.ltab := rfl
@[simp] theorem State.onGrid_lNext : (s.onGrid k f).lNext = s.lNext := rfl
@[simp] theorem State.onGrid_lFreed : (s.onGrid k f).lFreed = s.lFreed := rfl
@[simp] theorem State.onGrid_hcalls : (s.onGrid k f).hcalls = s.hcalls := rfl
@[simp] theorem State.onGrid_ctxs : (s.onGrid k f).ctxs = s.ctxs := rfl
@[simp] theorem State.onGrid_areas : (s.onGrid k f).areas = s.areas := rfl
@[simp] theorem State.onGrid_regs : (s.onGrid k f).regs = s.regs := rfl
@[simp] theorem State.onGrid_hostData : (s.onGrid k f).hostData = s.hostData := rfl
@[simp] theorem State.onGrid_flash : (s.onGrid k f).flash = s.flash := rfl
@[simp] theorem State.onGrid_resizes : (s.onGrid k f).resizes = s.resizes := rfl
@[simp] theorem State.onGrid_runs : (s.onGrid k f).runs = s.runs := rfl
@[simp] theorem State.onGrid_slotLast : (s.onGrid k f).slotLast = s.slotLast := rfl
@[simp] theorem State.onGrid_issue : (s.onGrid k f).issue = s.issue := rfl
@[simp] theorem State.onGrid_decs : (s.onGrid k f).decs = s.decs := rfl
@[simp] theorem State.onGrid_tick : (s.onGrid k f).tick = s.tick := rfl
@[simp] theorem State.onGrid_nextId : (s.onGrid k f).nextId = s.nextId := rfl
@[simp] theorem State.onGrid_inputs : (s.onGrid k f).inputs = s.inputs := rfl

end

/-! ## `State.onIssue` -/

section
variable (s : State) (f : Issue → Issue)

@[simp] theorem State.onIssue_threads : (s.onIssue f).threads = s.threads := rfl
@[simp] theorem State.onIssue_groups : (s.onIssue f).groups = s.groups := rfl
@[simp] theorem State.onIssue_teams : (s.onIssue f).teams = s.teams := rfl
@[simp] theorem State.onIssue_clusters : (s.onIssue f).clusters = s.clusters := rfl
@[simp] theorem State.onIssue_grids : (s.onIssue f).grids = s.grids := rfl
@[simp] theorem State.onIssue_remap : (s.onIssue f).remap = s.remap := rfl
@[simp] theorem State.onIssue_hbm : (s.onIssue f).hbm = s.hbm := rfl
@[simp] theorem State.onIssue_chip : (s.onIssue f).chip = s.chip := rfl
@[simp] theorem State.onIssue_chipTags : (s.onIssue f).chipTags = s.chipTags := rfl
@[simp] theorem State.onIssue_host : (s.onIssue f).host = s.host := rfl
@[simp] theorem State.onIssue_accs : (s.onIssue f).accs = s.accs := rfl
@[simp] theorem State.onIssue_locks : (s.onIssue f).locks = s.locks := rfl
@[simp] theorem State.onIssue_recs : (s.onIssue f).recs = s.recs := rfl
@[simp] theorem State.onIssue_ops : (s.onIssue f).ops = s.ops := rfl
@[simp] theorem State.onIssue_mxus : (s.onIssue f).mxus = s.mxus := rfl
@[simp] theorem State.onIssue_lines : (s.onIssue f).lines = s.lines := rfl
@[simp] theorem State.onIssue_l1 : (s.onIssue f).l1 = s.l1 := rfl
@[simp] theorem State.onIssue_ptes : (s.onIssue f).ptes = s.ptes := rfl
@[simp] theorem State.onIssue_maps : (s.onIssue f).maps = s.maps := rfl
@[simp] theorem State.onIssue_roots : (s.onIssue f).roots = s.roots := rfl
@[simp] theorem State.onIssue_fbuf : (s.onIssue f).fbuf = s.fbuf := rfl
@[simp] theorem State.onIssue_icache : (s.onIssue f).icache = s.icache := rfl
@[simp] theorem State.onIssue_ireqs : (s.onIssue f).ireqs = s.ireqs := rfl
@[simp] theorem State.onIssue_replays : (s.onIssue f).replays = s.replays := rfl
@[simp] theorem State.onIssue_deques : (s.onIssue f).deques = s.deques := rfl
@[simp] theorem State.onIssue_wins : (s.onIssue f).wins = s.wins := rfl
@[simp] theorem State.onIssue_winNext : (s.onIssue f).winNext = s.winNext := rfl
@[simp] theorem State.onIssue_winFreed : (s.onIssue f).winFreed = s.winFreed := rfl
@[simp] theorem State.onIssue_arrs : (s.onIssue f).arrs = s.arrs := rfl
@[simp] theorem State.onIssue_ports : (s.onIssue f).ports = s.ports := rfl
@[simp] theorem State.onIssue_wire : (s.onIssue f).wire = s.wire := rfl
@[simp] theorem State.onIssue_rings : (s.onIssue f).rings = s.rings := rfl
@[simp] theorem State.onIssue_accid : (s.onIssue f).accid = s.accid := rfl
@[simp] theorem State.onIssue_aregs : (s.onIssue f).aregs = s.aregs := rfl
@[simp] theorem State.onIssue_seqs : (s.onIssue f).seqs = s.seqs := rfl
@[simp] theorem State.onIssue_gnodes : (s.onIssue f).gnodes = s.gnodes := rfl
@[simp] theorem State.onIssue_kvOff : (s.onIssue f).kvOff = s.kvOff := rfl
@[simp] theorem State.onIssue_kvTotal : (s.onIssue f).kvTotal = s.kvTotal := rfl
@[simp] theorem State.onIssue_reqs : (s.onIssue f).reqs = s.reqs := rfl
@[simp] theorem State.onIssue_strikes : (s.onIssue f).strikes = s.strikes := rfl
@[simp] theorem State.onIssue_mregs : (s.onIssue f).mregs = s.mregs := rfl
@[simp] theorem State.onIssue_evlog : (s.onIssue f).evlog = s.evlog := rfl
@[simp] theorem State.onIssue_elcnt : (s.onIssue f).elcnt = s.elcnt := rfl
@[simp] theorem State.onIssue_elack : (s.onIssue f).elack = s.elack := rfl
@[simp] theorem State.onIssue_ellost : (s.onIssue f).ellost = s.ellost := rfl
@[simp] theorem State.onIssue_pzMet : (s.onIssue f).pzMet = s.pzMet := rfl
@[simp] theorem State.onIssue_pzLogged : (s.onIssue f).pzLogged = s.pzLogged := rfl
@[simp] theorem State.onIssue_vectors : (s.onIssue f).vectors = s.vectors := rfl
@[simp] theorem State.onIssue_hqs : (s.onIssue f).hqs = s.hqs := rfl
@[simp] theorem State.onIssue_ltab : (s.onIssue f).ltab = s.ltab := rfl
@[simp] theorem State.onIssue_lNext : (s.onIssue f).lNext = s.lNext := rfl
@[simp] theorem State.onIssue_lFreed : (s.onIssue f).lFreed = s.lFreed := rfl
@[simp] theorem State.onIssue_hcalls : (s.onIssue f).hcalls = s.hcalls := rfl
@[simp] theorem State.onIssue_ctxs : (s.onIssue f).ctxs = s.ctxs := rfl
@[simp] theorem State.onIssue_areas : (s.onIssue f).areas = s.areas := rfl
@[simp] theorem State.onIssue_regs : (s.onIssue f).regs = s.regs := rfl
@[simp] theorem State.onIssue_hostData : (s.onIssue f).hostData = s.hostData := rfl
@[simp] theorem State.onIssue_flash : (s.onIssue f).flash = s.flash := rfl
@[simp] theorem State.onIssue_resizes : (s.onIssue f).resizes = s.resizes := rfl
@[simp] theorem State.onIssue_runs : (s.onIssue f).runs = s.runs := rfl
@[simp] theorem State.onIssue_slotLast : (s.onIssue f).slotLast = s.slotLast := rfl
@[simp] theorem State.onIssue_issue : (s.onIssue f).issue = f s.issue := rfl
@[simp] theorem State.onIssue_decs : (s.onIssue f).decs = s.decs := rfl
@[simp] theorem State.onIssue_tick : (s.onIssue f).tick = s.tick := rfl
@[simp] theorem State.onIssue_nextId : (s.onIssue f).nextId = s.nextId := rfl
@[simp] theorem State.onIssue_inputs : (s.onIssue f).inputs = s.inputs := rfl

end

/-! ## `State.next` -/

section
variable (s : State)

@[simp] theorem State.next_threads : (s.next).threads = s.threads := rfl
@[simp] theorem State.next_groups : (s.next).groups = s.groups := rfl
@[simp] theorem State.next_teams : (s.next).teams = s.teams := rfl
@[simp] theorem State.next_clusters : (s.next).clusters = s.clusters := rfl
@[simp] theorem State.next_grids : (s.next).grids = s.grids := rfl
@[simp] theorem State.next_remap : (s.next).remap = s.remap := rfl
@[simp] theorem State.next_hbm : (s.next).hbm = s.hbm := rfl
@[simp] theorem State.next_chip : (s.next).chip = s.chip := rfl
@[simp] theorem State.next_chipTags : (s.next).chipTags = s.chipTags := rfl
@[simp] theorem State.next_host : (s.next).host = s.host := rfl
@[simp] theorem State.next_accs : (s.next).accs = s.accs := rfl
@[simp] theorem State.next_locks : (s.next).locks = s.locks := rfl
@[simp] theorem State.next_recs : (s.next).recs = s.recs := rfl
@[simp] theorem State.next_ops : (s.next).ops = s.ops := rfl
@[simp] theorem State.next_mxus : (s.next).mxus = s.mxus := rfl
@[simp] theorem State.next_lines : (s.next).lines = s.lines := rfl
@[simp] theorem State.next_l1 : (s.next).l1 = s.l1 := rfl
@[simp] theorem State.next_ptes : (s.next).ptes = s.ptes := rfl
@[simp] theorem State.next_maps : (s.next).maps = s.maps := rfl
@[simp] theorem State.next_roots : (s.next).roots = s.roots := rfl
@[simp] theorem State.next_fbuf : (s.next).fbuf = s.fbuf := rfl
@[simp] theorem State.next_icache : (s.next).icache = s.icache := rfl
@[simp] theorem State.next_ireqs : (s.next).ireqs = s.ireqs := rfl
@[simp] theorem State.next_replays : (s.next).replays = s.replays := rfl
@[simp] theorem State.next_deques : (s.next).deques = s.deques := rfl
@[simp] theorem State.next_wins : (s.next).wins = s.wins := rfl
@[simp] theorem State.next_winNext : (s.next).winNext = s.winNext := rfl
@[simp] theorem State.next_winFreed : (s.next).winFreed = s.winFreed := rfl
@[simp] theorem State.next_arrs : (s.next).arrs = s.arrs := rfl
@[simp] theorem State.next_ports : (s.next).ports = s.ports := rfl
@[simp] theorem State.next_wire : (s.next).wire = s.wire := rfl
@[simp] theorem State.next_rings : (s.next).rings = s.rings := rfl
@[simp] theorem State.next_accid : (s.next).accid = s.accid := rfl
@[simp] theorem State.next_aregs : (s.next).aregs = s.aregs := rfl
@[simp] theorem State.next_seqs : (s.next).seqs = s.seqs := rfl
@[simp] theorem State.next_gnodes : (s.next).gnodes = s.gnodes := rfl
@[simp] theorem State.next_kvOff : (s.next).kvOff = s.kvOff := rfl
@[simp] theorem State.next_kvTotal : (s.next).kvTotal = s.kvTotal := rfl
@[simp] theorem State.next_reqs : (s.next).reqs = s.reqs := rfl
@[simp] theorem State.next_strikes : (s.next).strikes = s.strikes := rfl
@[simp] theorem State.next_mregs : (s.next).mregs = s.mregs := rfl
@[simp] theorem State.next_evlog : (s.next).evlog = s.evlog := rfl
@[simp] theorem State.next_elcnt : (s.next).elcnt = s.elcnt := rfl
@[simp] theorem State.next_elack : (s.next).elack = s.elack := rfl
@[simp] theorem State.next_ellost : (s.next).ellost = s.ellost := rfl
@[simp] theorem State.next_pzMet : (s.next).pzMet = s.pzMet := rfl
@[simp] theorem State.next_pzLogged : (s.next).pzLogged = s.pzLogged := rfl
@[simp] theorem State.next_vectors : (s.next).vectors = s.vectors := rfl
@[simp] theorem State.next_hqs : (s.next).hqs = s.hqs := rfl
@[simp] theorem State.next_ltab : (s.next).ltab = s.ltab := rfl
@[simp] theorem State.next_lNext : (s.next).lNext = s.lNext := rfl
@[simp] theorem State.next_lFreed : (s.next).lFreed = s.lFreed := rfl
@[simp] theorem State.next_hcalls : (s.next).hcalls = s.hcalls := rfl
@[simp] theorem State.next_ctxs : (s.next).ctxs = s.ctxs := rfl
@[simp] theorem State.next_areas : (s.next).areas = s.areas := rfl
@[simp] theorem State.next_regs : (s.next).regs = s.regs := rfl
@[simp] theorem State.next_hostData : (s.next).hostData = s.hostData := rfl
@[simp] theorem State.next_flash : (s.next).flash = s.flash := rfl
@[simp] theorem State.next_resizes : (s.next).resizes = s.resizes := rfl
@[simp] theorem State.next_runs : (s.next).runs = s.runs := rfl
@[simp] theorem State.next_slotLast : (s.next).slotLast = s.slotLast := rfl
@[simp] theorem State.next_issue : (s.next).issue = s.issue := rfl
@[simp] theorem State.next_decs : (s.next).decs = s.decs := rfl
@[simp] theorem State.next_tick : (s.next).tick = s.tick + 1 := rfl
@[simp] theorem State.next_nextId : (s.next).nextId = s.nextId := rfl
@[simp] theorem State.next_inputs : (s.next).inputs = s.inputs := rfl

end

/-! ## `State.fresh` -/

section
variable (s : State)

@[simp] theorem State.fresh_threads : (s.fresh).threads = s.threads := rfl
@[simp] theorem State.fresh_groups : (s.fresh).groups = s.groups := rfl
@[simp] theorem State.fresh_teams : (s.fresh).teams = s.teams := rfl
@[simp] theorem State.fresh_clusters : (s.fresh).clusters = s.clusters := rfl
@[simp] theorem State.fresh_grids : (s.fresh).grids = s.grids := rfl
@[simp] theorem State.fresh_remap : (s.fresh).remap = s.remap := rfl
@[simp] theorem State.fresh_hbm : (s.fresh).hbm = s.hbm := rfl
@[simp] theorem State.fresh_chip : (s.fresh).chip = s.chip := rfl
@[simp] theorem State.fresh_chipTags : (s.fresh).chipTags = s.chipTags := rfl
@[simp] theorem State.fresh_host : (s.fresh).host = s.host := rfl
@[simp] theorem State.fresh_accs : (s.fresh).accs = s.accs := rfl
@[simp] theorem State.fresh_locks : (s.fresh).locks = s.locks := rfl
@[simp] theorem State.fresh_recs : (s.fresh).recs = s.recs := rfl
@[simp] theorem State.fresh_ops : (s.fresh).ops = s.ops := rfl
@[simp] theorem State.fresh_mxus : (s.fresh).mxus = s.mxus := rfl
@[simp] theorem State.fresh_lines : (s.fresh).lines = s.lines := rfl
@[simp] theorem State.fresh_l1 : (s.fresh).l1 = s.l1 := rfl
@[simp] theorem State.fresh_ptes : (s.fresh).ptes = s.ptes := rfl
@[simp] theorem State.fresh_maps : (s.fresh).maps = s.maps := rfl
@[simp] theorem State.fresh_roots : (s.fresh).roots = s.roots := rfl
@[simp] theorem State.fresh_fbuf : (s.fresh).fbuf = s.fbuf := rfl
@[simp] theorem State.fresh_icache : (s.fresh).icache = s.icache := rfl
@[simp] theorem State.fresh_ireqs : (s.fresh).ireqs = s.ireqs := rfl
@[simp] theorem State.fresh_replays : (s.fresh).replays = s.replays := rfl
@[simp] theorem State.fresh_deques : (s.fresh).deques = s.deques := rfl
@[simp] theorem State.fresh_wins : (s.fresh).wins = s.wins := rfl
@[simp] theorem State.fresh_winNext : (s.fresh).winNext = s.winNext := rfl
@[simp] theorem State.fresh_winFreed : (s.fresh).winFreed = s.winFreed := rfl
@[simp] theorem State.fresh_arrs : (s.fresh).arrs = s.arrs := rfl
@[simp] theorem State.fresh_ports : (s.fresh).ports = s.ports := rfl
@[simp] theorem State.fresh_wire : (s.fresh).wire = s.wire := rfl
@[simp] theorem State.fresh_rings : (s.fresh).rings = s.rings := rfl
@[simp] theorem State.fresh_accid : (s.fresh).accid = s.accid := rfl
@[simp] theorem State.fresh_aregs : (s.fresh).aregs = s.aregs := rfl
@[simp] theorem State.fresh_seqs : (s.fresh).seqs = s.seqs := rfl
@[simp] theorem State.fresh_gnodes : (s.fresh).gnodes = s.gnodes := rfl
@[simp] theorem State.fresh_kvOff : (s.fresh).kvOff = s.kvOff := rfl
@[simp] theorem State.fresh_kvTotal : (s.fresh).kvTotal = s.kvTotal := rfl
@[simp] theorem State.fresh_reqs : (s.fresh).reqs = s.reqs := rfl
@[simp] theorem State.fresh_strikes : (s.fresh).strikes = s.strikes := rfl
@[simp] theorem State.fresh_mregs : (s.fresh).mregs = s.mregs := rfl
@[simp] theorem State.fresh_evlog : (s.fresh).evlog = s.evlog := rfl
@[simp] theorem State.fresh_elcnt : (s.fresh).elcnt = s.elcnt := rfl
@[simp] theorem State.fresh_elack : (s.fresh).elack = s.elack := rfl
@[simp] theorem State.fresh_ellost : (s.fresh).ellost = s.ellost := rfl
@[simp] theorem State.fresh_pzMet : (s.fresh).pzMet = s.pzMet := rfl
@[simp] theorem State.fresh_pzLogged : (s.fresh).pzLogged = s.pzLogged := rfl
@[simp] theorem State.fresh_vectors : (s.fresh).vectors = s.vectors := rfl
@[simp] theorem State.fresh_hqs : (s.fresh).hqs = s.hqs := rfl
@[simp] theorem State.fresh_ltab : (s.fresh).ltab = s.ltab := rfl
@[simp] theorem State.fresh_lNext : (s.fresh).lNext = s.lNext := rfl
@[simp] theorem State.fresh_lFreed : (s.fresh).lFreed = s.lFreed := rfl
@[simp] theorem State.fresh_hcalls : (s.fresh).hcalls = s.hcalls := rfl
@[simp] theorem State.fresh_ctxs : (s.fresh).ctxs = s.ctxs := rfl
@[simp] theorem State.fresh_areas : (s.fresh).areas = s.areas := rfl
@[simp] theorem State.fresh_regs : (s.fresh).regs = s.regs := rfl
@[simp] theorem State.fresh_hostData : (s.fresh).hostData = s.hostData := rfl
@[simp] theorem State.fresh_flash : (s.fresh).flash = s.flash := rfl
@[simp] theorem State.fresh_resizes : (s.fresh).resizes = s.resizes := rfl
@[simp] theorem State.fresh_runs : (s.fresh).runs = s.runs := rfl
@[simp] theorem State.fresh_slotLast : (s.fresh).slotLast = s.slotLast := rfl
@[simp] theorem State.fresh_issue : (s.fresh).issue = s.issue := rfl
@[simp] theorem State.fresh_decs : (s.fresh).decs = s.decs := rfl
@[simp] theorem State.fresh_tick : (s.fresh).tick = s.tick := rfl
@[simp] theorem State.fresh_nextId : (s.fresh).nextId = s.nextId + 1 := rfl
@[simp] theorem State.fresh_inputs : (s.fresh).inputs = s.inputs := rfl

end

end Machine
end Sys2Proof
end

