-- ==== Sys2Proof/Tests/Slice0.lean ====
section
/-! SUPPORT. Tests of the model: words written out from the encodings of 02 and the class chapters, an ill-formed term for each check of
WellFormed.lean, and single steps and words on small states with the results that the spec's tables state. -/

namespace Sys2Proof
namespace Tests
open Machine

set_option Elab.async false

/-- Operands: a view slice, the same with X set, another selector. -/
def v (n : Fin 960) (w : Width) : Operand := { w, x := false, sel := .slice n }
def vx (n : Fin 960) (w : Width) : Operand := { w, x := true, sel := .slice n }
def sp (s : Sel) (w : Width) : Operand := { w, x := false, sel := s }

/-! ## Decoding: words written out from the field tables -/

/-- Each word decodes to the instruction beside it. -/
abbrev Decodes (l : List (Word × Instr)) : Prop := ∀ x ∈ l, decode x.1 = some x.2

theorem test_decode_a1 : Decodes [
    (0x001E268287040000, .mov (.on true 2 9) (v 40 .w32) (vx 16 .w16)),
    (0x002002828FFFFFFE, .movi .always (v 40 .w32) 0xFFFFFFE),
    (0x003E278088123457, .movhi (.on true 2 9) (v 8 .w64) 0x8123457),
    (0x00400008B0050100, .smove .always (v 139 .w4) (v 20 .w4) 256),
    (0x00500008B00025FF, .sset .always (v 139 .w4) 9 511),
    (0x006000078A0A3FFD, .loop 120 (v 40 .w32) 0x3FFD),
    (0x0070000000000000, .endloop),
    (0x0070000030002001, .endloopBrk 3 0x2001),
    (0x0080000000003FFE, .frameadj 0x3FFE),
    (0x0090028280F29FFF, .ixset .always (v 40 .w32) (sp (.index 2) .w4) 8191),
    (0x00AE243CF7043FFF, .ixstepAdd (.on true 2 9) (sp (.index 7) .w4) (vx 16 .w16) 0x3FFF),
    (0x00AE24BCF7040005, .ixstepSet (.on true 2 9) (sp (.index 7) .w8) (vx 16 .w16) 5)] := by decide
theorem test_decode_a2 : Decodes [
    (0x00B00008B00003C0, .spill .always (v 139 .w4) 960),
    (0x00C00008B0000001, .fill .always (v 139 .w4) 1),
    (0x00DE278080000003, .stashq (.on true 2 9) (v 8 .w64) 3)] := by decide
theorem test_decode_b1 : Decodes [
    (0x040E268287042BE1, .iadd (.on true 2 9) (v 40 .w32) (vx 16 .w16) (sp .lane .w32)),
    (0x041E268287042BE1, .iadds (.on true 2 9) (v 40 .w32) (vx 16 .w16) (sp .lane .w32)),
    (0x042E268287042BE1, .isub (.on true 2 9) (v 40 .w32) (vx 16 .w16) (sp .lane .w32)),
    (0x043E268287042BE1, .isubs (.on true 2 9) (v 40 .w32) (vx 16 .w16) (sp .lane .w32)),
    (0x044E268287042BE1, .imul (.on true 2 9) (v 40 .w32) (vx 16 .w16) (sp .lane .w32)),
    (0x045E268287042BE1, .imulh (.on true 2 9) (v 40 .w32) (vx 16 .w16) (sp .lane .w32)),
    (0x046E268287042BE1, .imad (.on true 2 9) (v 40 .w32) (vx 16 .w16) (sp .lane .w32)),
    (0x047E268287042BE1, .imin (.on true 2 9) (v 40 .w32) (vx 16 .w16) (sp .lane .w32)),
    (0x048E268287042BE1, .imax (.on true 2 9) (v 40 .w32) (vx 16 .w16) (sp .lane .w32)),
    (0x0490028287040000, .iabs .always (v 40 .w32) (vx 16 .w16)),
    (0x04A0028287040000, .ineg .always (v 40 .w32) (vx 16 .w16)),
    (0x04B002828AF1BBCA, .and .always (v 40 .w32) (sp (.latch 6) .w32) (sp (.index 2) .w64))] := by decide
theorem test_decode_b2 : Decodes [
    (0x04C002828AF1BBCA, .or .always (v 40 .w32) (sp (.latch 6) .w32) (sp (.index 2) .w64)),
    (0x04D002828AF1BBCA, .xor .always (v 40 .w32) (sp (.latch 6) .w32) (sp (.index 2) .w64)),
    (0x04E002828AF1BBCA, .andn .always (v 40 .w32) (sp (.latch 6) .w32) (sp (.index 2) .w64)),
    (0x04FE268287040000, .not (.on true 2 9) (v 40 .w32) (vx 16 .w16)),
    (0x050002828704007F, .shl .always (v 40 .w32) (vx 16 .w16) (.imm 127)),
    (0x05100282870423BF, .shr .always (v 40 .w32) (vx 16 .w16) (.op (.slice 959))),
    (0x05200282870423E1, .sar .always (v 40 .w32) (vx 16 .w16) (.op .lane)),
    (0x053002828704000D, .rot .always (v 40 .w32) (vx 16 .w16) (.imm 13)),
    (0x054000848E020000, .popc .always (v 72 .w8) (v 8 .w64)),
    (0x055000848E020000, .clz .always (v 72 .w8) (v 8 .w64)),
    (0x056002828E020000, .brev .always (v 40 .w32) (v 8 .w64)),
    (0x057002828E0211E1, .bfx .always (v 40 .w32) (v 8 .w64) true 7 33)] := by decide
theorem test_decode_b3 : Decodes [
    (0x058003808A0A0FC0, .bfi .always (v 8 .w64) (v 40 .w32) 63 0),
    (0x059E26691A0A1C10, .icmp (.on true 2 9) .geu .or ⟨2, 17⟩ (v 40 .w32) (vx 16 .w16)),
    (0x05AE2682870428C8, .sel (.on true 2 9) (v 40 .w32) (vx 16 .w16) (v 200 .w32))] := by decide
theorem test_decode_c : Decodes [
    (0x080003BD3E022828, .amov .always (sp (.affine 3) .w64) (v 8 .w64) (v 40 .w32)),
    (0x081003BD3EF55C10, .aadd .always (sp (.affine 3) .w64) (sp (.affine 5) .w64) (vx 16 .w16)),
    (0x082E27BD3EF55C10, .amul (.on true 2 9) (sp (.affine 3) .w64) (sp (.affine 5) .w64) (vx 16 .w16)),
    (0x083003808EF54002, .aget .always (v 8 .w64) (sp (.affine 5) .w64) .form),
    (0x084003BD5E020000, .afrom .always (sp (.affine 5) .w64) (v 8 .w64)),
    (0x085003808A0A3C06, .alea .always (v 8 .w64) (v 40 .w32) 15 6)] := by decide
theorem test_decode_d1 : Decodes [
    (0x0A0002828A322BE0, .fadd .always (v 40 .w32) (v 200 .w32) (sp .zero .w32)),
    (0x0A1002828A322BE0, .fsub .always (v 40 .w32) (v 200 .w32) (sp .zero .w32)),
    (0x0A2002828A322BE0, .fmul .always (v 40 .w32) (v 200 .w32) (sp .zero .w32)),
    (0x0A3002828A322BE0, .ffma .always (v 40 .w32) (v 200 .w32) (sp .zero .w32)),
    (0x0A4002828A322BE0, .fmin .always (v 40 .w32) (v 200 .w32) (sp .zero .w32)),
    (0x0A5002828A322BE0, .fmax .always (v 40 .w32) (v 200 .w32) (sp .zero .w32)),
    (0x0A6002828A320000, .fneg .always (v 40 .w32) (v 200 .w32)),
    (0x0A7002828A320000, .fabs .always (v 40 .w32) (v 200 .w32)),
    (0x0A8001F45A0A28C8, .fcmp .always .uno .and ⟨3, 5⟩ (v 40 .w32) (v 200 .w32)),
    (0x0A9001004A320000, .fclass .always (v 4 .w12) (v 200 .w32)),
    (0x0AA9FE828A320000, .frcp (.on false 1 63) (v 40 .w32) (v 200 .w32)),
    (0x0AB9FE828A320000, .frsq (.on false 1 63) (v 40 .w32) (v 200 .w32))] := by decide
theorem test_decode_d2 : Decodes [
    (0x0AC9FE828A320000, .fsqrt (.on false 1 63) (v 40 .w32) (v 200 .w32)),
    (0x0AD9FE828A320000, .fexp2 (.on false 1 63) (v 40 .w32) (v 200 .w32)),
    (0x0AE9FE828A320000, .flog2 (.on false 1 63) (v 40 .w32) (v 200 .w32)),
    (0x0AF9FE828A320000, .ftanh (.on false 1 63) (v 40 .w32) (v 200 .w32)),
    (0x0B0002828A321C10, .fscl .always (v 40 .w32) (v 200 .w32) (vx 16 .w16)),
    (0x0B1002828A320004, .frnd .always (v 40 .w32) (v 200 .w32) .dyn),
    (0x0B2000848A320005, .cvtfTo .always (v 72 .w8) (v 200 .w32) 5),
    (0x0B20028282122006, .cvtfFrom .always (v 40 .w32) (v 72 .w8) 6),
    (0x0B3003808A32000B, .cvtfi .always (v 8 .w64) (v 200 .w32) true .rup),
    (0x0B40028287040001, .cvtif .always (v 40 .w32) (vx 16 .w16) .rtz),
    (0x0B5000848A0A1821, .qblk (v 72 .w8) (v 40 .w32) 3 (.slice 33)),
    (0x0B60028282123BC9, .dqblk (v 40 .w32) (v 72 .w8) 7 (.index 1))] := by decide
theorem test_decode_e1 : Decodes [
    (0x0E0003C008000001, .bra .always 0x8000001),
    (0x0E0E26C007FFFFFF, .braLv (.on true 2 9) 11 0x7FFFFFF),
    (0x0E1000000E020000, .brx .always (v 8 .w64)),
    (0x0E2003808FFFFFFF, .call .always (v 8 .w64) 0xFFFFFFF),
    (0x0E3003808E4B0000, .callx .always (v 8 .w64) (v 300 .w64)),
    (0x0E4E24000E020000, .ret (.on true 2 9) (v 8 .w64)),
    (0x0E50014000000000, .join .always 5),
    (0x0E6002C000000000, .leave .always 11),
    (0x0E7E240000000000, .jwait (.on true 2 9) 0),
    (0x0E80038080000017, .mget .always (v 8 .w64) true 7),
    (0x0E9000000E020009, .mput .always (v 8 .w64) 9),
    (0x0EAE240000000000, .exit (.on true 2 9))] := by decide
theorem test_decode_e2 : Decodes [
    (0x0EB0000000001FFF, .yield .always 8191),
    (0x0EC0000000000000, .nop .always)] := by decide
theorem test_decode_f : Decodes [
    (0x100B02828A320848, .shfl (.mask 11) (v 40 .w32) (v 200 .w32) (v 72 .w8)),
    (0x101F02828704003F, .shflup .all (v 40 .w32) (vx 16 .w16) 63),
    (0x102E028287040001, .shfldn .tset (v 40 .w32) (vx 16 .w16) 1),
    (0x103002828704001F, .shflx (.mask 0) (v 40 .w32) (vx 16 .w16) 31),
    (0x104F028287040040, .bcast .all (v 40 .w32) (vx 16 .w16) true 0),
    (0x105F02828A322200, .scan .all (v 40 .w32) (v 200 .w32) .fmax true),
    (0x106302828A321400, .reduce (.mask 3) (v 40 .w32) (v 200 .w32) .xor),
    (0x107F03808000007E, .ballot .all (v 8 .w64) ⟨1, 62⟩),
    (0x108F008480002083, .prank .all (v 72 .w8) true ⟨2, 3⟩),
    (0x109F02828A322060, .sample .all (v 40 .w32) (v 200 .w32) (v 96 .w24))] := by decide
theorem test_decode_g1 : Decodes [
    (0x120E26828E022FFF, .ldg (.on true 2 9) (v 40 .w32) (v 8 .w64) 2 0xFFF),
    (0x121E26828E022FFF, .stg (.on true 2 9) (v 40 .w32) (v 8 .w64) 2 0xFFF),
    (0x1220031F4EF54801, .lds .always (v 500 .w48) (sp (.affine 5) .w64) 0x801),
    (0x1230031F4EF54801, .sts .always (v 500 .w48) (sp (.affine 5) .w64) 0x801),
    (0x1240031F4EF54801, .ldc .always (v 500 .w48) (sp (.affine 5) .w64) 0x801),
    (0x1250031F4EF54801, .stc .always (v 500 .w48) (sp (.affine 5) .w64) 0x801),
    (0x1260031F4EF54801, .ldx .always (v 500 .w48) (sp (.affine 5) .w64) 0x801),
    (0x1270031F4EF54801, .stx .always (v 500 .w48) (sp (.affine 5) .w64) 0x801),
    (0x128000848A323FC8, .ldt .always (v 72 .w8) (v 200 .w32) 63 200),
    (0x129000848A320107, .stt .always (v 72 .w8) (v 200 .w32) 1 7),
    (0x12A003000E023005, .pref .always .w48 (v 8 .w64) 3 5),
    (0x12B000848E0207FF, .l1inv .always (v 72 .w8) (v 8 .w64) 0x7FF)] := by decide
theorem test_decode_g2 : Decodes [
    (0x12B0000000001000, .l1invAll .always)] := by decide
theorem test_decode_h : Decodes [
    (0x1400000000000005, .fence 5),
    (0x1410000000000000, .phase),
    (0x1420000000000000, .phasea),
    (0x1430000000000000, .phasew),
    (0x144000000000000F, .bart 15),
    (0x1440000002122006, .bartN 6 (v 72 .w8)),
    (0x1450000000000003, .barc 3)] := by decide
theorem test_decode_i1 : Decodes [
    (0x160002828A322C90, .pld (v 40 .w32) (v 200 .w32) 5 9 false .bf16),
    (0x161002828A321700, .prfn (v 40 .w32) (v 200 .w32) 2 14 false),
    (0x162002828A320840, .pst (v 40 .w32) (v 200 .w32) 1 0 true),
    (0x163002828A323C40, .pcopy (v 40 .w32) (v 200 .w32) 15 1),
    (0x164002828A320B80, .pcopyx (v 40 .w32) (v 200 .w32) 2 14),
    (0x165000000A320000, .pbinit (v 200 .w32)),
    (0x1660000E1A32000C, .pbwait ⟨3, 33⟩ (v 200 .w32) 12),
    (0x167003808A320001, .pbtest (v 8 .w64) (v 200 .w32) true),
    (0x16800008BE02204D, .pgate (v 139 .w4) (v 8 .w64) true (.slice 77)),
    (0x16900008BA3203D9, .paudit (v 139 .w4) (v 200 .w32) (.affine 9)),
    (0x16A0028C80003C00, .pdrop (v 200 .w32) 15),
    (0x16B000848A322000, .ptagGet (v 72 .w8) (v 200 .w32) true)] := by decide
theorem test_decode_i2 : Decodes [
    (0x16B000000A32100B, .ptagSet (v 200 .w32) false 11)] := by decide
theorem test_decode_j : Decodes [
    (0x180003F4DE103784, .mma 31 2 9 5 (v 64 .w64) 13 900),
    (0x1810022B0E022BE1, .mmap 17 1 6 (v 8 .w64) 10 .lane),
    (0x1820030FCE0228C8, .wbload 12 3 7 true (v 8 .w64) (v 200 .w32)),
    (0x1830038000000000, .wbdrop 14),
    (0x184002A000000000, .acq 21),
    (0x1850014000000000, .rel 10),
    (0x1860027C0022C000, .accrd 19 3 .hi (v 139 .w4)),
    (0x187000320022C000, .accwr 1 2 .lo (v 139 .w4)),
    (0x188003C000000000, .accz 30),
    (0x189002550E0228C8, .drain 18 .max .chip true false (v 8 .w64) (v 200 .w32))] := by decide
theorem test_decode_k : Decodes [
    (0x1A0E26828E022A81, .atom (.on true 2 9) (v 40 .w32) (v 8 .w64) .decw true 0x81),
    (0x1A1002828E0228C8, .cas .always (v 40 .w32) (v 8 .w64) (v 200 .w32)),
    (0x1A2002828E0208FF, .atomf .always (v 40 .w32) (v 8 .w64) .fmax false 0xFF),
    (0x1A3002828E02147F, .waitv .always (v 40 .w32) (v 8 .w64) .ge 127),
    (0x1A4003808E4B3BE0, .dqpush .always (v 8 .w64) (v 300 .w64) (sp .zero .w64)),
    (0x1A50038080000049, .dqpop .always (v 8 .w64) ⟨1, 9⟩),
    (0x1A6E27808000008A, .dqsteal (.on true 2 9) (v 8 .w64) ⟨2, 10⟩),
    (0x1A7003808E4B3BE4, .fork .always (v 8 .w64) (v 300 .w64) (sp .ones .w64)),
    (0x1A8000000E020000, .tjoin .always (v 8 .w64)),
    (0x1A9E24000E4B0000, .tend (.on true 2 9) (v 300 .w64))] := by decide
theorem test_decode_l1 : Decodes [
    (0x1C0002828E021BE0, .wreg .always (v 40 .w32) (v 8 .w64) .core true false 31),
    (0x1C00028280000010, .wregRe .always (v 40 .w32)),
    (0x1C100008BA320000, .wdereg .always (v 139 .w4) (v 200 .w32)),
    (0x1C2003808E4B28C8, .put .always (v 8 .w64) (v 300 .w64) (v 200 .w32)),
    (0x1C3003808E4B28C8, .putm .always (v 8 .w64) (v 300 .w64) (v 200 .w32)),
    (0x1C4E27808E4B28C8, .get (.on true 2 9) (v 8 .w64) (v 300 .w64) (v 200 .w32)),
    (0x1C5002828A320000, .wcntW .always (v 40 .w32) (v 200 .w32)),
    (0x1C5002828000200E, .wcntDone .always (v 40 .w32) 14),
    (0x1C50028280003007, .wcntRef .always (v 40 .w32) 7),
    (0x1C6002828A320000, .wwaitW .always (v 40 .w32) (v 200 .w32)),
    (0x1C6002828000200F, .wwaitSnd .always (v 40 .w32) 15),
    (0x1C700008BE023016, .rsend .always (v 139 .w4) (v 8 .w64) 3 (.slice 22))] := by decide
theorem test_decode_l2 : Decodes [
    (0x1C8002828A320000, .rwait .always (v 40 .w32) (v 200 .w32)),
    (0x1C9E24000A0A28C8, .radv (.on true 2 9) (v 40 .w32) (v 200 .w32))] := by decide
theorem test_decode_m : Decodes [
    (0x1E0003808E4B0000, .kvmap .always (v 8 .w64) (v 300 .w64)),
    (0x1E100008BA0A2000, .kvalloc .always (v 139 .w4) (v 40 .w32) true),
    (0x1E200008BA0A0000, .kvfree .always (v 139 .w4) (v 40 .w32)),
    (0x1E300008BA0A28C8, .kvfork .always (v 139 .w4) (v 40 .w32) (v 200 .w32)),
    (0x1E400008BE0228C8, .kvapp .always (v 139 .w4) (v 8 .w64) (v 200 .w32)),
    (0x1E59FC08BA0A28C8, .kvcommit (.on false 1 63) (v 139 .w4) (v 40 .w32) (v 200 .w32)),
    (0x1E600008BA0A28C8, .kvtrim .always (v 139 .w4) (v 40 .w32) (v 200 .w32)),
    (0x1E700008BE0228C8, .attn .always (v 139 .w4) (v 8 .w64) (v 200 .w32)),
    (0x1E80000ACA320000, .attnwait .always ⟨2, 44⟩ (v 200 .w32))] := by decide
theorem test_decode_n1 : Decodes [
    (0x20000008BE02392C, .grinit .always (v 139 .w4) (v 8 .w64) (v 300 .w64)),
    (0x20100008BA0A28C8, .grmask .always (v 139 .w4) (v 40 .w32) (v 200 .w32)),
    (0x20200008BE02005F, .gradv .always (v 139 .w4) (v 8 .w64) ⟨1, 31⟩),
    (0x20300008BA0A001F, .grckptSave .always (v 139 .w4) (v 40 .w32) 31),
    (0x20300008BA0A0030, .grckptRel .always (v 139 .w4) (v 40 .w32) 16),
    (0x20300008BA0A0040, .grckptRelall .always (v 139 .w4) (v 40 .w32)),
    (0x20400008BA0A001D, .grroll .always (v 139 .w4) (v 40 .w32) 29),
    (0x20500008BA0A0000, .grfork .always (v 139 .w4) (v 40 .w32)),
    (0x206003808A0A0001, .grstat .always (v 8 .w64) (v 40 .w32) true),
    (0x20700008BA0A28C8, .squash .always (v 139 .w4) (v 40 .w32) (v 200 .w32)),
    (0x20800008BE020000, .sqsetTag .always (v 139 .w4) (v 8 .w64)),
    (0x20800008BE021000, .sqsetEntry .always (v 139 .w4) (v 8 .w64))] := by decide
theorem test_decode_n2 : Decodes [
    (0x20800008B0002000, .sqsetOff .always (v 139 .w4)),
    (0x20800008B0003000, .sqsetUnreg .always (v 139 .w4)),
    (0x209002060E022828, .rng .always (v 96 .w24) (v 8 .w64) (v 40 .w32))] := by decide
theorem test_decode_o : Decodes [
    (0x220003808E4B0000, .launch .always (v 8 .w64) (v 300 .w64)),
    (0x221002828E020000, .ldepAdd .always (v 40 .w32) (v 8 .w64)),
    (0x2210028280002000, .ldepGo .always (v 40 .w32)),
    (0x222003808A0A0000, .lquery .always (v 8 .w64) (v 40 .w32)),
    (0x223002828E020000, .seqadm .always (v 40 .w32) (v 8 .w64)),
    (0x22400008BA0A0000, .seqret .always (v 139 .w4) (v 40 .w32)),
    (0x225003808A0A0002, .seqinfo .always (v 8 .w64) (v 40 .w32) .stream)] := by decide
theorem test_decode_p : Decodes [
    (0x240E240000003FFF, .trap (.on true 2 9) 0x3FFF),
    (0x2410000000000000, .tret .always),
    (0x2410000000000001, .tretSkip .always),
    (0x2420038080000208, .sysrd .always (v 8 .w64) 0x208),
    (0x243000000E020103, .syswr .always (v 8 .w64) 0x103),
    (0x2440000000002001, .bkpt .always 0x2001),
    (0x245003808E4B00FE, .hcall .always (v 8 .w64) (v 300 .w64) 0xFE),
    (0x246002828E020FFF, .xinv .always (v 40 .w32) (v 8 .w64) 0xFFF),
    (0x2460000000001000, .xinvAll .always),
    (0x2470000000000407, .fmodeSet .always 0x407),
    (0x24700000000017C0, .fmodeClr .always 0x7C0),
    (0x2470000000002001, .fmodeWr .always 0x001)] := by decide

/-! ## Words that decode refuses (0x01) and ill-formed terms, one for each check -/

/-- An unassigned opcode, a must-be-zero field that is not zero, a guard's must-be-zero bits, and an out-of-range field. -/
theorem test_decode_refuses : decode 0xFFF0000000000000 = none ∧ decode 0x2400000010001234 = none ∧ decode 0x00400008B0050000 = none ∧
    decode 0x1400000000000000 = none ∧ decode 0x04000A800AF86800 = none := by decide

/-- A term refused for its fields alone: its operands are in order. -/
abbrev FieldsRefused (l : List Instr) : Prop := ∀ i ∈ l, i.fieldsOk = false ∧ i.uses.all Use.ok = true ∧ i.wf = false

theorem test_wf_fields_ab : FieldsRefused [
    .smove .always (v 0 .w4) (v 300 .w4) 0, .smove .always (v 0 .w4) (v 300 .w4) 257, .loop 121 (v 0 .w32) 0, .endloopBrk 4 1,
    .endloopBrk 0 0, .ixset .always (v 0 .w32) (sp (.index 0) .w4) 8192, .spill .always (v 0 .w4) 0, .fill .always (v 0 .w4) 0,
    .bfx .always (v 0 .w32) (v 8 .w32) false 31 33, .bfi .always (v 0 .w32) (v 8 .w32) 16 16] := by decide

theorem test_wf_fields_rest : FieldsRefused [
    .bcast .all (v 0 .w32) (v 8 .w32) true 1, .pref .always .w4 (v 0 .w64) 0 0, .pref .always .w12 (v 0 .w64) 0 0, .fence 0,
    .pld (v 0 .w32) (v 40 .w32) 0 1 true .f32, .prfn (v 0 .w32) (v 40 .w32) 0 1 true, .pst (v 0 .w32) (v 40 .w32) 0 1 true,
    .pdrop (v 40 .w32) 0, .atom .always (v 0 .w32) (v 8 .w64) .ld true 0, .atom .always (v 0 .w32) (v 8 .w64) .st false 0,
    .wreg .always (v 0 .w32) (v 8 .w64) .glob true true 7, .fmodeSet .always 0x008, .fmodeClr .always 0x010, .fmodeWr .always 0x020] :=
  by decide

/-- IXSTEP's width bit tells its two forms apart, and is judged with the operand's rule. -/
theorem test_wf_ixstep : ∀ i ∈ [Instr.ixstepAdd .always (sp (.index 0) .w8) (v 0 .w32) 0, .ixstepSet .always (sp (.index 0) .w4) (v 0 .w32) 0],
    i.fieldsOk = false ∧ i.wf = false := by decide

/-- A term refused for the selector of an operand: a reserved selector, a source with X on a special, a destination that is a special,
a memory destination with X, an affine operand that is a slice, an address that is a special. -/
theorem test_wf_selector : ∀ i ∈ [Instr.mov .always (v 0 .w32) (sp (.reserved 0) .w32), .mov .always (v 0 .w32) { w := .w32, x := true, sel := .lane },
    .mov .always (sp .zero .w32) (v 0 .w32), .lds .always (vx 0 .w32) (v 8 .w64) 0, .amov .always (v 0 .w64) (v 8 .w64) (v 24 .w32),
    .lds .always (v 0 .w32) (sp .lane .w64) 0], i.fieldsOk = true ∧ i.uses.all Use.selOk = false ∧ i.wf = false := by decide

/-- A term refused for an operand's width. -/
theorem test_wf_width : ∀ i ∈ [Instr.movhi .always (v 0 .w16) 1, .fadd .always (v 0 .w16) (v 8 .w32) (v 16 .w32),
    .lds .always (v 0 .w12) (v 8 .w64) 0, .popc .always (v 0 .w4) (v 8 .w64)],
    i.fieldsOk = true ∧ i.uses.all Use.widthOk = false ∧ i.wf = false := by decide

/-- A term refused for slices above 959, and the last one that fits. -/
theorem test_wf_range : (Instr.mov .always (v 953 .w32) (v 0 .w32)).uses.all Use.rangeOk = false ∧
    (Instr.mov .always (v 953 .w32) (v 0 .w32)).wf = false ∧ (Instr.mov .always (v 952 .w32) (v 0 .w32)).wf = true := by decide

end Tests
end Sys2Proof
end

