-- ==== Sys2Proof/Tests/Behaviour.lean ====
section
/-! SUPPORT. One word on a small state, with the results that the spec's own tables of examples state. -/

namespace Sys2Proof
namespace Tests
open Machine Host

set_option Elab.async false

/-- The issue of a one-word chain at 0x1000 for the eight lanes of the query's group. -/
def baseIssue : Issue :=
  { (default : Issue) with iss := 1, lanes := List.range 8, pc := 0x1000, wordAddr := 0x1000, nextPc := 0x1008, runPc := 0x1000,
                           skipPc := 0x1008 }

/-- The query's state as a meaning begins in it. -/
def base : State := { State.reset.withFetchWord 64 0 with issue := baseIssue }

/-- Every lane's slices from n hold x at a width, as a known pending write. -/
def fill (n : Nat) (w : Width) (x : Nat → Nat) (s : State) : State :=
  { s with threads := s.threads.map fun th =>
      th.addPend { id := 0, slices := List.range' n w.slices, vals := sliceVals w.slices (BitVec.ofNat 64 (x th.lane)), known := true } }

/-- The same value in every lane. -/
def all (n : Nat) (w : Width) (x : Nat) : State → State := fill n w fun _ => x

/-- What an instruction answers as its next state. -/
def did (i : Instr) (s : State) : State := match exec i s with | .next t => t | _ => default

/-- A lane's value in program order. -/
def get (s : State) (l n : Nat) (w : Width) : Nat := (sliceWord ((List.range' n w.slices).map (s.lt l).slice)).toNat

/-- What `i` leaves in v0 at a width, in lane 0, from sources in v8 and v16. -/
def on2 (i : Instr) (w wa wb : Width) (a b : Nat) : Nat := get (did i (all 24 wb b (all 8 wa a base))) 0 0 w

/-- Table 4.6: the edges of class B. -/
theorem test_integer_edges :
    on2 (.iadds .always (v 0 .w8) (vx 8 .w8) (vx 24 .w8)) .w8 .w8 .w8 0x70 0x20 = 0x7F ∧
    on2 (.iadds .always (v 0 .w8) (v 8 .w8) (vx 24 .w8)) .w8 .w8 .w8 0xF0 0xE0 = 0xD0 ∧
    on2 (.iadds .always (v 0 .w8) (v 8 .w8) (v 24 .w8)) .w8 .w8 .w8 0xF0 0x20 = 0xFF ∧
    on2 (.isubs .always (v 0 .w8) (v 8 .w8) (v 24 .w8)) .w8 .w8 .w8 0x10 0x20 = 0x00 ∧
    on2 (.imulh .always (v 0 .w8) (vx 8 .w8) (vx 24 .w8)) .w8 .w8 .w8 0xFF 0x02 = 0xFF ∧
    on2 (.imulh .always (v 0 .w8) (v 8 .w8) (v 24 .w8)) .w8 .w8 .w8 0xFF 0x02 = 0x01 ∧
    on2 (.imin .always (v 0 .w8) (vx 8 .w8) (v 24 .w8)) .w8 .w8 .w8 0xFF 0x05 = 0xFF ∧
    on2 (.imin .always (v 0 .w8) (v 8 .w8) (v 24 .w8)) .w8 .w8 .w8 0xFF 0x05 = 0x05 ∧
    on2 (.iabs .always (v 0 .w8) (v 8 .w8)) .w8 .w8 .w8 0x80 0 = 0x80 := by decide +kernel

theorem test_shift_and_count_edges :
    on2 (.sar .always (v 0 .w8) (v 8 .w8) (.imm 9)) .w8 .w8 .w8 0x80 0 = 0xFF ∧
    on2 (.rot .always (v 0 .w12) (v 8 .w12) (.imm 13)) .w12 .w12 .w8 0x801 0 = 0x003 ∧
    on2 (.clz .always (v 0 .w8) (v 8 .w24)) .w8 .w24 .w8 0 0 = 0x18 ∧
    on2 (.bfx .always (v 0 .w8) (v 8 .w16) true 3 4) .w8 .w16 .w8 0x00A0 0 = 0xFA ∧
    (Instr.clz .always (v 0 .w4) (v 8 .w24)).wf = false := by decide +kernel

/-- Table 3.3: reads of the slices 0xFEDC5A… that Table 3.1's chains leave, into 32-bit and 16-bit destinations. -/
theorem test_operand_reads :
    let s := all 44 .w8 0x5A (all 56 .w64 0xFEDCBA9876543210 (all 40 .w64 0xFEDCBA9876543210 base))
    let r := fun (a : Operand) (w : Width) => get (did (.mov .always (v 0 w) a) s) 0 0 w
    r (v 44 .w32) .w32 = 0xBA98765A ∧ r (vx 50 .w8) .w32 = 0xFFFFFFBA ∧ r (v 40 .w16) .w32 = 0x00003210 ∧
    r (vx 42 .w16) .w32 = 0x00005A32 ∧ r (vx 44 .w4) .w32 = 0xFFFFFFFA ∧ r (vx 46 .w16) .w32 = 0xFFFF9876 ∧
    r (v 48 .w64) .w16 = 0xBA98 := by decide +kernel

/-- Tables 16.12 and 8.5's width: RNG with seed 0, stream 0, counter 1. -/
theorem test_rng :
    on2 (.rng .always (v 0 .w32) (v 8 .w64) (v 24 .w32)) .w32 .w64 .w32 0 1 = 0x68B8A37E ∧
    on2 (.rng .always (v 0 .w24) (v 8 .w64) (v 24 .w32)) .w24 .w64 .w32 0 1 = 0x68B8A3 ∧
    on2 (.rng .always (v 0 .w32) (v 8 .w64) (v 24 .w32)) .w32 .w64 .w32 0 0 = 0 := by decide +kernel

/-- v0 and FFLAGS in lane 0 after a class D word. -/
def fp2 (i : Instr) (w : Width) (a b : Nat) : Nat × Nat :=
  let t := did i (all 24 .w32 b (all 8 .w32 a base))
  (get t 0 0 w, (t.lt 0).fflags.toNat)

/-- The table of class D's edges in 06: flags are NV 16, DZ 8, OF 4, UF 2, NX 1. -/
theorem test_float_edges :
    fp2 (.fadd .always (v 0 .w32) (v 8 .w32) (v 24 .w32)) .w32 0x7F7FFFFF 0x7F7FFFFF = (0x7F800000, 5) ∧
    fp2 (.fmul .always (v 0 .w32) (v 8 .w32) (v 24 .w32)) .w32 0x00800000 0x3F000000 = (0x00400000, 0) ∧
    fp2 (.fmul .always (v 0 .w32) (v 8 .w32) (v 24 .w32)) .w32 0x3F800001 0x3F800001 = (0x3F800002, 1) ∧
    fp2 (.fmin .always (v 0 .w32) (v 8 .w32) (v 24 .w32)) .w32 0x7F800001 0x40400000 = (0x40400000, 16) ∧
    fp2 (.fmin .always (v 0 .w32) (v 8 .w32) (v 24 .w32)) .w32 0x80000000 0x00000000 = (0x80000000, 0) ∧
    fp2 (.fexp2 .always (v 0 .w32) (v 8 .w32)) .w32 0x43000000 0 = (0x7F800000, 5) ∧
    fp2 (.flog2 .always (v 0 .w32) (v 8 .w32)) .w32 0 0 = (0xFF800000, 8) ∧
    fp2 (.frsq .always (v 0 .w32) (v 8 .w32)) .w32 0xBF800000 0 = (0x7FC00000, 16) := by decide +kernel

theorem test_float_conversions :
    fp2 (.fclass .always (v 0 .w16) (v 8 .w32)) .w16 1 0 = (0x20, 0) ∧
    fp2 (.cvtfi .always (v 0 .w8) (v 8 .w32) true .rtz) .w8 0x43000000 0 = (0x7F, 16) ∧
    fp2 (.cvtfi .always (v 0 .w8) (v 8 .w32) false .rtz) .w8 0xBE99999A 0 = (0x00, 1) ∧
    fp2 (.cvtif .always (v 0 .w32) (vx 8 .w32) .rne) .w32 0x01000001 0 = (0x4B800000, 1) := by decide +kernel

/-- FMODE's RND and FTZ in the same table. -/
theorem test_float_modes :
    let m := fun (f : Nat) (s : State) => { s with groups := s.groups.map fun g => { g with fmode := BitVec.ofNat 11 f } }
    let r := fun (i : Instr) (f a b : Nat) =>
      let t := did i (m f (all 24 .w32 b (all 8 .w32 a base)))
      (get t 0 0 .w32, (t.lt 0).fflags.toNat)
    r (.fadd .always (v 0 .w32) (v 8 .w32) (v 24 .w32)) 1 0x7F7FFFFF 0x7F7FFFFF = (0x7F7FFFFF, 5) ∧
    r (.fadd .always (v 0 .w32) (v 8 .w32) (v 24 .w32)) 2 0x3F800000 0xBF800000 = (0x80000000, 0) ∧
    r (.fmul .always (v 0 .w32) (v 8 .w32) (v 24 .w32)) 4 0x00800000 0x3F000000 = (0x00000000, 3) ∧
    (let t := did (.ffma .always (v 0 .w32) (v 8 .w32) (v 24 .w32))
      (all 24 .w32 0x3F800001 (all 8 .w32 0x3F800001 (all 0 .w32 0xBF800002 base)))
     (get t 0 0 .w32, (t.lt 0).fflags.toNat) = (0x28800000, 0)) := by decide +kernel

/-- Table 4.9 with eight lanes: a full AMOV, and ALEA from the promoted register. -/
theorem test_affine_pair :
    let s := all 36 .w8 2 (all 48 .w32 0x40 (all 8 .w64 0x0000010000002000 base))
    let t := did (.amov .always (sp (.affine 0) .w64) (v 8 .w64) (v 48 .w32)) s
    let u := did (.alea .always (v 40 .w64) (v 36 .w8) 0 3) { t with issue := baseIssue }
    t.affVal 0 0 = 0x0000010000002000 ∧ t.affVal 3 0 = 0x00000100000020C0 ∧ get u 3 40 .w64 = 0x00000100000020D0 := by decide +kernel

/-- Table 4.9 and 4.11 with eight lanes: a guarded AADD demotes a backed register and diverges on one without backing. -/
theorem test_affine_demotes :
    let r := { queryLaunch with aback := 1 }
    let g := fun (s : State) => { s with grids := s.grids.map fun g => { g with lr := r } }
    let s := fill 1 .w4 (fun l => if l < 4 then 1 else 0) (all 24 .w16 0x100 (all 48 .w32 0x40 (all 8 .w64 0x0000010000002000 (g base))))
    let i := fun (n : Fin 16) => Instr.aadd (.on false 0 1) (sp (.affine n) .w64) (sp (.affine n) .w64) (v 24 .w16)
    let a := fun (n : Fin 16) => did (.amov .always (sp (.affine n) .w64) (v 8 .w64) (v 48 .w32)) s
    let t := did (i 0) { a 0 with issue := baseIssue }
    let u := did (i 1) { a 1 with issue := baseIssue }
    (t.affVal 0 0 = 0x0000010000002100 ∧ t.affVal 3 0 = 0x00000100000021C0 ∧ t.affVal 4 0 = 0x0000010000002100) ∧
    get (did (.aget .always (v 32 .w4) (sp (.affine 0) .w64) .form) { t with issue := baseIssue }) 7 32 .w4 = 1 ∧
    ((u.grid 0).fatal.map (fun f => (f.cause, f.tpc.toNat, f.tinfo.toNat)) = some (0x17, 0x1000, 1) ∧ u.affVal 0 1 = 0x0000010000002000) := by decide +kernel

/-- Table 5.5: the example's scale and elements, and what they stand for (R129, R131). -/
theorem test_mx_block :
    let f := fun (x : Nat) => fp32.decode x
    let vs := [f 0x3F400000, f 0xBEA00000, f 0x3DC00000, f 0x3D000000, f 0xBF380000, f 0x3EE00000, f 0x80000000, f 0x3E200000]
    mxExp e2m1 vs + 127 = 0x7C ∧ vs.map (fun x => (mxElem e2m1 (mxExp e2m1 vs) x).1) = [7, 0xC, 2, 0, 0xF, 6, 8, 2] ∧
    (fp32.convert .rne false (mxValue e2m1 0x7C 0xF)).1 = 0xBF400000 ∧ (fp32.convert .rne false (mxValue e2m1 0x7C 8)).1 = 0x80000000 :=
  by decide +kernel

/-- Tables 5.7 and 5.8: the block's exponent and magnitudes, and its held values at tags 0 to 4 (R136, R137). -/
theorem test_plane_block :
    let f := fun (x : Nat) => fp32.decode x
    let vs := [f 0x3FB00000, f 0xBF400000, f 0x3E000000, f 0x80000000]
    let h := fun (s : Bool) (m h : Nat) => (fp32.convert .rne false (planeHeld s 0x7F 4 (m / 2 ^ (4 - h)) h)).1
    planeExp vs = 0x7F ∧ vs.map (planeMag 4 0x7F) = [11, 6, 1, 0] ∧
    (List.range 5).map (h false 11) = [0x3F800000, 0x3FC00000, 0x3FA00000, 0x3FB00000, 0x3FB00000] ∧
    (List.range 5).map (h true 6) = [0xBF800000, 0xBF000000, 0xBF400000, 0xBF600000, 0xBF400000] ∧
    (List.range 5).map (h true 0) = [0xBF800000, 0xBF000000, 0xBE800000, 0xBE000000, 0x80000000] := by decide +kernel

/-- Table 8.5: what SAMPLE chooses for three uniforms, and with four participants (R208). -/
theorem test_sample :
    let ws : List (Option W32) := [some 0x3F000000, some 0, some 0x40000000, some 0xBF800000, some 0x3FC00000, some 0x3E800000, some 0,
      some 0x40700000]
    sampleResult ws 0x4C0000 = 0x0000000300000002 ∧ sampleResult ws 0x880000 = 0x0000000300000007 ∧
    sampleResult ws 0 = 0x0000000300000000 ∧ sampleResult (ws.take 4 ++ List.replicate 4 none) 0x880000 = 0x0000000300000002 :=
  by decide +kernel

/-- Table 9.12: MODE 1 places the example's elements (R230). -/
theorem test_swizzle : [0x1000, 0x1500, 0x2F00, 0x1004, 0x1504, 0x2F04].map (permAddr · 1) =
    [0x1040, 0x1554, 0x2FBC, 0x1044, 0x1550, 0x2FB8] := by decide +kernel

/-- A store and a load of the scratchpad: the access issues, is performed, and delivers the bytes in R3's order. -/
theorem test_store_then_load :
    let t := did (.sts .always (v 40 .w32) (sp .zero .w64) 4) (fill 40 .w32 (fun l => if l = 7 then 0x12345678 else 0) base)
    let u := did (.storePerformed ((t.accs.getLastD default).id)) { t with accs := t.accs.drop 7 }
    let w := did (.lds .always (v 0 .w16) (sp .zero .w64) 9) { u with issue := baseIssue }
    let x := did (.loadDataReturn ((w.accs.headD default).id)) w
    t.accs.map (fun a => (a.thread, a.addr, a.len)) = (List.range 8).map (fun l => (l, 16, 4)) ∧
    (u.team 0).scratch.bytes = [(16, 0x78), (17, 0x56), (18, 0x34), (19, 0x12)] ∧ get x 0 0 .w16 = 0x1234 := by decide +kernel

/-- A trap with the pc, code and cause saved, and the return to the chain that trapped (R443, R462, R463). -/
theorem test_trap_and_return :
    let t := did (.trap (.on false 0 1) 0x3FFF) (fill 1 .w4 (fun l => if l = 3 then 1 else 0) base)
    let u := did (.tret .always) { t with issue := { baseIssue with lanes := [3] } }
    let w := did (.tretSkip .always) { t with issue := { baseIssue with lanes := [3] } }
    ((t.group 0).tset, (t.group 0).tcause, (t.group 0).tinfo) = (8, 0x11, 0x3FFF) ∧
    ((t.thread 3).pc, (t.thread 3).tpc, (t.thread 3).tnpc) = (0x2000, 0x1000, 0x1008) ∧ (t.thread 2).pc = 0x1000 ∧
    ((u.thread 3).pc, (u.group 0).tset) = (0x1000, 0) ∧ (w.thread 3).pc = 0x1008 := by decide +kernel

/-- A trap while the trap set holds another lane is deferred, and one of a lane inside it ends the grid as nested (R444, R446). -/
theorem test_traps_while_one_is_handled :
    let s := { base with groups := base.groups.map fun (g : Group) => { g with tset := 1, tcause := 0x11 } }
    let t := did (.trap .always 5) { s with issue := { baseIssue with lanes := [2] } }
    let u := did (.trap .always 5) { s with issue := { baseIssue with lanes := [0] } }
    (t.thread 2).wait = .deferred ∧ (t.group 0).tset = 1 ∧
    ((u.grid 0).fatal.map fun f => (f.cause, f.tinfo)) = some (0x1F, 0x1111) := by decide +kernel

/-- A division by zero raises DZ and delivers infinity; with FMODE.TDZ set it traps with 0x0D and writes nothing (R150, R162). -/
theorem test_enabled_float_exception :
    let s := all 8 .w32 0 (all 0 .w32 0x11111111 base)
    let m := fun (f : BitVec 11) => { s with groups := s.groups.map fun g => { g with fmode := f } }
    let i := Instr.frcp .always (v 0 .w32) (v 8 .w32)
    (get (did i s) 0 0 .w32, ((did i s).lt 0).fflags) = (0x7F800000, 8) ∧
    (get (did i (m 0x200)) 0 0 .w32, ((did i (m 0x200)).lt 0).fflags, ((did i (m 0x200)).group 0).tcause) = (0x11111111, 0, 0x0D) := by
  decide +kernel

/-- A LOOP of two trips: the level, the frame and the start address; ENDLOOP repeats, then leaves with everything put back. -/
theorem test_loop :
    let s := all 0 .w8 2 base
    let t := did (.loop 2 (v 0 .w8) 5) s
    let u := did .endloop { t with issue := { baseIssue with pc := 0x1030, nextPc := 0x1038 } }
    let w := did .endloop { u with issue := { baseIssue with pc := 0x1030, nextPc := 0x1038 } }
    ((t.thread 0).lvl, (t.thread 0).fb, (t.thread 0).ls.headD 0) = (1, 16, 0x1008) ∧ ((u.thread 0).pc, (u.thread 0).lvl) = (0x1008, 1) ∧
    ((w.thread 0).lvl, (w.thread 0).fb) = (0, 0) := by decide +kernel

/-- A guarded word leaves the other lanes' slices as they are (R42), and a bit of a predicate slice is written alone (R110). -/
theorem test_guard_and_predicate :
    let s := fill 2 .w4 (fun l => if l = 0 then 2 else 0) (all 8 .w32 5 (all 40 .w32 0x11111111 base))
    let t := did (.iadd (.on false 1 2) (v 40 .w32) (v 8 .w32) (sp .ones .w32)) s
    let u := did (.icmp .always .lt .set ⟨3, 2⟩ (sp .lane .w8) (v 8 .w8)) s
    (get t 0 40 .w32, get t 1 40 .w32) = (4, 0x11111111) ∧ (get u 0 2 .w4, get u 4 2 .w4, get u 5 2 .w4) = (10, 8, 0) := by decide +kernel

/-- AES-256 of FIPS 197's example, and test case 14 of the GCM examples of NIST. -/
theorem test_gcm :
    beNat (aesEncrypt (aesRoundKeys ((List.range 32).map fun i => BitVec.ofNat 8 i)) ((List.range 16).map fun i => BitVec.ofNat 8 (17 * i))) =
      0x8EA2B7CA516745BFEAFC49904B496089 ∧
    (let z := fun n => List.replicate n (0 : Byte)
     let c := gcmStream (z 32) (z 12) (z 16)
     beNat c = 0xCEA7403D4D606B6E074EC5D3BAF39D18 ∧ beNat (gcmTag (z 32) (z 12) [] c) = 0xD0D1C8A799996BF0265B98B5D48AB919) := by decide +kernel

/-- The four methods of Table 14.15; a tie goes to the lower one (R359). -/
theorem test_link_methods :
    let z := fun n => List.replicate n (0 : Byte)
    compress (z 8) = (1, []) ∧ compress [1, 2, 3, 4, 1, 2, 3, 4] = (2, [1, 2, 3, 4]) ∧ compress [1, 2, 3, 4] = (0, [1, 2, 3, 4]) ∧
    compress (z 4 ++ [5, 6, 7, 8] ++ z 16) = (3, [2, 0, 0, 0, 0, 0, 0, 0, 5, 6, 7, 8]) ∧
    linkBytes 3 24 [2, 0, 0, 0, 0, 0, 0, 0, 5, 6, 7, 8] = z 4 ++ [5, 6, 7, 8] ++ z 16 := by decide +kernel

/-- The capability list begins at offset 0 (R458), whatever the order of its records. -/
theorem test_capability_list : (capList.head?).map (·.2) = some 0 ∧ capList.length = 8 := ⟨rfl, rfl⟩

/-- Out of reset one step boots the module's firmware, and the query's word runs as the first instruction after it. -/
theorem test_step_runs_the_word :
    (match Machine.step (State.reset.withFetchWord 64 0x0020028081234567) with | .next t => get t 7 8 .w32 | _ => 0) = 0x1234567 := by
  decide +kernel

end Tests
end Sys2Proof
end

