-- ==== Sys2Proof/Tests/Witnesses.lean ====
section
/-! SUPPORT. Witnesses: concrete states and operands that meet the hypotheses of the obligations, clause by clause, at values where the
clauses meet. -/

namespace Sys2Proof
namespace Tests
open Machine Host

set_option Elab.async false

/-! ## The states -/

/-- A format slot. -/
def fslot (elem logblk scale planes : Nat) : FmtSlot :=
  { elem := BitVec.ofNat 8 elem, logblk := BitVec.ofNat 8 logblk, scale := BitVec.ofNat 8 scale, rnd := 0, sat := false, planes := BitVec.ofNat 8 planes }

/-- A launch with slots (0: E4M3, 1: MX E2M1, 2: planes, 3: FP16), scratchpad, cluster memory and backing. -/
def bedLaunch (wcode : BitVec 2) : LaunchRec :=
  { queryLaunch with wcode, aback := 2, cmem := 4, scr := 256, nbar := 4, mxu := true,
                     slots := [fslot 4 0 0 0, fslot 6 5 1 0, fslot 0x10 5 0 4, fslot 2 0 0 0] }

/-- A page table that maps addresses below 2 MiB to HBM4 from 2 MiB on with every permission (Table 9.4). -/
def pageTable : Memory :=
  [(0x1000, 0x01), (0x1001, 0x20), (0x2000, 0x01), (0x2001, 0x30), (0x3000, 0x01), (0x3001, 0x40), (0x4000, 0x1F), (0x4002, 0x20)]

/-- A plane tensor record at address 0x8000: 2 stripes of 4 planes, of which planes may be dropped (Table 5.9). -/
def planeRecord : Memory :=
  [(0x208002, 0x01), (0x208009, 0x10), (0x20800A, 0x01), (0x208011, 0x20), (0x208012, 0x01), (0x208018, 0x80), (0x208020, 2), (0x208024, 0x14)]

/-- One group of 8 × 2^wcode lanes at the beginning of a meaning, with memory mapped and a window table. -/
def bed (wcode : BitVec 2) : State :=
  { base with
    grids := [{ newGrid (bedLaunch wcode) 1024 0 0 0 [] with ready := true, nextCl := 1 }]
    groups := [newGroup (bedLaunch wcode) 0 0 0 0]
    threads := (List.range (8 * 2 ^ wcode.toNat)).map fun l => newThread (bedLaunch wcode) 0 l l
    hbm := { bytes := pageTable ++ planeRecord, pz := [] }
    roots := [(0, some 0x1000)]
    aregs := [(0x300, BitVec.ofNat 64 (2 ^ 32)), (0x302, 1)]
    issue := { baseIssue with lanes := List.range (8 * 2 ^ wcode.toNat) } }

theorem test_bed_wf : base.memsWf = true ∧ (bed 0).memsWf = true ∧ (bed 0).begun = true ∧ (bed 2).begun = true ∧ (bed 2).whole = true := by
  decide +kernel

/-- An option of which something holds is that of some value. -/
theorem exists_of_any {α : Type} {o : Option α} {p : α → Bool} (h : o.any p = true) : ∃ x, o = some x ∧ p x = true := by
  cases o <;> simp_all

/-- A step's outcome. -/
def after (i : Instr) (s : State) : State := { did i s with issue := s.issue }

/-! ## Words that need only lanes without operand faults -/

theorem test_wit_classes_abc : ∀ i ∈ [Instr.mov .always (v 0 .w32) (v 8 .w32), .movi .always (v 0 .w32) 5, .movhi .always (v 0 .w32) 5,
    .smove .always (v 0 .w4) (v 8 .w4) 16, .sset .always (v 0 .w4) 9 511, .loop 1 (v 0 .w32) 4, .endloop, .endloopBrk 0 4, .frameadj 1,
    .ixset .always (v 0 .w32) (sp (.index 0) .w4) 4, .ixstepAdd .always (sp (.index 0) .w4) (v 8 .w16) 1,
    .ixstepSet .always (sp (.index 0) .w8) (v 8 .w16) 1, .spill .always (v 0 .w4) 64, .fill .always (v 0 .w4) 64,
    .stashq .always (v 0 .w64) 1, .iadd .always (v 0 .w32) (v 8 .w32) (v 16 .w32), .iadds .always (v 0 .w32) (v 8 .w32) (v 16 .w32),
    .isub .always (v 0 .w32) (v 8 .w32) (v 16 .w32), .isubs .always (v 0 .w32) (v 8 .w32) (v 16 .w32),
    .imul .always (v 0 .w32) (v 8 .w32) (v 16 .w32), .imulh .always (v 0 .w32) (v 8 .w32) (v 16 .w32),
    .imad .always (v 0 .w32) (v 8 .w32) (v 16 .w32), .imin .always (v 0 .w32) (v 8 .w32) (v 16 .w32),
    .imax .always (v 0 .w32) (v 8 .w32) (v 16 .w32), .iabs .always (v 0 .w32) (v 8 .w32), .ineg .always (v 0 .w32) (v 8 .w32),
    .and .always (v 0 .w32) (v 8 .w32) (v 16 .w32), .or .always (v 0 .w32) (v 8 .w32) (v 16 .w32),
    .xor .always (v 0 .w32) (v 8 .w32) (v 16 .w32), .andn .always (v 0 .w32) (v 8 .w32) (v 16 .w32), .not .always (v 0 .w32) (v 8 .w32),
    .shl .always (v 0 .w32) (v 8 .w32) (.imm 3), .shr .always (v 0 .w32) (v 8 .w32) (.imm 3), .sar .always (v 0 .w32) (v 8 .w32) (.imm 3),
    .rot .always (v 0 .w32) (v 8 .w32) (.imm 3), .popc .always (v 0 .w32) (v 8 .w32), .clz .always (v 0 .w32) (v 8 .w32),
    .brev .always (v 0 .w32) (v 8 .w32), .bfx .always (v 0 .w32) (v 8 .w32) false 3 4, .bfx .always (v 0 .w32) (v 8 .w32) true 3 4,
    .bfi .always (v 0 .w32) (v 8 .w32) 3 4, .icmp .always .lt .set ⟨1, 2⟩ (v 8 .w32) (v 16 .w32),
    .sel .always (v 0 .w32) (v 8 .w32) (v 16 .w32), .rng .always (v 0 .w32) (v 8 .w64) (v 24 .w32),
    .amov .always (sp (.affine 1) .w64) (v 8 .w64) (v 24 .w32), .aadd .always (sp (.affine 1) .w64) (sp (.affine 2) .w64) (v 24 .w32),
    .amul .always (sp (.affine 1) .w64) (sp (.affine 2) .w64) (v 24 .w32), .aget .always (v 0 .w64) (sp (.affine 2) .w64) .base,
    .afrom .always (sp (.affine 1) .w64) (v 8 .w64), .alea .always (v 0 .w64) (v 24 .w32) 2 3], base.canRun i = true := by decide +kernel

theorem test_wit_classes_def : ∀ i ∈ [Instr.fadd .always (v 0 .w32) (v 8 .w32) (v 16 .w32), .fsub .always (v 0 .w32) (v 8 .w32) (v 16 .w32),
    .fmul .always (v 0 .w32) (v 8 .w32) (v 16 .w32), .ffma .always (v 0 .w32) (v 8 .w32) (v 16 .w32),
    .fmin .always (v 0 .w32) (v 8 .w32) (v 16 .w32), .fmax .always (v 0 .w32) (v 8 .w32) (v 16 .w32), .fneg .always (v 0 .w32) (v 8 .w32),
    .fabs .always (v 0 .w32) (v 8 .w32), .fcmp .always .lt .set ⟨1, 2⟩ (v 8 .w32) (v 16 .w32), .fclass .always (v 0 .w32) (v 8 .w32),
    .frcp .always (v 0 .w32) (v 8 .w32), .frsq .always (v 0 .w32) (v 8 .w32), .fsqrt .always (v 0 .w32) (v 8 .w32),
    .fexp2 .always (v 0 .w32) (v 8 .w32), .flog2 .always (v 0 .w32) (v 8 .w32), .ftanh .always (v 0 .w32) (v 8 .w32),
    .fscl .always (v 0 .w32) (v 8 .w32) (v 16 .w32), .frnd .always (v 0 .w32) (v 8 .w32) .rne, .cvtfi .always (v 0 .w32) (v 8 .w32) true .rtz,
    .cvtif .always (v 0 .w32) (v 8 .w32) .rne, .bra .always 4, .braLv .always 3 4, .brx .always (v 8 .w64), .call .always (v 0 .w64) 4,
    .callx .always (v 0 .w64) (v 24 .w64), .ret .always (v 8 .w64), .join .always 3, .leave .always 3, .jwait .always 3,
    .mget .always (v 0 .w64) true 3, .mput .always (v 8 .w64) 3, .exit .always, .yield .always 4, .nop .always,
    .shfl .all (v 0 .w32) (v 8 .w32) (v 16 .w32), .shflup .all (v 0 .w32) (v 8 .w32) 1, .shfldn .all (v 0 .w32) (v 8 .w32) 1,
    .shflx .all (v 0 .w32) (v 8 .w32) 1, .bcast .all (v 0 .w32) (v 8 .w32) false 3, .scan .all (v 0 .w32) (v 8 .w32) .add false,
    .reduce .all (v 0 .w32) (v 8 .w32) .add, .ballot .all (v 0 .w32) ⟨1, 2⟩, .prank .all (v 0 .w32) true ⟨1, 2⟩,
    .sample .all (v 0 .w32) (v 8 .w32) (v 16 .w24)], base.canRun i = true := by decide +kernel

theorem test_wit_classes_ghk : ∀ i ∈ [Instr.lds .always (v 0 .w32) (v 8 .w64) 0, .ldc .always (v 0 .w32) (v 8 .w64) 0,
    .ldx .always (v 0 .w32) (v 8 .w64) 0, .sts .always (v 0 .w32) (v 8 .w64) 0, .stc .always (v 0 .w32) (v 8 .w64) 0,
    .stx .always (v 0 .w32) (v 8 .w64) 0, .ldg .always (v 0 .w32) (v 8 .w64) 0 0, .stg .always (v 0 .w32) (v 8 .w64) 0 0,
    .pref .always .w32 (v 8 .w64) 0 0, .l1inv .always (v 0 .w32) (v 8 .w64) 0, .l1invAll .always, .xinv .always (v 0 .w32) (v 8 .w64) 0,
    .xinvAll .always, .fence 1, .fence 7, .phase, .phasea, .phasew, .bart 3, .bart 4, .bartN 0 (sp .ones .w8), .barc 3,
    .atom .always (v 0 .w32) (v 8 .w64) .add false 0, .cas .always (v 0 .w32) (v 8 .w64) (v 24 .w32),
    .atomf .always (v 0 .w32) (v 8 .w64) .fadd true 0, .waitv .always (v 0 .w32) (v 8 .w64) .ge 0,
    .dqpush .always (v 8 .w64) (v 24 .w64) (v 40 .w64), .dqpop .always (v 8 .w64) ⟨1, 2⟩, .dqsteal .always (v 8 .w64) ⟨1, 2⟩,
    .fork .always (v 8 .w64) (v 24 .w64) (v 40 .w64), .tjoin .always (v 8 .w64), .tend .always (v 8 .w64)], base.canRun i = true := by
  decide +kernel

theorem test_wit_classes_lm : ∀ i ∈ [Instr.wreg .always (v 0 .w32) (v 8 .w64) .core true true 8, .wregRe .always (v 0 .w32),
    .wdereg .always (v 0 .w4) (v 8 .w32), .put .always (v 8 .w64) (v 24 .w64) (v 40 .w32), .putm .always (v 8 .w64) (v 24 .w64) (v 40 .w32),
    .get .always (v 8 .w64) (v 24 .w64) (v 40 .w32), .wcntW .always (v 0 .w32) (v 8 .w32), .wcntDone .always (v 0 .w32) 3,
    .wcntRef .always (v 0 .w32) 3, .wwaitW .always (v 0 .w32) (v 8 .w32), .wwaitSnd .always (v 0 .w32) 3,
    .rsend .always (v 40 .w4) (v 8 .w64) 0 (.slice 1), .rwait .always (v 0 .w32) (v 8 .w32), .radv .always (v 0 .w32) (v 8 .w32),
    .kvmap .always (v 0 .w64) (v 24 .w64), .kvalloc .always (v 0 .w4) (v 8 .w32) false, .kvfree .always (v 0 .w4) (v 8 .w32),
    .kvfork .always (v 0 .w4) (v 8 .w32) (v 16 .w32), .kvapp .always (v 0 .w4) (v 8 .w64) (v 24 .w32),
    .kvcommit .always (v 0 .w4) (v 8 .w32) (v 16 .w32), .kvtrim .always (v 0 .w4) (v 8 .w32) (v 16 .w32),
    .attn .always (v 0 .w4) (v 8 .w64) (v 24 .w32), .attnwait .always ⟨1, 2⟩ (v 8 .w32)], base.canRun i = true := by decide +kernel

theorem test_wit_classes_nop : ∀ i ∈ [Instr.grinit .always (v 0 .w4) (v 8 .w64) (v 24 .w64), .grmask .always (v 0 .w4) (v 8 .w32) (v 16 .w32),
    .gradv .always (v 0 .w4) (v 8 .w64) ⟨1, 2⟩, .grckptSave .always (v 0 .w4) (v 8 .w32) 3, .grckptRel .always (v 0 .w4) (v 8 .w32) 3,
    .grckptRelall .always (v 0 .w4) (v 8 .w32), .grroll .always (v 0 .w4) (v 8 .w32) 3, .grfork .always (v 0 .w4) (v 8 .w32),
    .grstat .always (v 0 .w64) (v 24 .w32) true, .squash .always (v 0 .w4) (v 8 .w32) (v 16 .w32), .sqsetTag .always (v 0 .w4) (v 8 .w64),
    .sqsetEntry .always (v 0 .w4) (v 8 .w64), .sqsetOff .always (v 0 .w4), .sqsetUnreg .always (v 0 .w4),
    .launch .always (v 0 .w64) (v 24 .w64), .ldepAdd .always (v 0 .w32) (v 8 .w64), .ldepGo .always (v 0 .w32),
    .lquery .always (v 0 .w64) (v 24 .w32), .seqadm .always (v 0 .w32) (v 8 .w64), .seqret .always (v 0 .w4) (v 8 .w32),
    .seqinfo .always (v 0 .w64) (v 24 .w32) .stream, .trap .always 5, .bkpt .always 5, .tret .always, .tretSkip .always,
    .sysrd .always (v 0 .w64) 0, .syswr .always (v 0 .w64) 0x100, .hcall .always (v 0 .w64) (v 24 .w64) 0, .fmodeSet .always 0x400,
    .fmodeClr .always 0x400, .fmodeWr .always 0x400], base.canRun i = true := by decide +kernel

/-- No exception is enabled, so none that a class D word raises traps (R150). -/
theorem test_wit_fp_not_enabled : ∀ (g : Guard) (r : State → Nat → Word × FFlags),
    ∀ l ∈ base.issue.lanes, base.guardHolds l g = true → (r base l).2 &&& base.fpEnables = 0 := by
  intro g r l _ _
  rw [show base.fpEnables = 0 by decide +kernel]
  exact BitVec.and_zero

/-! ## Loops, frames, index registers -/

/-- One register of every lane changed. -/
def onAll (f : Thread → Thread) (s : State) : State := { s with threads := s.threads.map f }

theorem test_wit_loop : (∀ l ∈ base.issue.lanes, base.src l (v 0 .w32) 32 = 0) ∧
    (let s := onAll (fun th => { th with lvl := 3, fb := 888 }) (all 952 .w32 2 base)
     s.canRun (.loop 1 (v 0 .w32) 4) = true ∧
      ∀ l ∈ s.issue.lanes, (s.lt l).lvl.toNat < 4 ∧ (s.lt l).fb.toNat + 8 * (1 : BitVec 14).toNat ≤ s.fbMax) := by decide +kernel

theorem test_wit_endloop : ∀ c ∈ [1, 2],
    let s := onAll (fun th => { th with lvl := 1, fb := 8, lc := [⟨1, BitVec.ofNat 32 c⟩] }) base
    s.canRun .endloop = true ∧ ∀ l ∈ s.issue.lanes, (s.lt l).lvl ≠ 0 ∧
      (((s.lt l).lc.getD ((s.lt l).lvl.toNat - 1) default).count = 1 →
        8 * ((s.lt l).lc.getD ((s.lt l).lvl.toNat - 1) default).step.toNat ≤ (s.lt l).fb.toNat) := by decide +kernel

theorem test_wit_endloopBrk :
    let s := onAll (fun th => { th with lvl := 4, fb := 32, lc := List.replicate 4 ⟨1, 7⟩ }) base
    s.canRun (.endloopBrk 3 4) = true ∧ ∀ l ∈ s.issue.lanes, 3 + 1 ≤ (s.lt l).lvl.toNat ∧ (Thread.popLevels (3 + 1) (s.lt l)).isSome = true := by
  decide +kernel

theorem test_wit_frameadj : ∀ l ∈ base.issue.lanes,
    (0 ≤ (base.lt l).fb.toNat + 8 * (112 : BitVec 14).toInt ∧ (base.lt l).fb.toNat + 8 * (112 : BitVec 14).toInt ≤ base.fbMax) ∧
    (0 ≤ (base.lt l).fb.toNat + 8 * (0 : BitVec 14).toInt) := by decide +kernel

theorem test_wit_ixset : ∀ l ∈ base.issue.lanes,
    ((base.lt l).locate base.gs (v 0 .w32) 1).headD 0 + 120 * (v 0 .w32).w.slices ≤ base.ir.l.toNat := by decide +kernel

/-! ## Masks, YIELD, class F -/

theorem test_wit_yieldDelayEnd : ((after (.yield .always 4) base).thread 3).wait = .yield 1 := by decide +kernel

/-- Lanes 0 to 3 execute EXIT: lane 4, which waits at mask 2, is freed when it and they were its members, and not when lane 5 was too; a
deferred lane when they were the trap set. -/
def exiting (m : Word) : State :=
  let ths := base.threads.map fun th => { th with wait := if th.lane = 4 then .jwait 2 else if th.lane = 6 then .deferred else .none }
  let gs := base.groups.map fun g => { g with m := g.m.set 2 m, a := g.a.set 2 0x10, tset := 0x0F }
  { base with threads := ths, groups := gs, issue := { base.issue with lanes := [0, 1, 2, 3] } }

theorem test_wit_exit : (exiting 0x1F).canRun (.exit .always) = true ∧ (exiting 0x1F).actors (.exit .always) = 0x0F ∧
    (exiting 0x3F).canRun (.exit .always) = true ∧ (exiting 0x3F).actors (.exit .always) = 0x0F := by decide +kernel

theorem test_wit_exit_frees : exitFrees (exiting 0x1F) 0x0F 4 ∧ exitFrees (exiting 0x1F) 0x0F 6 ∧ ¬ exitFrees (exiting 0x3F) 0x0F 4 := by
  refine ⟨.inl ⟨2, by decide, ?_⟩, .inr ?_, ?_⟩
  · decide +kernel
  · decide +kernel
  · have w : ((exiting 0x3F).lt 4).wait = .jwait 2 := by decide +kernel
    have k : ((exiting 0x3F).ig.a.getD 2 0 &&& ~~~0x0F#64 = (exiting 0x3F).ig.m.getD 2 0 &&& ~~~0x0F#64) → False := by decide +kernel
    rintro (⟨n, -, -, h, -, x⟩ | ⟨-, x⟩) <;> rw [w] at x <;> cases x
    exact k h

theorem test_wit_cross_lane_sets : (∀ l ∈ base.issue.lanes, laneIn base.ig.tset l = false) ∧ base.canRun (.ballot .tset (v 0 .w32) ⟨1, 2⟩) = true := by
  decide +kernel

theorem test_wit_crossLaneComplete :
    let i := Instr.reduce .all (v 0 .w32) (v 8 .w32) .add
    (after i base).crossReady 0 0x1000 = some (i, List.range 8) ∧ i.wf = true := by decide +kernel

/-- The lanes of a group of eight have brought their values to a scan or a sample. -/
theorem test_wit_scan_sample : ∀ i ∈ [Instr.scan .all (v 0 .w32) (v 8 .w32) .max true, .reduce .all (v 0 .w32) (v 8 .w32) .fmin,
      .sample .all (v 0 .w32) (v 8 .w32) (v 16 .w24)],
    let s := after i (fill 8 .w32 (fun l => 0x3F800000 + l) base)
    s.ig.w = 2 ^ 3 ∧ (∀ j < s.ig.w, laneIn 0xFF j = true ∧ (s.brought 0xFF 0 j).isSome = true) ∧
    (∀ j < s.ig.w, truncW Width.w32.bits (scanStart s 0xFF .max (v 0 .w32) (v 8 .w32) j) = scanStart s 0xFF .max (v 0 .w32) (v 8 .w32) j) ∧
    ((s.brought 0xFF 1 0).getD 0).toNat < 2 ^ 24 := by decide +kernel

theorem test_wit_bcast_low : 3 < base.ig.w ∧ laneIn (8 : Word) 3 = true ∧ ∀ k < 3, laneIn (8 : Word) k = false := by decide +kernel

theorem test_wit_prank : base.ig.w ≤ 64 := by decide +kernel

theorem test_wit_integer_scans : (ScanOp.min ≠ .fadd ∧ ScanOp.min ≠ .fmin ∧ ScanOp.min ≠ .fmax) ∧
    ([5, 0xFF, 0x80, 0] : List Word).length = 2 ^ 2 ∧ ([5, 0xFF, 0x80, 0] : List Word).map (truncW Width.w8.bits) = [5, 0xFF, 0x80, 0] := by decide +kernel

end Tests
end Sys2Proof
end

