-- ==== Sys2Proof/Tests/WitnessesMemory.lean ====
section
/-! SUPPORT. Witnesses for the statements about float blocks, affine registers, memory words and accesses that are performed. -/

namespace Sys2Proof
namespace Tests
open Machine Host

set_option Elab.async false

/-! ## Class D with slots (R163, R166) -/

theorem test_wit_cvtf : let s := bed 0
    s.canRun (.cvtfTo .always (v 0 .w8) (v 8 .w32) 0) = true ∧ s.canRun (.cvtfFrom .always (v 0 .w32) (v 8 .w8) 0) = true ∧
    (s.slot 0).plainFp = some e4m3 ∧ (v 0 .w8).w.bits = e4m3.bits ∧ s.fpEnables = 0 := by decide +kernel

theorem test_wit_float_operands : (Fp.nan true).isNan = true ∧ (Fp.fin true 0 0).isZero = true ∧
    ([(fp32, Rnd.rne, false, 3, (-1 : Int)), (e4m3, .rtz, true, 447, 0), (e2m1, .rup, false, 1, -9), (fp16, .rdn, true, 65503, 0)].all
      fun (f, md, n, m, e) => decide (m ≠ 0) && !(f.round md false n m e).ovf) = true := by decide +kernel

theorem test_wit_qblk : let s := bed 2
    s.canRun (.qblk (v 0 .w4) (v 8 .w32) 1 (.slice 40)) = true ∧ (s.slot 1).mx = some e2m1 ∧ (v 0 .w4).w.bits = e2m1.bits ∧ 32 ≤ s.ig.w ∧
    s.whole = true ∧ s.fpEnables = 0 ∧ (∀ l ∈ s.blockLanes, (s.lt l).exited = true ∨ l ∈ s.issue.lanes) ∧
    ∀ l ∈ s.issue.lanes, ∀ p ∈ (s.lt l).locate s.gs (scaleOp (.slice 40)) 2, p ∉ (s.lt l).locate s.gs (v 0 .w4) 1 := by decide +kernel

theorem test_wit_dqblk : let s := bed 2
    s.canRun (.dqblk (v 0 .w32) (v 8 .w4) 1 (.slice 40)) = true ∧ (s.slot 1).mx = some e2m1 ∧ (v 8 .w4).w.bits = e2m1.bits ∧ 32 ≤ s.ig.w ∧
    s.whole = true ∧ s.fpEnables = 0 ∧ s.domain ≠ [] ∧ s.domain.headD 0 ∈ s.issue.lanes := by decide +kernel

/-! ## Class C (R113, R114) -/

/-- Lane 0 and lane 1 alone hold predicate v1.0. -/
def two (s : State) : State := fill 1 .w4 (fun l => if l < 2 then 1 else 0) s

/-- v8:64 in each lane, v24:32 in every lane. -/
def aff2 (x : Nat → Nat) (y : Nat) (s : State) : State := all 24 .w32 y (fill 8 .w64 x s)

theorem test_wit_affine_full : let s := aff2 (fun _ => 0x1000) 4 (bed 0)
    AffineWrite s (.amov .always (sp (.affine 5) .w64) (v 8 .w64) (v 24 .w32)) (sp (.affine 5) .w64) 0 (List.range' 1 7) ∧
    AffineWrite s (.aadd .always (sp (.affine 5) .w64) (sp (.affine 6) .w64) (v 24 .w32)) (sp (.affine 5) .w64) 0 (List.range' 1 7) ∧
    AffineWrite s (.amul .always (sp (.affine 5) .w64) (sp (.affine 6) .w64) (v 24 .w32)) (sp (.affine 5) .w64) 0 (List.range' 1 7) ∧
    s.fullWrite 0 (List.range' 1 7) = true ∧ (amovPair (v 8 .w64) (v 24 .w32) s 0).isSome = true ∧
    (aaddPair (sp (.affine 6) .w64) (v 24 .w32) s 0).isSome = true ∧ (amulPair (sp (.affine 6) .w64) (v 24 .w32) s 0).isSome = true := by
  refine ⟨⟨?_, ?_, ?_, ?_, ?_⟩, ⟨?_, ?_, ?_, ?_, ?_⟩, ⟨?_, ?_, ?_, ?_, ?_⟩, ?_, ?_, ?_, ?_⟩ <;> decide +kernel

theorem test_wit_affine_demotes : let s := two (aff2 (fun l => if l = 1 then 0x80000FFF else 0x1000) 4 (bed 0))
    AffineWrite s (.afrom .always (sp (.affine 1) .w64) (v 8 .w64)) (sp (.affine 1) .w64) 0 (List.range' 1 7) ∧
    affNum (sp (.affine 1) .w64) < s.ir.aback.toNat ∧
    s.offsetsFit (sp (.affine 1) .w64) 0 (List.range' 1 7) (fun l => s.src l (v 8 .w64) 64) ∧
    AffineWrite s (.aadd (.on false 0 1) (sp (.affine 1) .w64) (sp (.affine 6) .w64) (v 24 .w32)) (sp (.affine 1) .w64) 0 [1] ∧
    s.fullWrite 0 [1] = false ∧
    s.offsetsFit (sp (.affine 1) .w64) 0 [1] (aaddVal (sp (.affine 6) .w64) (v 24 .w32) s 0) := by
  refine ⟨⟨?_, ?_, ?_, ?_, ?_⟩, ?_, ⟨?_, ?_⟩, ⟨?_, ?_, ?_, ?_, ?_⟩, ?_, ⟨?_, ?_⟩⟩ <;> decide +kernel

theorem test_wit_affine_diverges : let s := aff2 (fun l => if l = 1 then 0x80001000 else 0x1000) 4 (bed 0)
    AffineWrite s (.afrom .always (sp (.affine 2) .w64) (v 8 .w64)) (sp (.affine 2) .w64) 0 (List.range' 1 7) ∧
    s.ir.aback.toNat ≤ affNum (sp (.affine 2) .w64) ∧
    AffineWrite s (.afrom .always (sp (.affine 1) .w64) (v 8 .w64)) (sp (.affine 1) .w64) 0 (List.range' 1 7) ∧
    affNum (sp (.affine 1) .w64) < s.ir.aback.toNat ∧
    ¬ s.offsetsFit (sp (.affine 1) .w64) 0 (List.range' 1 7) (fun l => s.src l (v 8 .w64) 64) := by
  refine ⟨⟨?_, ?_, ?_, ?_, ?_⟩, ?_, ⟨?_, ?_, ?_, ?_, ?_⟩, ?_, ?_⟩
  all_goals first | decide +kernel | (intro h; exact absurd h.1 (by decide +kernel))

/-! ## Class G (R210, R225–R236) -/

/-- Every lane's v8:64 holds an address. -/
def at8 (a : Nat) (s : State) : State := all 8 .w64 a s

theorem test_wit_local_inside : ∀ x ∈ [(Space.core, 65532), (.cluster, 1020), (.chip, 2 ^ 20 - 4)], let s := at8 x.2 (bed 0)
    (∀ i ∈ [Instr.lds .always (v 0 .w32) (v 8 .w64) 0, .sts .always (v 0 .w32) (v 8 .w64) 0], s.canRun i = true) ∧
    ∀ l ∈ s.issue.lanes, s.localCheck x.1 (memEa (v 0 .w32) (v 8 .w64) 0 s l) 4 false = none ∧
      s.localCheck x.1 (memEa (v 0 .w32) (v 8 .w64) 0 s l) 4 true = none := by decide +kernel

theorem test_wit_local_outside : ∀ x ∈ [(Space.core, 65532), (.cluster, 1020), (.chip, 2 ^ 20 - 4)], let s := at8 x.2 (bed 0)
    ∀ l ∈ s.issue.lanes, s.spaceSize x.1 < memEa (v 0 .w32) (v 8 .w64) 1 s l + 4 := by decide +kernel

/-- Windows at 0x100000: relocated, transposed (2 by 64 words), MX view. -/
def view (xf : Nat) (s : State) : State :=
  { s with aregs := [(0x300, BitVec.ofNat 64 (2 ^ 32)), (0x302, 1), (0x310, BitVec.ofNat 64 (2 ^ 63 + xf * 2 ^ 60 + (if xf = 1 then 2 ^ 58 else 0) + 0x100000)),
    (0x311, 0x10000), (0x312, BitVec.ofNat 64 (if xf = 1 then 64 * 2 ^ 32 + 2 * 2 ^ 16 else if xf = 3 then 0x18000 else 0))] }

theorem test_wit_global : ∀ s ∈ [at8 (2 ^ 57 - 4) (bed 0), at8 0x7E (bed 0), at8 0x100080 (view 0 (bed 0)), at8 0x100010 (view 1 (bed 0))],
    s.canRun (.ldg .always (v 0 .w32) (v 8 .w64) 0 0) = true ∧ s.canRun (.stg .always (v 0 .w32) (v 8 .w64) 0 0) = true ∧
    ∀ l ∈ s.issue.lanes, s.globCheck (memEa (v 0 .w32) (v 8 .w64) 0 s l) 4 false = none ∧
      s.globCheck (memEa (v 0 .w32) (v 8 .w64) 0 s l) 4 true = none ∧ s.globOpen (memEa (v 0 .w32) (v 8 .w64) 0 s l) 4 false ∧
      s.globOpen (memEa (v 0 .w32) (v 8 .w64) 0 s l) 4 true ∧ s.globParts (memEa (v 0 .w32) (v 8 .w64) 0 s l) 4 ≠ [] := by
  unfold State.globOpen
  decide +kernel

theorem test_wit_global_outside : ∀ l ∈ (at8 (2 ^ 57 - 4) (bed 0)).issue.lanes,
    2 ^ 57 < memEa (v 0 .w32) (v 8 .w64) 1 (at8 (2 ^ 57 - 4) (bed 0)) l + 4 := by decide +kernel

theorem test_wit_views : ∀ xf ∈ [2, 3], let s := at8 0x1000FE (view xf (bed 0))
    s.canRun (.ldg .always (v 0 .w32) (v 8 .w64) 0 0) = true ∧ s.canRun (.stg .always (v 0 .w32) (v 8 .w64) 0 0) = true ∧
    ∀ l ∈ s.issue.lanes, s.globCheck (memEa (v 0 .w32) (v 8 .w64) 0 s l) 4 false = none ∧
      s.globCheck (memEa (v 0 .w32) (v 8 .w64) 0 s l) 4 true = none ∧
      ∀ x ∈ splitAt128 (memEa (v 0 .w32) (v 8 .w64) 0 s l) 4, (s.window s.iasid x.1).any (fun w => w.xf == xf &&
        (Calc.mxview w.src w.aux w.ep (x.1 - w.wbase) x.2.1).ranges.all fun y => s.hitOpen false y.1) = true := by decide +kernel

/-- Layout words (R230): base 0x100, S0 16, S1 4, mode 1. -/
def lay8 (s : State) : State := all 24 .w32 0x10000 (all 8 .w64 (0x100 + 16 * 2 ^ 32 + 4 * 2 ^ 48) s)

theorem test_wit_tiles : let s := lay8 (bed 0)
    tileRuns s (.ldt .always (v 40 .w32) (v 8 .w32) 1 0) (v 40 .w32) (v 8 .w32) 2 0 0 false ∧
    tileRuns s (.stt .always (v 40 .w32) (v 8 .w32) 1 0) (v 40 .w32) (v 8 .w32) 2 0 0 true := by
  unfold tileRuns
  decide +kernel

/-- The stash at 0x10000, of one chunk. -/
def stash (p : Word) (s : State) : State := onAll (fun th => { th with stb := 0x10000, stp := p, stl := 0x10020 }) s

theorem test_wit_spill : let s := stash 0x10000 (bed 0)
    s.canRun (.spill .always (v 0 .w4) 65) = true ∧ ∀ l ∈ s.issue.lanes, (s.lt l).stp.toNat + 32 ≤ (s.lt l).stl.toNat ∧
      s.globCheck (s.lt l).stp.toNat 32 true = none ∧ s.hitOpen true (s.lt l).stp.toNat = true := by decide +kernel

theorem test_wit_fill : let s := stash 0x10020 (bed 0)
    s.canRun (.fill .always (v 0 .w4) 65) = true ∧ ∀ l ∈ s.issue.lanes, (s.lt l).stb.toNat + 32 ≤ (s.lt l).stp.toNat ∧
      s.globCheck ((s.lt l).stp.toNat - 32) 32 false = none ∧ s.hitOpen false ((s.lt l).stp.toNat - 32) = true := by decide +kernel

theorem test_wit_stash_faults : (∀ l ∈ (stash 0x10001 (bed 0)).issue.lanes,
      ((stash 0x10001 (bed 0)).lt l).stl.toNat < ((stash 0x10001 (bed 0)).lt l).stp.toNat + 32) ∧
    ∀ l ∈ (stash 0x1001F (bed 0)).issue.lanes, ((stash 0x1001F (bed 0)).lt l).stp.toNat < ((stash 0x1001F (bed 0)).lt l).stb.toNat + 32 := by
  decide +kernel

theorem test_wit_xinv : let s := at8 (2 ^ 57 - 128) (all 40 .w32 128 (bed 0))
    s.canRun (.xinv .always (v 40 .w32) (v 8 .w64) 0) = true ∧ ∀ l ∈ s.issue.lanes, s.fenceOk (s.ig.t0 + l) 1 = true ∧
      s.inSpace .glob (invBytes (v 40 .w32) (v 8 .w64) 0 s l).1 (invBytes (v 40 .w32) (v 8 .w64) 0 s l).2 = true ∧
      s.windowHit s.iasid (invBytes (v 40 .w32) (v 8 .w64) 0 s l).1 (invBytes (v 40 .w32) (v 8 .w64) 0 s l).2 = none := by decide +kernel

/-! ## Accesses that are performed (R212–R249) -/

/-- The first access and the write that it serves. -/
def acc0 (s : State) : Acc := s.accs.headD default
def pend0 (s : State) : Nat := (acc0 s).pend.getD 0
def write0 (s : State) : Pend := ((s.thread (acc0 s).thread).pend.find? fun x => x.id == pend0 s).getD default

theorem owns_core {s : State} {sp : Space} {o : Nat} (h : sp = .core) (k : o < s.teams.length) : s.owns sp o := by
  subst h
  exact k

theorem test_wit_local_load : let s := after (.lds .always (v 40 .w32) (v 8 .w64) 0) (at8 0x100 (bed 0))
    s.isDue (acc0 s).id (acc0 s) ∧ (acc0 s).op = .load ∧ (acc0 s).space ≠ .glob ∧ s.brings (acc0 s) (pend0 s) (write0 s) := by
  unfold State.isDue State.brings
  decide +kernel

theorem test_wit_global_load : let s := after (.ldg .always (v 40 .w32) (v 8 .w64) 0 0) (at8 0x8000 (bed 0))
    s.isDue (acc0 s).id (acc0 s) ∧ (acc0 s).op = .load ∧ s.brings (acc0 s) (pend0 s) (write0 s) ∧ s.quiet (acc0 s) 0x208000 true true ∧
    s.hbm.pzIn 0x208000 (acc0 s).len = false := by
  unfold State.isDue State.brings State.quiet
  refine ⟨?_, ?_, ?_, ⟨?_, ⟨true, ?_⟩, ?_, ?_⟩, ?_⟩ <;> decide +kernel

theorem test_wit_local_store : let s := after (.sts .always (v 40 .w32) (v 8 .w64) 0) (at8 0x100 (bed 0))
    s.isDue (acc0 s).id (acc0 s) ∧ (acc0 s).op = .store [0, 0, 0, 0] false ∧ s.memsWf = true ∧ (acc0 s).space ≠ .glob ∧
    s.owns (acc0 s).space (acc0 s).owner := by
  refine ⟨?_, ?_, ?_, ?_, ?_⟩
  · unfold State.isDue; decide +kernel
  · decide +kernel
  · decide +kernel
  · decide +kernel
  · generalize hs : after (.sts .always (v 40 .w32) (v 8 .w64) 0) (at8 0x100 (bed 0)) = s
    exact owns_core (by subst hs; decide +kernel) (by subst hs; decide +kernel)

theorem test_wit_global_store : let s := after (.stg .always (v 40 .w32) (v 8 .w64) 0 0) (at8 0x8000 (bed 0))
    s.isDue (acc0 s).id (acc0 s) ∧ (acc0 s).op = .store [0, 0, 0, 0] false ∧ s.memsWf = true ∧ (acc0 s).len = 4 ∧
    s.quiet (acc0 s) 0x208000 true true := by
  unfold State.isDue State.quiet
  refine ⟨?_, ?_, ?_, ?_, ⟨?_, ⟨true, ?_⟩, ?_, ?_⟩⟩ <;> decide +kernel

theorem test_wit_pending_write : let th : Thread := { (newThread (bedLaunch 0) 0 0 0) with
      pend := [⟨1, [959, 0], [⟨1, false⟩, ⟨2, false⟩], true⟩, ⟨2, [0, 1, 960, 960], [⟨3, false⟩, ⟨4, true⟩, ⟨5, false⟩, ⟨6, false⟩], true⟩, ⟨3, [1], [⟨7, false⟩], true⟩] }
    let s := { bed 0 with threads := [th] }
    let w : Pend := ⟨2, [0, 1, 960, 960], [⟨3, false⟩, ⟨4, true⟩, ⟨5, false⟩, ⟨6, false⟩], true⟩
    0 < s.threads.length ∧ w.id = 2 ∧ w.known = true ∧ (s.thread 0).pend = [⟨1, [959, 0], [⟨1, false⟩, ⟨2, false⟩], true⟩] ++ w :: [⟨3, [1], [⟨7, false⟩], true⟩] ∧
    (w.slices.filter (· != 960)).Nodup ∧ (∀ p ∈ w.slices, p ≤ 960) ∧ (s.thread 0).slices.length = 960 ∧ w.vals.length = w.slices.length := by
  decide +kernel

theorem test_wit_icacheFill : let s := onAll (fun th => { th with pc := 0x2000 }) (bed 0)
    s.lineWaiters 0 0 64 ≠ [] ∧ (∀ q ∈ s.ireqs, ¬(q.core = 0 ∧ q.asid = 0 ∧ q.line = 64)) ∧
    (s.xlate 0 (128 * 64)).1 = .ok 0x202000 true true true ∧ (s.xlate 0 (128 * 64)).2.aliased 0x202000 = false ∧ ∀ c ∈ s.recs, overlap c.pa c.len 0x202000 128 = false := by decide +kernel

theorem test_wit_fault_buffer_retry :
    (let s := after (.ldg .always (v 40 .w32) (v 8 .w64) 0 0) (at8 0x8000 (bed 0))
     let s := { s with accs := s.accs.map fun (a : Acc) => { a with st := .refused } }
     s.accs.find? (fun x => x.id == (acc0 s).id) = some (acc0 s) ∧ (acc0 s).st = .refused) ∧
    (let o : EngOp := { (default : EngOp) with id := 7, st := .refused }
     let s := { bed 0 with ops := [o] }
     (∀ a ∈ s.accs, a.id ≠ 7) ∧ s.opOf 7 = some o ∧ o.st = .refused) ∧
    (let a : Arrival := { (default : Arrival) with id := 7, st := .refused }
     let s := { bed 0 with arrs := [a] }
     s.opOf 7 = none ∧ s.arrOf 7 = some a ∧ a.st = .refused) ∧
    let r : SeqReq := { (default : SeqReq) with id := 7, refused := true }
    let s := { bed 0 with reqs := [r] }
    (∀ a ∈ s.accs, a.id ≠ 7) ∧ s.opOf 7 = none ∧ s.arrOf 7 = none ∧ ∃ r ∈ s.reqs, r.id = 7 ∧ r.refused = true := by decide +kernel

end Tests
end Sys2Proof
end

