-- ==== Sys2Proof/Tests/WitnessesEngines.lean ====
section
/-! SUPPORT. Witnesses for the statements about strong accesses, deques, barriers and planes. -/

namespace Sys2Proof
namespace Tests
open Machine Host

set_option Elab.async false

/-- A pair of which the first member is known. -/
theorem pair_of {α β : Type} {p : α × β} {a : α} (h : p.1 = a) : p = (a, p.2) := by
  cases p; simp_all

/-! ## Class K (R319–R336) -/

/-- The strong words of a lane with D in v40, the address in v8 and a second value in v56, of a width. -/
def strongs (w : Width) (x : Bool) : List Instr :=
  let a : Operand := { w := .w64, x, sel := .slice 8 }
  [.atom .always (v 40 w) a .add false 0, .atom .always (v 40 w) a .st true 0, .cas .always (v 40 w) a (v 56 w),
   .atomf .always (v 40 .w32) a .fadd false 0, .waitv .always (v 40 w) a .ge 0]

theorem test_wit_strong_words : ∀ c ∈ [(false, 0x8000), (true, 65528)], let s := at8 c.2 (bed 0)
    let a : Operand := { w := .w64, x := c.1, sel := .slice 8 }
    (∀ i ∈ strongs .w64 c.1 ++ strongs .w32 c.1, s.canRun i = true) ∧
    ∀ l ∈ s.issue.lanes, s.strongOpen (strongSpace a) (s.ea l a 0 8) 8 (.atom .add 1) ∧ s.strongOpen (strongSpace a) (s.ea l a 0 4) 4 (.atom .add 1) := by
  unfold State.strongOpen
  decide +kernel

theorem test_wit_strong_misaligned : ∀ l ∈ (at8 0x8004 (bed 0)).issue.lanes, (at8 0x8004 (bed 0)).ea l (v 8 .w64) 0 8 % 8 ≠ 0 ∧
    (at8 0x8002 (bed 0)).ea l (v 8 .w64) 0 4 % 4 ≠ 0 := by decide +kernel

theorem test_wit_tjoin_tend : let s := at8 0x8000 (bed 0)
    s.canRun (.tjoin .always (v 8 .w64)) = true ∧ s.canRun (.tend .always (v 8 .w64)) = true ∧
    ∀ l ∈ s.issue.lanes, s.fenceOk (s.ig.t0 + l) 7 = true ∧
      s.strongOpen .glob (s.src l (v 8 .w64) 64).toNat 8 (.atom .add 1) := by
  unfold State.strongOpen
  decide +kernel

theorem test_wit_strong_performed : ∀ i ∈ [Instr.atom .always (v 40 .w32) (v 8 .w64) .add false 0, .waitv .always (v 40 .w32) (v 8 .w64) .ne 0,
      .atom .always (v 40 .w32) (v 8 .w64) .ld false 0],
    let s := { after i (at8 0x8040 (bed 0)) with recs := [{ (default : AccRec) with strong := true, pa := 0x208040, len := 4 }] }
    (s.isDue (acc0 s).id (acc0 s)) ∧ (acc0 s).op.isStrong = true ∧ s.memsWf = true ∧ s.strongQuiet (acc0 s) 0x208040 ∧
    (∀ x ∈ s.accs, x.st ≠ .watch) ∧ (∀ g ∈ s.grids, g.ended = true ∨ g.ready = true ∨ g.deps = [] ∨ g.lr.asid.toNat ≠ (acc0 s).owner) ∧
    s.brings (acc0 s) (pend0 s) (write0 s) := by
  unfold State.isDue State.strongQuiet State.brings
  decide +kernel

/-- 256 older watches of another thread on one engine of the chip scratchpad, and one WAITV of thread 0 that found no free watch. -/
def watched : State :=
  let s := after (.waitv .always (v 40 .w32) (vx 8 .w64) .ne 0) (at8 0x40 (bed 0))
  { s with accs := ((List.range 256).map fun k => { acc0 s with id := k, thread := 1, st := .watch }) ++ [{ acc0 s with id := 1000, st := .watch }] }

theorem test_wit_waitv_reread : let s := watched
    let a := s.accs.getD 256 default
    a ∈ s.accs ∧ (∀ x ∈ s.accs, x.id = a.id → x = a) ∧ a.thread < s.threads.length ∧ a.op = .waitv .ne 0 ∧
    s.strongQuiet a 0x40 ∧ a.st = .watch ∧ a.parked = false ∧ s.unwatched a = true ∧
    ∀ x ∈ s.accs, x.thread = a.thread → x.st = .watch → x = a := by
  unfold State.strongQuiet
  decide +kernel

theorem test_wit_waitv_reread_distinct : watched.memsWf = true ∧ watched.accs.Nodup := by
  have k : watched.accs.map Acc.id = List.range 256 ++ [1000] := by decide +kernel
  have h : watched.accs.Pairwise fun a b => a.id ≠ b.id := by
    refine List.pairwise_map.mp ?_
    rw [k]
    exact List.nodup_append.mpr ⟨List.nodup_range, by simp, by intro a ha b hb; simp at ha hb; omega⟩
  exact ⟨by decide +kernel, h.imp fun h e => h (by rw [e])⟩

theorem test_wit_deques : let s := at8 0x8000 (bed 0)
    (∀ i ∈ [Instr.dqpush .always (v 8 .w64) (v 24 .w64) (v 40 .w64), .fork .always (v 8 .w64) (v 24 .w64) (v 40 .w64),
      .dqpop .always (v 8 .w64) ⟨1, 2⟩, .dqsteal .always (v 8 .w64) ⟨1, 2⟩], s.canRun i = true) ∧
    (∀ l ∈ exec1 s .always, s.fenceOk (s.ig.t0 + l) 5 = true ∧ s.strongOpen .glob (s.src l (v 8 .w64) 64).toNat 8 (.atom .add 1)) ∧
    (let s := { s with deques := List.replicate 504 default }
     s.dqCount s.icore + (exec1 s .always).length ≤ 512) ∧
    let s := { s with deques := List.replicate 512 default }
    512 ≤ s.dqCount s.icore := by
  unfold State.strongOpen
  decide +kernel

/-- Words that wait as a FENCE find a store of their thread that is not performed. -/
theorem test_wit_fence_first : let s := after (.stg .always (v 40 .w32) (v 8 .w64) 0 0) (at8 0x8000 (bed 0))
    (∀ i ∈ [Instr.dqpush .always (v 8 .w64) (v 24 .w64) (v 40 .w64), .fork .always (v 8 .w64) (v 24 .w64) (v 40 .w64), .tend .always (v 8 .w64),
      .xinv .always (v 40 .w32) (v 8 .w64) 0, .xinvAll .always, .hcall .always (v 8 .w64) (v 24 .w64) 0], s.canRun i = true) ∧
    s.issue.collect = false ∧ ∀ c ∈ [5, 7, 1], ∃ l ∈ exec1 s .always, s.fenceOk (s.ig.t0 + l) (BitVec.ofNat 3 c) = false := by decide +kernel

/-! ## Class H (R244–R264) -/

theorem test_wit_bart : let s := bed 0
    (3 < max s.ir.nbar.toNat 1 ∧ ¬ 4 < max s.ir.nbar.toNat 1) ∧ s.issue.lanes ≠ [] ∧ s.canRun (.bartN 3 (v 0 .w8)) = true ∧
    (let s := all 0 .w8 8 s
     0 < (s.src s.low (v 0 .w8) 8).toNat ∧ (s.src s.low (v 0 .w8) 8).toNat ≤ s.teamSize) ∧
    (let s := all 0 .w8 9 s
     ¬ (s.src s.low (v 0 .w8) 8).toNat ≤ s.teamSize) ∧ ¬ 0 < ((bed 0).src (bed 0).low (v 0 .w8) 8).toNat := by decide +kernel

/-- Barrier 0 of the team or cluster with all eight threads arrived. -/
def arrivedAt (cluster : Bool) (count : Option Nat) : State :=
  let b : Bar := { started := true, count, arrived := List.range 8 }
  let s := onAll (fun th => { th with wait := .barrier cluster 0 count true }) (bed 0)
  if cluster then { s with clusters := s.clusters.map fun c => { c with bars := c.bars.set 0 b } }
  else { s with teams := s.teams.map fun t => { t with bars := t.bars.set 0 b } }

theorem test_wit_barrier_episodes : (∀ c ∈ [false, true], let s := arrivedAt c none
      let b := s.bar c 0 0
      (0 < s.clusters.length ∧ 0 < (s.cluster 0).bars.length ∧ 0 < s.teams.length ∧ 0 < (s.team 0).bars.length) ∧
      (s.cluster 0).out = false ∧ b.started = true ∧ (∀ t ∈ b.arrived, t < s.threads.length) ∧ b.arrived ≠ [] ∧ b.count = none ∧
      b.arrived.length = 8 ∧ (∀ t ∈ s.clusterThreads 0, (s.thread t).exited = true ∨ t ∈ b.arrived) ∧
      ∀ t ∈ s.teamThreads 0, (s.thread t).exited = true ∨ t ∈ b.arrived) ∧
    let b := (arrivedAt false (some 3)).bar false 0 0
    b.started = true ∧ b.count = some 3 ∧ 3 ≤ b.arrived.length := by decide +kernel

theorem test_wit_phase_boundary : let s := after .phasew (bed 0)
    (0 < s.teams.length ∧ s.teamArrives 0 = true) ∧
    let t := after (.teamPhaseArrival 0) s
    0 < t.grids.length ∧ t.boundaryReady 0 = true ∧ t.memsWf = true ∧ (∀ x ∈ t.accs, x.st ≠ .watch) ∧
    ∀ x ∈ t.grids, x.ended = true ∨ x.ready = true ∨ x.deps = [] ∨ x.lr.asid ≠ (t.grid 0).lr.asid := by decide +kernel

/-! ## Class I (R266–R293) -/

/-- The state with the record's address and element 0 in v8, the block of Table 5.7 as block 0, and a value in v40 and its tag. -/
def plane8 (wcode : BitVec 2) : State :=
  let s := bed wcode
  all 48 .w4 2 (all 24 .w32 0 (at8 0x8000
    { s with hbm := { bytes := s.hbm.bytes ++ [(0x210000, 0x7F), (0x210001, 0x04), (0x211000, 0x0A), (0x212000, 0x01), (0x212080, 0x02),
      (0x212100, 0x03), (0x212180, 0x05)], pz := [] } }))

/-- The record that stands at 0x8000. -/
def rec0 : PlaneRec := { exp := 0x10000, sign := 0x11000, mant := 0x12000, stride := 0x80, stripes := 2, p := 4, dem := true }

/-- The state after the record has been read. -/
def recRead (s : State) : State := (s.readRec s.issue.lanes s.low (s.wide32 s.low (v 8 .w32) 3 % 2 ^ 64)).2

theorem test_wit_pld : pldRuns (plane8 0) (recRead (plane8 0)) (v 40 .w32) (v 8 .w32) 2 3 false .f32 (fslot 0x10 5 0 4) 3 rec0 := by
  unfold pldRuns planeRuns calcOpen
  refine ⟨⟨?_, ?_, ?_, ?_, ?_, ?_, pair_of ?_, ?_, ?_⟩, ?_⟩ <;> decide +kernel

/-- Every lane's tag is 2: it holds fewer planes than 4, and not fewer than 2. -/
theorem test_wit_prfn : ∀ n ∈ [2, 4],
    prfnRuns (plane8 0) (recRead (plane8 0)) (v 40 .w32) (v 8 .w32) 2 (BitVec.ofNat 4 n) false (fslot 0x10 5 0 4) n rec0 ∧
    ∀ l ∈ (plane8 0).issue.lanes, refineTag (plane8 0) (v 40 .w32) ((plane8 0).lt l) = 2 := by
  unfold prfnRuns planeRuns calcOpen
  simp only [List.mem_cons, List.not_mem_nil, or_false, forall_eq_or_imp, forall_eq]
  refine ⟨⟨⟨⟨?_, ?_, ?_, ?_, ?_, ?_, pair_of ?_, ?_, ?_⟩, ?_⟩, ?_⟩, ⟨⟨?_, ?_, ?_, ?_, ?_, ?_, pair_of ?_, ?_, ?_⟩, ?_⟩, ?_⟩ <;>
    decide +kernel

theorem test_wit_pst : pstRuns (plane8 2) (recRead (plane8 2)) (v 40 .w32) (v 8 .w32) 2 4 false (fslot 0x10 5 0 4) 4 rec0 := by
  unfold pstRuns planeRuns
  refine ⟨⟨?_, ?_, ?_, ?_, ?_, ?_, pair_of ?_, ?_, ?_⟩, ?_, ?_, ?_, ?_, ?_⟩ <;> decide +kernel

/-- A load that PLD has issued, and one that PRFN has, may be performed, and the block it needs reads as good. -/
theorem test_wit_plane_load_lands : let s := after (.pld (v 40 .w32) (v 8 .w32) 2 3 false .f32) (plane8 0)
    let s' := (s.readBlk (s.whoOf (acc0 s).thread false (acc0 s).chain) (acc0 s).owner rec0 0 0 0 3 true).2
    s.isDue (acc0 s).id (acc0 s) ∧ (acc0 s).op = .calc (.plane rec0 0 3 .f32 0 false) ∧ (acc0 s).pend = some (pend0 s) ∧
    s.readBlk (s.whoOf (acc0 s).thread false (acc0 s).chain) (acc0 s).owner rec0 (0 / 512) (0 % 512 / 32) 0 3 true =
      (.ok { word := 0x047F, sign := 0x0A, planes := [1, 2, 3] }, s') := by
  unfold State.isDue
  refine ⟨?_, ?_, ?_, pair_of ?_⟩ <;> decide +kernel

theorem test_wit_refine_lands : let s := after (.prfn (v 40 .w32) (v 8 .w32) 2 4 false) (plane8 0)
    let x := refineVal (plane8 0) (v 40 .w32) ((plane8 0).lt 0)
    let s' := (s.readBlk (s.whoOf (acc0 s).thread false (acc0 s).chain) (acc0 s).owner rec0 0 0 2 4 false).2
    s.isDue (acc0 s).id (acc0 s) ∧ (acc0 s).op = .calc (.refine rec0 0 4 x 2) ∧ (acc0 s).pend = some (pend0 s) ∧
    s.readBlk (s.whoOf (acc0 s).thread false (acc0 s).chain) (acc0 s).owner rec0 (0 / 512) (0 % 512 / 32) 2 4 false =
      (.ok { word := 0x047F, sign := 0, planes := [3, 5] }, s') := by
  unfold State.isDue
  refine ⟨?_, ?_, ?_, pair_of ?_⟩ <;> decide +kernel

/-- A copy descriptor in v8: record 0x8000, stripe 0, a tile offset, one stripe; and the barrier object's offset in v56. -/
def copy8 (tile : Nat) (s : State) : State :=
  all 56 .w32 0x2000 (all 40 .w32 1 (all 24 .w64 (tile * 2 ^ 32) (at8 0x8000 s)))

/-- The state after the descriptor's record has been read. -/
def descRead (s : State) : State := (s.readRec s.issue.lanes s.low (s.copyDesc s.low (v 8 .w32)).rec_).2

theorem test_wit_pcopy : ∀ x ∈ [(false, (0 : BitVec 4), 65536 - 1536), (false, 2, 0x1000), (true, 0, 2 ^ 20 - 1536)],
    let s := copy8 x.2.2 (plane8 0)
    copyRuns s (descRead s) (if x.1 then .pcopyx (v 8 .w32) (v 56 .w32) 4 x.2.1 else .pcopy (v 8 .w32) (v 56 .w32) 4 x.2.1) x.1
      (v 8 .w32) (v 56 .w32) 4 x.2.1 rec0 := by
  unfold copyRuns State.groupRuns
  simp only [List.mem_cons, List.not_mem_nil, or_false, forall_eq_or_imp, forall_eq]
  refine ⟨⟨.inl ⟨rfl, by decide⟩, ⟨?_, ?_, ?_, ?_, ?_⟩, ?_, pair_of ?_, ?_, ?_, ?_, ?_, ?_, ?_, ?_, ?_, ?_, ?_⟩,
    ⟨.inl ⟨rfl, by decide⟩, ⟨?_, ?_, ?_, ?_, ?_⟩, ?_, pair_of ?_, ?_, ?_, ?_, ?_, ?_, ?_, ?_, ?_, ?_, ?_⟩,
    ⟨.inr ⟨rfl, by decide⟩, ⟨?_, ?_, ?_, ?_, ?_⟩, ?_, pair_of ?_, ?_, ?_, ?_, ?_, ?_, ?_, ?_, ?_, ?_, ?_⟩⟩ <;> decide +kernel

theorem test_wit_pdrop : dropRuns (copy8 0 (plane8 0)) (descRead (copy8 0 (plane8 0))) (v 8 .w32) 2 rec0 := by
  refine ⟨⟨?_, ?_, ?_, ?_, ?_⟩, pair_of ?_, ?_, ?_, ?_, ?_, ?_⟩ <;> decide +kernel

/-- The state with the only engine operation of a word under way. -/
def underWay (engine : Bool) (i : Instr) (s : State) : State :=
  let s := after i s
  { s with ops := s.ops.map fun (o : EngOp) => { o with st := .run, engine, first := true } }

/-- The first operation, and its copy. -/
def op0 (s : State) : EngOp := s.ops.headD default
def copyOf : OpKind → CopyOp
  | .copy c => c
  | _ => default

theorem test_wit_copyEngineStart : let s := underWay false (.pcopy (v 8 .w32) (v 56 .w32) 4 0) (copy8 0x1000 (plane8 0))
    engineFree s (op0 s) := by
  unfold engineFree
  decide +kernel

/-- A copy of one stripe whose sixteen blocks are good. -/
def copying (f : BitVec 4) : State :=
  let s := plane8 0
  let h := (List.range 15).flatMap fun k => [(0x210002 + 2 * k, (0x7F : Byte)), (0x210003 + 2 * k, 0x04)]
  let s := { s with hbm := { bytes := pageTable ++ planeRecord ++ [(0x210000, 0x7F), (0x210001, 0x04)] ++ h, pz := [] } }
  let s := underWay true (.pcopy (v 8 .w32) (v 56 .w32) 4 f) (copy8 0x1000 s)
  { s with ops := s.ops.map fun (o : EngOp) => { o with kind := .copy { copyOf o.kind with reg := f.toNat } } }

/-- The region that a copy's next act delivers: its bytes and the exponent words' plane counts. -/
def regionOf : CopyAct → List (Nat × List Byte) × List Nat
  | .region l ps => (l, ps)
  | _ => ([], [])

/-- The first operation's copy, and what it does next. -/
def act0 (s : State) : CopyAct × State := s.copyAct (op0 s) (copyOf (op0 s).kind)

theorem test_wit_copyRegion : ∀ f ∈ [0, 1, 4], let s := copying (BitVec.ofNat 4 f)
    let c := copyOf (op0 s).kind
    copyActs s (act0 s).2 (op0 s).id (op0 s) c (.region (regionOf (act0 s).1).1 (regionOf (act0 s).1).2) ∧ c.n < 16 ∧ c.reg ≤ c.n := by
  unfold copyActs
  simp only [List.mem_cons, List.not_mem_nil, or_false, forall_eq_or_imp, forall_eq]
  refine ⟨⟨⟨?_, ?_, ?_, ?_, ?_, pair_of ?_, ?_⟩, ?_, ?_⟩, ⟨⟨?_, ?_, ?_, ?_, ?_, pair_of ?_, ?_⟩, ?_, ?_⟩,
    ⟨⟨?_, ?_, ?_, ?_, ?_, pair_of ?_, ?_⟩, ?_, ?_⟩⟩ <;> decide +kernel

/-- A copy whose second block's exponent word is malformed. -/
def poisoned : State := underWay true (.pcopy (v 8 .w32) (v 56 .w32) 4 0) (copy8 0x1000 (plane8 0))

theorem test_wit_copyPoison :
    copyActs poisoned (act0 poisoned).2 (op0 poisoned).id (op0 poisoned) (copyOf (op0 poisoned).kind) (.poison 1 0x10002 []) := by
  unfold copyActs
  refine ⟨?_, ?_, ?_, ?_, ?_, pair_of ?_, ?_⟩ <;> decide +kernel

/-- A demotion under way of a stripe of one good block. -/
def demoting : State := underWay true (.pdrop (v 8 .w32) 2) (copy8 0 (plane8 0))

/-- The stores of its blocks, and the state after its blocks have been read. -/
def demoted : Got × List (Nat × List Byte) × State :=
  State.demoteBlks (op0 demoting) rec0 2 ((List.range 1).flatMap fun k => (List.range 16).map fun j => (0 + k, j)) demoting

theorem triple_of {α β γ : Type} {p : α × β × γ} {a : α} (h : p.1 = a) : p = (a, p.2.1, p.2.2) := by
  cases p
  cases h
  rfl

theorem test_wit_pdropComplete : demotes demoting demoted.2.2 (demoted.2.2.opStores (op0 demoting) demoted.2.1).2 (op0 demoting).id 0 1 2
    (op0 demoting) rec0 demoted.2.1 := by
  unfold demotes
  refine ⟨?_, ?_, ?_, ?_, triple_of (p := demoted) ?_, pair_of ?_, ?_⟩ <;> decide +kernel

theorem test_wit_pbinit : let s := all 8 .w32 65520 (bed 0)
    s.canRun (.pbinit (v 8 .w32)) = true ∧ ∀ l ∈ s.issue.lanes, s.barOff (s.src l (v 8 .w32) 32).toNat = none ∧
      s.lockFault .core (s.src l (v 8 .w32) 32).toNat 16 true = none := by decide +kernel

/-- The object at 0x100 reads as a level reached, and as one not reached by a copy under way (Table 11.6). -/
def barAt (x : Nat) : State :=
  (all 8 .w32 0x100 (bed 0)).setBarObj 0 0x100 x

theorem test_wit_pbwait : ∀ x ∈ [2 ^ 16 + 3 * 2 ^ 8, 2 ^ 18, 2 ^ 17], let s := barAt x
    s.canRun (.pbwait ⟨1, 2⟩ (v 8 .w32) 3) = true ∧ s.canRun (.pbtest (v 40 .w64) (v 8 .w32) true) = true ∧
    ∀ l ∈ s.issue.lanes, (s.barOff (s.src l (v 8 .w32) 32).toNat = none ∧
      s.ownPending (s.ig.t0 + l) .core s.ig.team (s.src l (v 8 .w32) 32).toNat 16 = false) ∧
      s.corePoison s.ig.team (s.src l (v 8 .w32) 32).toNat 16 = none ∧ barObjBad (s.barObj s.ig.team (s.src l (v 8 .w32) 32).toNat) = false := by decide +kernel

theorem test_wit_barrier_poison : let s := (barAt 0).onMem .core 0 fun m => { m with pz := [(8, true)] }
    s.canRun (.pbwait ⟨1, 2⟩ (v 8 .w32) 3) = true ∧ s.canRun (.pbtest (v 40 .w64) (v 8 .w32) true) = true ∧
    ∀ l ∈ s.issue.lanes, (s.barOff (s.src l (v 8 .w32) 32).toNat = none ∧
      s.ownPending (s.ig.t0 + l) .core s.ig.team (s.src l (v 8 .w32) 32).toNat 16 = false) ∧
      s.corePoison s.ig.team (s.src l (v 8 .w32) 32).toNat 16 = some 0x100 := by decide +kernel

theorem test_wit_ptag : ∀ x ∈ [(false, Space.core, 65535), (true, .chip, 2 ^ 20 - 1)], let s := all 8 .w32 x.2.2 (bed 0)
    s.canRun (.ptagGet (v 40 .w8) (v 8 .w32) x.1) = true ∧ s.canRun (.ptagSet (v 8 .w32) x.1 5) = true ∧ s.memsWf = true ∧
    s.ig.team < s.teams.length ∧ ∀ l ∈ s.issue.lanes, s.inSpace x.2.1 (s.src l (v 8 .w32) 32).toNat 1 = true ∧
      s.lockFault x.2.1 (s.memAddr x.2.1 (s.src l (v 8 .w32) 32).toNat / 256 * 256) 256 false = none := by decide +kernel

theorem test_wit_gates : let s := bed 0
    s.canRun (.pgate (v 40 .w4) (v 8 .w64) true (.slice 48)) = true ∧ s.canRun (.pgate (v 40 .w4) (v 8 .w64) false (.slice 48)) = true ∧
    s.canRun (.paudit (v 40 .w4) (v 8 .w32) (.slice 48)) = true ∧ s.whole = true ∧
    (s.ig.audctl.getLsbD 16 = false ∨ s.ig.audcnt.getLsbD 63 = false) := by decide +kernel

end Tests
end Sys2Proof
end

