-- ==== Sys2Proof/Tests/WitnessesRemote.lean ====
section
/-! SUPPORT. Witnesses for the statements about matrix units, windows, transfers and rings. -/

namespace Sys2Proof
namespace Tests
open Machine Host

set_option Elab.async false

/-! ## Class J (R294–R317) -/

/-- The state with tile 3 held by the group. -/
def held : State := after (.acq 3) (bed 0)

/-- ACQ of a tile in a unit that nobody claims, of a free tile, and of the group's own; WBDROP in an unclaimed unit and in the team's. -/
theorem test_wit_acq_wbdrop : acqRuns (bed 0) 31 ∧ acqRuns held 4 ∧ acqRuns held 3 ∧ unitRuns (bed 0) (.wbdrop 15) ∧ unitRuns held (.wbdrop 0) ∧
    ∀ s ∈ [bed 0, held], (s.claimedUnit.wb.getD 15 default).loading = none ∧ (s.claimedUnit.wb.getD 0 default).loading = none := by
  unfold acqRuns unitRuns State.mayClaim State.groupRuns
  decide +kernel

theorem test_wit_held_tile : (∀ i ∈ [Instr.rel 3, .accz 3, .accrd 3 1 .all (v 40 .w4), .accwr 3 1 .lo (v 40 .w4)], holdsTile held i 3) ∧
    accwrRuns held 3 1 .lo (v 40 .w4) := by
  unfold accwrRuns holdsTile State.groupRuns
  decide +kernel

/-- The state with tile 3 held by another group, whose threads have not ended. -/
def elsewhere : State :=
  let s := { held with groups := held.groups ++ held.groups }
  s.onMxu 0 fun m => m.withTile 3 fun x => { x with owner := some 1 }

theorem test_wit_token_elsewhere : ∀ i ∈ [Instr.acq 3, .rel 3, .accz 3, .accrd 3 1 .all (v 40 .w4), .accwr 3 1 .lo (v 40 .w4)],
    elsewhere.groupRuns i ∧ (elsewhere.mxu elsewhere.unit).claim = some elsewhere.ig.team ∧
    elsewhere.tokenOf elsewhere.unit 3 ≠ some elsewhere.issue.grp ∧ elsewhere.tokenOf elsewhere.unit 3 ≠ none := by
  unfold State.groupRuns
  decide +kernel

/-- The same as `held`, with a marked slice of v40 in lane 5. -/
def heldMarked : State := held.onThread 5 fun th => { th with slices := th.slices.map fun _ => { v := 0, poison := true } }

theorem test_wit_accwr_marked : let i : Instr := .accwr 3 1 .lo (v 40 .w4)
    holdsTile heldMarked i 3 ∧ 5 ∈ heldMarked.issue.lanes ∧ (heldMarked.operandFault 5 i i.uses).map (·.1) = some 0x0B := by
  unfold holdsTile State.groupRuns
  decide +kernel

/-- A weight entry of one E4M3 chunk in entry 2 of the team's unit. -/
def weights : State :=
  let e : WbEnt := { valid := true, loading := none, drop := false, poison := none, slot := fslot 4 0 0 0, cnt := 1, vals := List.replicate 512 (.fin false 1 0) }
  { bed 0 with mxus := [(0, { Mxu.fresh 0 with wb := (List.replicate 16 default).set 2 e })] }

/-- Its entry 2. -/
def entry2 : WbEnt := (weights.mxu 0).wb.getD 2 default

theorem test_wit_mma : mmaRuns weights 3 1 2 0 (v 0 .w4) 0 0 entry2 ⟨8, 32, 8⟩ := by
  unfold mmaRuns passRuns passFinds mmaFits
  decide +kernel

/-- A pass on a tile that a group holds, and with a poisoned entry. -/
theorem test_wit_pass_stops : let i : Instr := .mma 3 1 2 0 (v 0 .w4) 0 0
    let s := weights.onMxu 0 fun m => m.withTile 3 fun x => { x with owner := some 0 }
    let u := weights.onMxu 0 fun m => { m with wb := m.wb.set 2 { entry2 with poison := some 5 } }
    i.wf = true ∧ (s.begun = true ∧ mmaFits s 0 0 ⟨8, 32, 8⟩ ∧ passFinds s 2 0 entry2 ⟨8, 32, 8⟩ ∧ s.tokenOf s.unit 3 ≠ none) ∧
    (Instr.mmap 3 1 2 (v 8 .w64) 0 .zero).wf = true ∧
    u.begun = true ∧ mmaFits u 0 0 ⟨8, 32, 8⟩ ∧ passFinds u 2 0 { entry2 with poison := some 5 } ⟨8, 32, 8⟩ ∧ u.tokenOf u.unit 3 = none := by
  unfold mmaFits passFinds
  decide +kernel

/-- The row read. -/
def rowOf : TileRead → List Fp
  | .row a => a
  | _ => []

/-- The same with a plane tile of one stripe at 0xF800, whose block 0 is good, and its reference in v8. -/
def tiled : State :=
  let s := all 8 .w64 (0xF800 + 2 ^ 32) weights
  { s with teams := s.teams.map fun t => { t with scratch := { bytes := [(0xF800, 0x7F), (0xF801, 0x04)], pz := [] } } }

theorem test_wit_mmap : mmapRuns tiled 3 1 2 (v 8 .w64) 0 .zero entry2 ⟨8, 32, 8⟩ fun l =>
    rowOf (tiled.tileRead 0xF800 1 (tiled.tag .core 0 0xF800).toNat (tiled.src l (sp .zero .w16) 16).toNat) := by
  unfold mmapRuns passRuns passFinds
  decide +kernel

/-- Two rows of a pass on tile 3: the tile's first and last. -/
def twoRows : Pass := { tile := 3, rows := [(0, List.replicate 16 (.fin false 1 0)), (31, [])] }

theorem test_wit_matrixPass : passDue { weights with mxus := [(0, { Mxu.fresh 0 with passes := [twoRows] })] } 0 twoRows [] := by
  unfold passDue
  decide +kernel

/-- Sources of WBLOAD: the scratchpad's last 512 bytes, 512 bytes of memory, and the planes of the record from its last stripe. -/
theorem test_wit_wbload : let s := all 8 .w64 (65536 - 512) weights
    (s.groupRuns (.wbload 2 0 0 true (v 8 .w64) (v 0 .w4)) ∧ s.memsWf = true ∧ (s.mxu s.unit).claim = some s.ig.team ∧
      (s.slot 0).bclass = some ⟨8, 32, 8⟩ ∧ 1 * (s.slot 0).chunkBytes ≤ 4096 ∧ (s.src s.low (v 8 .w64) 64).toNat % 64 = 0 ∧
      (s.mxu s.unit).wb.length = 16 ∧ s.inSpace .core (s.src s.low (v 8 .w64) 64).toNat (1 * (s.slot 0).chunkBytes) = true) ∧
    let s := all 48 .w32 1 (all 8 .w64 0x8000 weights)
    let i : Instr := .wbload 2 0 2 false (v 8 .w64) (v 48 .w32)
    s.groupRuns i ∧ (s.slot 2).bclass = some ⟨8, 32, 8⟩ ∧ 1 * (s.slot 2).chunkBytes ≤ 4096 ∧ (s.src s.low (v 8 .w64) 64).toNat % 64 = 0 ∧
    (s.slot 2).elem = 0x10 ∧ OpRule.srcX0.allows (v 48 .w32) = true ∧
    (stripeUses (v 48 .w32)).any ((s.lt s.low).illegalUse s.gs s.ir.l.toNat s.issue.latched) = false ∧
    s.operandFault s.low i (i.uses ++ [rdOp .srcX0 (v 48 .w32) [.w32]]) = none ∧
    (s.readRec s.issue.lanes s.low (s.src s.low (v 8 .w64) 64).toNat).1 = .ok rec0 ∧ (s.src s.low (v 48 .w32) 32).toNat + 1 ≤ rec0.stripes := by
  unfold State.groupRuns
  decide +kernel

/-- A WBLOAD of memory at 0x8000 under way. -/
def loading : State := underWay false (.wbload 2 0 0 false (v 8 .w64) (v 0 .w4)) (all 8 .w64 0x9000 weights)

def wbOf : OpKind → Option WbOp
  | .wbload w => some w
  | _ => none

/-- Values read without poison. -/
def isVals : WbRead → Bool
  | .ok _ none => true
  | _ => false

theorem test_wit_wbloadComplete : let s := loading
    let o := op0 s
    s.memsWf = true ∧ s.opOf o.id = some o ∧ o.st = .run ∧ (∀ x ∈ s.accs, x.performed = true) ∧
    (wbOf o.kind).any (fun w => decide (o.kind = .wbload w) && isVals (s.wbRead o w).1 &&
      decide ((((s.wbRead o w).2.mxu w.unit).wb.getD w.entry default).loading = some o.id) &&
      !(((s.wbRead o w).2.mxu w.unit).wb.getD w.entry default).drop) = true ∧ ∀ x ∈ s.ops, ¬ x.id < o.id := by decide +kernel

theorem test_wit_drain : ∀ x ∈ [(DSpace.core, 65536 - 2048), (.chip, 2 ^ 20 - 2048), (.glob, 0x10000)], let s := all 48 .w32 64 (all 8 .w64 x.2 held)
    let a := (s.src s.low (v 8 .w64) 64).toNat
    let d := (s.src s.low (v 48 .w32) 32).toNat
    s.groupRuns (.drain 3 .store x.1 true false (v 8 .w64) (v 48 .w32)) ∧ s.memsWf = true ∧ (s.mxu s.unit).claim = some s.ig.team ∧
    s.tokenOf s.unit 3 = some s.issue.grp ∧ (s.mxu s.unit).busy 3 = false ∧ d % 4 = 0 ∧ 64 ≤ d ∧ d ≤ 2 ^ 24 - 4 ∧ a % 4 = 0 ∧
    s.inSpace (drainSpace x.1) a (31 * d + 64) = true := by
  unfold State.groupRuns
  decide +kernel

def drainOf : OpKind → Option DrainOp
  | .drain d => some d
  | _ => none

theorem test_wit_drainComplete : let s := underWay false (.drain 3 .store .core true false (v 8 .w64) (v 48 .w32)) (all 48 .w32 64 (all 8 .w64 (65536 - 2048) held))
    let o := op0 s
    s.memsWf = true ∧ s.opOf o.id = some o ∧ o.st = .run ∧ o.team < s.teams.length ∧ (∀ x ∈ s.accs, x.performed = true) ∧
    (drainOf o.kind).any (fun d => decide (o.kind = .drain d) && decide (d.mode = .store ∧ d.space ≠ .glob ∧ d.snap.length = 512 ∧ 64 ≤ d.stride)) = true ∧
    ∀ x ∈ s.ops, ¬ x.id < o.id := by decide +kernel

/-! ## Class L (R337–R354) -/

/-- The window table's free entries: n never used, and one freed. -/
def freeFrom (n : Nat) (s : State) : State := { s with winNext := n, winFreed := [7] }

theorem test_wit_wreg : let s := freeFrom 4095 (all 8 .w64 (65536 - 256) (bed 0))
    s.canRun (.wreg .always (v 40 .w32) (v 8 .w64) .core true true 8) = true ∧ s.memsWf = true ∧ s.freeWins.Nodup ∧
    (∀ l ∈ exec1 s .always, (s.src l (v 8 .w64) 64).toNat % 256 = 0 ∧ s.inSpace .core (s.src l (v 8 .w64) 64).toNat (2 ^ 8) = true) ∧
    (let s := all 8 .w64 (65536 - 255) s
     ∀ l ∈ exec1 s .always, (s.src l (v 8 .w64) 64).toNat % 256 ≠ 0) ∧
    let s := all 8 .w64 65536 s
    ∀ l ∈ exec1 s .always, (s.src l (v 8 .w64) 64).toNat % 256 = 0 ∧ s.inSpace .core (s.src l (v 8 .w64) 64).toNat (2 ^ 8) = false := by
  decide +kernel

/-- Eight windows of the team in a state, and each lane's own handle in v8. -/
def windowed (st : WinSt) : State :=
  let s := fill 8 .w32 (fun l => l * 2 ^ 11 + 1) (bed 0)
  { s with wins := (List.range 8).map fun n =>
      (n, { arrived := 5, base := 0x100, st, space := .core, w := true, r := true, sz := 8, gen := 1, team := 0 }) }

theorem test_wit_window_handles : ∀ x ∈ [WinSt.closed, .opened, .draining], let s := windowed x
    let hd := fun l => (s.src l (v 8 .w32) 32).setWidth 32
    (∀ i ∈ [Instr.wregRe .always (v 8 .w32), .wdereg .always (v 40 .w4) (v 8 .w32), .wcntW .always (v 40 .w32) (v 8 .w32),
      .wwaitW .always (v 40 .w32) (v 8 .w32)], s.canRun i = true) ∧ s.memsWf = true ∧ ((exec1 s .always).map hd).Nodup ∧
    (∀ l ∈ exec1 s .always, s.holds (hd l) l [.opened, .closed, .draining]) ∧ ∀ l ∈ exec1 s .always, s.holds (hd l) l [x] := by
  unfold State.holds
  decide +kernel

/-- A handle of generation 0 names no window. -/
theorem test_wit_no_window : ∀ (k : Nat) (st : List WinSt), ¬ (bed 0).holds (((bed 0).src 0 (v 8 .w32) 32).setWidth 32) k st := by
  intro k st h
  obtain ⟨-, h1, -, h2, -⟩ := h
  have h3 : ((((bed 0).src 0 (v 8 .w32) 32).setWidth 32 : W32)).toNat = 0 := by decide +kernel
  omega

theorem test_wit_windowFree : let s := windowed .draining
    s.memsWf = true ∧ (s.win 3).st = .draining ∧ s.arrs = [] := by decide +kernel

/-- Operands of a transfer: local address in v8, remote in v24, control word in v40. -/
def xfer8 (a x c : Nat) : State := all 40 .w32 c (all 24 .w64 x (all 8 .w64 a (bed 0)))

theorem test_wit_transfers : ∀ x ∈ [(false, false, xfer8 (2 ^ 57 - 4) 4 3), (false, true, xfer8 0x8000 0x9000 (3 + 31 * 2 ^ 24)), (true, false, xfer8 0x8000 4 (2 ^ 20 - 1))],
    let s := x.2.2
    let a := fun l => (s.src l (v 8 .w64) 64).toNat
    let r := fun l => (s.src l (v 24 .w64) 64).toNat
    let c := fun l => (s.src l (v 40 .w32) 32).toNat
    (∀ i ∈ [Instr.put .always (v 8 .w64) (v 24 .w64) (v 40 .w32), .putm .always (v 8 .w64) (v 24 .w64) (v 40 .w32), .get .always (v 8 .w64) (v 24 .w64) (v 40 .w32)],
      s.canRun i = true) ∧
    ∀ l ∈ exec1 s .always, c l / 2 ^ 29 = 0 ∧ (x.2.1 = false → c l / 2 ^ 24 % 32 = 0) ∧ (c l % 2 ^ 20 + 1) % 4 = 0 ∧ a l % 4 = 0 ∧
      r l % 8 = (if x.2.1 then 0 else 4) ∧ s.xferCheck false (a l) (c l % 2 ^ 20 + 1) x.1 = none ∧
      (x.2.1 = true → s.xferCheck false (r l) (8 * (c l / 2 ^ 24 % 32 + 1)) false = none) := by decide +kernel

theorem test_wit_bad_transfer : let s := xfer8 0x8000 4 2
    ∀ l ∈ exec1 s .always, ((s.src l (v 40 .w32) 32).toNat % 2 ^ 20 + 1) % 4 ≠ 0 := by decide +kernel

/-- An arrival of four bytes at a handle and offset. -/
def arr (id : Nat) (op : Option Nat) (handle off : Nat) (get : Bool) (st : ArrSt) : Arrival :=
  { id, op, handle := BitVec.ofNat 32 handle, off, get, len := 4, bytes := if get then [] else [1, 2, 3, 4], pz := [], more := false, late := false, st }

/-- An arrival for each answer of Table 14.5 but the accelerator's own number: accepted, closed, stale, beyond, and not permitted. -/
theorem test_wit_arrivals : ∀ x ∈ [(WinSt.opened, arr 9 none 1 252 false .sent), (.closed, arr 9 (some 4) 1 0 false .sent), (.opened, arr 9 none 2 0 false .sent),
      (.draining, arr 9 none 1 0 true .sent), (.opened, arr 9 (some 4) 1 253 false .sent)], let s := { windowed x.1 with arrs := [x.2] }
    s.arrOf 9 = some x.2 ∧ x.2.st = .sent ∧ x.2.handle.toNat / 2 ^ 23 = s.accid.toNat ∧ x.2.more = false := by decide +kernel

theorem test_wit_arrivalLand : ∀ g ∈ [false, true], let a := arr 9 none 1 252 g .landing
    let s := { windowed .opened with arrs := [a] }
    let w := s.win (a.handle.toNat / 2 ^ 11 % 4096)
    let o := s.winPlace w a.off
    s.arrOf 9 = some a ∧ a.st = .landing ∧ s.memsWf = true ∧ w.space = .core ∧ o.1 < s.teams.length ∧
    (g = true → (s.readRange (s.arrWho w) w.space o.1 o.2 a.len).1 = .ok [0, 0, 0, 0] none) ∧
    (g = false → (s.writeRange (s.arrWho w) w.space o.1 o.2 a.bytes a.pz).1 = .ok [] none ∧ a.pz = []) := by decide +kernel

/-- A transfer whose one arrival stands as given. -/
def flying (get : Bool) (acc : Nat) (st : ArrSt) : State :=
  let s := xfer8 0x8000 (acc * 2 ^ 55 + 2 ^ 32 + 4) 3
  let s := underWay false (if get then .get .always (v 8 .w64) (v 24 .w64) (v 40 .w32) else .put .always (v 8 .w64) (v 24 .w64) (v 40 .w32))
    { s with issue := { s.issue with lanes := List.singleton 0 } }
  { s with arrs := s.arrs.map fun (a : Arrival) => { a with st, bytes := [1, 2, 3, 4] } }

def xferOf : OpKind → Option XferOp
  | .xfer x => some x
  | _ => none

theorem test_wit_transfer_ends : ∀ y ∈ [(false, 0, ArrSt.done), (true, 0, .done), (false, 0, .refusal 7), (false, 1, .sent), (false, 511, .sent)],
    let s := flying y.1 y.2.1 y.2.2
    let a := s.arrs.headD default
    let o := op0 s
    (xferOf o.kind).any (fun x => decide (s.flight a.id = some (a, o, x)) && decide (x.ctr < (s.team o.team).sndc.length) && (x.get == y.1) &&
      !a.more && !s.opWaits o (o.xferSpace x).1 (o.xferSpace x).2 x.addr x.len &&
      (!y.1 || decide ((s.next.writeRange (o.who false) (o.xferSpace x).1 (o.xferSpace x).2 x.addr a.bytes a.pz).1 = .ok [] none))) = true ∧
    o.team < s.teams.length ∧ a.st = y.2.2 ∧ o.st = .run ∧ s.opGap o = false ∧ (y.2.1 ≠ 0 → s.remoteOk a = false) := by decide +kernel

/-- Another accelerator is reached through a trained port with a key. -/
theorem test_wit_remote_accelerator : let s := { flying false 1 .sent with ports := [(1, { trained := true, send := some (0, 5), seq := 0, recv := [] })] }
    s.remoteOk (s.arrs.headD default) = true := by decide +kernel

theorem test_wit_rsend : ∀ x ∈ [0, 16], let s := all 8 .w64 x (bed 0)
    let w := fun l => (s.src l (v 8 .w64) 64).toNat
    s.canRun (.rsend .always (v 40 .w4) (v 8 .w64) 0 (.slice 1)) = true ∧
    ∀ l ∈ exec1 s .always, ¬ (w l / 2 ^ 36 ≠ 0 ∨ (s.cluster (s.team s.ig.team).cluster).nt ≤ w l / 2 ^ 32 ∨ w l % 16 ≠ 0) ∧
      s.corePoison ((s.cluster (s.team s.ig.team).cluster).t0 + w l / 2 ^ 32) (w l % 2 ^ 32) 16 = none := by decide +kernel

/-- The header's unit is poisoned. -/
theorem test_wit_rsend_poison : let s := all 8 .w64 16 (bed 0)
    let s := { s with teams := s.teams.map fun (t : Team) => { t with scratch := { t.scratch with pz := [(0, true)] } } }
    let w := fun l => (s.src l (v 8 .w64) 64).toNat
    s.canRun (.rsend .always (v 40 .w4) (v 8 .w64) 0 (.slice 1)) = true ∧
    ∀ l ∈ exec1 s .always, s.corePoison ((s.cluster (s.team s.ig.team).cluster).t0 + w l / 2 ^ 32) (w l % 2 ^ 32) 16 = some 0 := by
  decide +kernel

theorem test_wit_bad_rsend : let s := all 8 .w64 (2 ^ 32) (bed 0)
    ∀ l ∈ exec1 s .always, (s.cluster (s.team s.ig.team).cluster).nt ≤ (s.src l (v 8 .w64) 64).toNat / 2 ^ 32 := by decide +kernel

/-- One message to a ring of four slots of 8 bytes at offset 0, with `n` messages in it. -/
def ringed (n : Nat) : State :=
  let s := all 8 .w64 0 (bed 0)
  let h : List Byte := natLe 4 0 ++ natLe 4 n ++ natLe 8 0
  let s := { s with teams := s.teams.map fun (t : Team) => { t with scratch := t.scratch.write 0 h false } }
  after (.rsend .always (v 40 .w4) (v 8 .w64) 0 (.slice 1)) { s with issue := { s.issue with lanes := List.singleton 3 } }

theorem test_wit_ring_append : ∀ n ∈ [0, 1, 4], let s := ringed n
    let a := acc0 s
    (∃ p ∈ List.range 4, a.op = .ring 0 0 [(3, List.replicate 8 0, p)]) ∧ s.isDue a.id a ∧ a.space = .core ∧ s.memsWf = true ∧
    a.owner < s.teams.length ∧ 3 < s.threads.length ∧ s.corePoison a.owner a.addr 16 = none := by
  unfold State.isDue
  decide +kernel

/-- A store to TAIL, or to the slot of the one message, spoils a ring of four slots; one to HEAD, BASE or a free slot does not (R352). -/
theorem test_ring_spoiled :
    let s := ringed 0
    let h : List Byte := natLe 4 0 ++ natLe 4 1 ++ natLe 8 (0x80 + 2 ^ 33)
    let s := { s with rings := [(0, 0)], teams := s.teams.map fun (t : Team) => { t with scratch := t.scratch.write 0 h false } }
    let hit := fun x => s.hitRings { (default : Acc) with space := .core, owner := 0, addr := x, len := 4 }
    ([4, 0x80, 0x84].all fun x => hit x != []) = true ∧ ([0, 8, 0x88].all fun x => hit x == []) = true := by decide +kernel

theorem test_wit_rwait_radv : let s := bed 0
    s.canRun (.rwait .always (v 40 .w32) (v 8 .w32)) = true ∧ s.canRun (.radv .always (v 8 .w32) (v 40 .w32)) = true ∧
    (∀ l ∈ exec1 s .always, (s.ringCheck l (s.src l (v 8 .w32) 32).toNat false).isNone ∧ s.fenceOk (s.ig.t0 + l) 1 = true) ∧
    (let s := fill 8 .w32 (fun l => 16 * l) s
     ((exec1 s .always).map fun l => (s.src l (v 8 .w32) 32).toNat).Nodup ∧
      ∀ l ∈ exec1 s .always, (s.ringCheck l (s.src l (v 8 .w32) 32).toNat true).isNone) ∧
    let s := all 8 .w32 8 s
    ∀ l ∈ exec1 s .always, (s.src l (v 8 .w32) 32).toNat % 16 ≠ 0 := by decide +kernel

end Tests
end Sys2Proof
end

