-- ==== Sys2Proof/Tests/WitnessesModule.lean ====
section
/-! SUPPORT. Witnesses for the statements about requests, attention, launches, the scheduler, the host's registers, traps and steps. -/

namespace Sys2Proof
namespace Tests
open Machine Host

set_option Elab.async false

/-! ## Requests and attention (15, 16, 17 R434–R439) -/

/-- Thread 0 alone issues. -/
def alone (s : State) : State := { s with issue := { s.issue with lanes := [0] } }

theorem test_wit_kvapp : ∀ x ∈ [0, 65536 - 1024], let s := all 24 .w32 x (bed 0)
    s.canRun (.kvapp .always (v 0 .w4) (v 8 .w64) (v 24 .w32)) = true ∧ ∀ l ∈ s.issue.lanes,
      let o := (s.src l (v 24 .w32) 32).toNat
      o % 4 = 0 ∧ s.inSpace .core o 1024 = true ∧ s.ownPending (s.ig.t0 + l) .core s.ig.team o 1024 = false ∧
        s.lockFault .core o 1024 false = none ∧ s.corePoison s.ig.team o 1024 = none := by decide +kernel

theorem test_wit_launch_word : let s := alone (at8 0x8000 (bed 0))
    let a := (s.src 0 (v 8 .w64) 64).toNat
    s.canRun (.launch .always (v 40 .w64) (v 8 .w64)) = true ∧ exec1 s .always = [0] ∧ s.fenceOk (s.ig.t0 + 0) 7 = true ∧
    s.schedAddr a 64 256 = none ∧ (match (s.issueRead [0] 0 a 256).1 with | .ok bs => bs.length == 256 | _ => false) = true ∧
    s.canRun (.ldepAdd .always (v 40 .w32) (v 8 .w64)) = true ∧ s.schedAddr a 16 16 = none ∧
    (match (s.issueRead [0] 0 a 16).1 with | .ok bs => bs.length == 16 | _ => false) = true := by decide +kernel

theorem test_wit_grmask : (let s := all 24 .w32 32768 (bed 0)
      s.canRun (.grmask .always (v 0 .w4) (v 8 .w32) (v 24 .w32)) = true ∧ (∀ x ∈ s.ops, x.id < s.nextId) ∧
      ∀ l ∈ exec1 s .always, (s.src l (v 24 .w32) 32).toNat % 32 = 0 ∧ s.inSpace .core (s.src l (v 24 .w32) 32).toNat 32768 = true) ∧
    let s := all 24 .w32 16 (bed 0)
    s.canRun (.grmask .always (v 0 .w4) (v 8 .w32) (v 24 .w32)) = true ∧
      ∀ l ∈ exec1 s .always, (s.src l (v 24 .w32) 32).toNat % 32 ≠ 0 := by decide +kernel

/-- A descriptor at 0x100 of the core scratchpad: query 0x1000, output 0x2000, one token, scale 1.0. -/
def described (s : State) : State :=
  let m : Memory := [(0x101, 0x10), (0x105, 0x20), (0x108, 0x01), (0x10E, 0x80), (0x10F, 0x3F)]
  { s with teams := s.teams.map fun t => { t with scratch := { bytes := m, pz := [] } } }

theorem test_wit_attn : let s := described (all 24 .w32 0x100 (bed 0))
    s.canRun (.attn .always (v 0 .w4) (v 8 .w64) (v 24 .w32)) = true ∧
    (∀ l ∈ exec1 s .always, ((s.attnCheck l (s.src l (v 8 .w64) 64) (s.src l (v 24 .w32) 32).toNat).getRight?).isSome = true) ∧
    let s := all 24 .w32 0x101 (bed 0)
    s.canRun (.attn .always (v 0 .w4) (v 8 .w64) (v 24 .w32)) = true ∧ ∀ l ∈ exec1 s .always, (s.src l (v 24 .w32) 32).toNat % 64 ≠ 0 := by
  decide +kernel

theorem test_wit_attnwait : let s := all 24 .w32 (65536 - 64) (bed 0)
    s.canRun (.attnwait .always ⟨40, 2⟩ (v 24 .w32)) = true ∧ ∀ l ∈ exec1 s .always,
      s.inSpace .core (s.src l (v 24 .w32) 32).toNat 64 = true ∧
      s.ownPending (s.ig.t0 + l) .core s.ig.team (s.src l (v 24 .w32) 32).toNat 64 = false ∧
      s.corePoison s.ig.team (s.src l (v 24 .w32) 32).toNat 64 = none := by decide +kernel

theorem test_wit_hcall : let s := bed 0
    s.canRun (.hcall .always (v 0 .w64) (v 24 .w64) 2) = true ∧ ∀ l ∈ exec1 s .always, s.fenceOk (s.ig.t0 + l) 7 = true := by decide +kernel

theorem test_wit_hcall_answer : ∀ n ∈ [0, 2, 3], let h : HCall := { id := 9, thread := 3, svc := n, arg := 5, pend := 0 }
    let s := { bed 0 with hcalls := [h] }
    s.hcalls.find? (fun x => x.id == 9) = some h ∧ h.thread < s.threads.length := by decide +kernel

/-- A sequence of one stream of ASID 0 with a length of 3. -/
def seq1 : Seq := { newSeq 0 1 1 4 2 0 with lc := 3, wm := [3], pages := [[some 7]] }

/-- A grammar context with checkpoint 1. -/
def gctx1 : Gctx := { img := 0, cur := ⟨1, none, 0, 3⟩, cks := (List.replicate 32 none).set 1 (some ⟨0, none, 0, 0⟩) }

/-- The table with sequence 5 (a context in it), 6, and evicted 7. -/
def tabled : State :=
  { bed 0 with kvTotal := 100, seqs := [(5, some { seq1 with g := some gctx1 }), (6, some seq1), (7, some { seq1 with evicted := true })] }

/-- A request of thread 0. -/
def asked (kind : ReqKind) : SeqReq :=
  { id := 9, chain := 0, walker := kind.walks, entry := none, refused := false, begun := false, thread := 0, part := 0, grid := 0, asid := 0, pend := 0,
    phase := 0, gap := false, tag := 0, ord := 9, kind }

theorem test_wit_requests_due : ∀ k ∈ [ReqKind.kvalloc 0x20005 false, .kvalloc 5 true, .kvfree 5, .kvcommit 5 3, .kvcommit 5 2, .kvtrim 5 2, .kvtrim 7 0,
      .grckptSave 5 31, .grroll 5 1, .grroll 5 2, .grfork 0x60005, .sqsetEntry 0x8000000000000005 8, .seqadm 0x140000008, .seqret 5,
      .ldepGo 0x400, .ldepGo 0x800],
    let s := { tabled with reqs := [asked k] }
    s.reqs.find? (fun x => x.id == (asked k).id) = some (asked k) ∧ s.reqDue (asked k) = true ∧ s.memsWf = true := by decide +kernel

theorem test_wit_sequences : let s := tabled
    (∀ n ∈ [5, 6], ∃ q, s.seq n = some q ∧ q.asid = 0 ∧ q.evicted = false ∧ (n = 5 → q.g = some gctx1) ∧ q.lc = 3 ∧ ¬ ∃ w ∈ q.wm, w < 3) ∧
    (∃ q, s.seq 7 = some q ∧ q.asid = 0 ∧ q.evicted = true) ∧ (∀ o ∈ s.ops, o.tagged 5 0 = false) ∧
    gctx1.cks.getD 1 none = some ⟨0, none, 0, 0⟩ ∧ gctx1.cks.getD 2 none = none := by
  refine ⟨?_, ?_, by decide +kernel, by decide +kernel, by decide +kernel⟩
  · intro n h
    rcases List.mem_cons.mp h with rfl | h
    · exact ⟨_, rfl, by decide +kernel⟩
    · cases List.mem_singleton.mp h
      exact ⟨_, rfl, by decide +kernel⟩
  · exact ⟨_, rfl, by decide +kernel⟩

theorem test_wit_sqsetEntry : (0x8000000000000005 : Word).getLsbD 63 = true ∧ (8 : Word).toNat % 8 = 0 ∧
    (tabled.thread (asked (.sqsetEntry 0x8000000000000005 8)).thread).exited = false ∧ (5 : Word).getLsbD 63 = false ∧ (12 : Word).toNat % 8 ≠ 0 := by
  decide +kernel

theorem test_wit_seqadm : let s := tabled
    let v := (0x140000008 : Word).toNat
    v / 2 ^ 51 = 0 ∧ v / 2 ^ 30 % 16 ≠ 0 ∧ v / 2 ^ 30 % 16 ≠ 15 ∧ (v / 2 ^ 16 % 256 + 1) * (v / 2 ^ 24 % 64 + 1) ≤ 4096 ∧ v % 65536 ≠ 0xFFFF ∧
    s.seq (v % 65536) = none ∧ (v / 2 ^ 34 % 2 = 0 → v / 2 ^ 35 % 65536 + s.kvRes ≤ s.kvFree) ∧ v / 2 ^ 35 % 65536 ≤ s.kvFree := by decide +kernel

theorem test_wit_ldepGo : let s := { bed 0 with ltab := [(0, { gen := 1, grid := some 0 })] }
    s.launchOf 0x400 = some 0 ∧ 0 < s.grids.length ∧ s.launchOf 0x800 = none := by decide +kernel

theorem test_wit_walkerRequestStart : let r := { asked (.grfork 0x60005) with walker := false }
    let s := { tabled with reqs := [r] }
    let mine := s.reqs.filter fun x => dieOf (x.part / 4) == dieOf (r.part / 4)
    s.reqs.find? (fun x => x.id == r.id) = some r ∧ s.queued r = true ∧ (mine.filter (·.walker)).length < 16 ∧
    ∀ x ∈ mine, x.ord < r.ord → s.queued x = false := by decide +kernel

/-- The table, with sequence 5's context at state 1 of an image at 0x10000 with an independent entry of token 5, which pushes, and a
dependent one of token 6 for an empty stack; sequence 8 is empty, and sequence 9 has a drafter. -/
def imaged : State :=
  let img : Memory := [(0x210001, 1), (0x210004, 2), (0x210009, 2), (0x21000A, 1), (0x210011, 3), (0x210012, 1), (0x210019, 4), (0x21001A, 1),
    (0x210230, 1), (0x210234, 1), (0x210238, 1), (0x210300, 0xFF), (0x210400, 5), (0x210406, 0x20), (0x21040A, 3), (0x210410, 6), (0x210416, 0x80)]
  { tabled with
    hbm := { bytes := pageTable ++ planeRecord ++ img, pz := [] }
    seqs := [(5, some { seq1 with g := some { gctx1 with img := 0x10000 } }), (6, some seq1), (7, some { seq1 with evicted := true }),
      (8, some (newSeq 0 1 1 4 0 1)), (9, some { seq1 with drafter := some (3, 0x4000) })]
    ltab := [(0, { gen := 1, grid := some 0 })] }

/-- A good record of ASID 0 without dependences: entry 0, one cluster of one team of one group, 32 slices. -/
def goodRecord : List Byte := natLe 256 (1 * 2 ^ 128 + 1 * 2 ^ 144 + 1 * 2 ^ 152 + 1 * 2 ^ 156 + 1 * 2 ^ 160 + 32 * 2 ^ 192)

/-- The requests of a sequence, a context or a launch, at and about the bounds of their operands. -/
def kindsAsked : List ReqKind :=
  [.kvmap 5, .kvmap 0x300000005, .kvmap 7, .kvmap 10, .kvfork 0x80005 3, .kvfork 0x80005 4, .kvfork 0x50005 1, .kvfork 0x60005 1, .kvfork 0x70005 1,
   .kvapp 0x300000005 (List.replicate 1024 0), .kvapp 0x4000000005 (List.replicate 1024 0), .kvapp 8 (List.replicate 1024 0xFF), .grinit 0x10008 0x10000,
   .grinit 0x20008 0x10000, .grinit 0x10008 0x10008, .gradv 0x50005 ⟨40, 2⟩ 0 0, .gradv 0x60005 ⟨40, 2⟩ 0 0, .gradv 0x70005 ⟨40, 2⟩ 0 0,
   .gradv 0x1000005 ⟨40, 2⟩ 0 0, .grckptRel 5 1, .grckptRelall 5, .grckptSave 8 31, .grckptRel 8 0, .grckptRelall 8, .grroll 8 1,
   .grstat 5 true, .grstat 5 false, .grstat 8 true, .squash 0x200009 1, .squash 0x10005 0, .squash 0x20005 0, .squash 0x10005 1, .squash 0x10008 0,
   .squash 7 0, .squash 0x210005 0, .sqsetUnreg 9, .sqsetUnreg 10, .launch goodRecord 1, .launch (List.replicate 256 0) 3, .ldepAdd 0x400 0x100 5,
   .ldepAdd 0x400 0x102 5, .ldepAdd 0x800 0 0, .lquery 0x400, .lquery 0x800, .seqinfo 5 .geo, .seqinfo 5 .len, .seqinfo 5 .stream,
   .seqinfo 0x10005 .stream, .seqinfo 0x10000005 .geo, .seqinfo 10 .geo]

theorem test_wit_requests_served : ∀ k ∈ kindsAsked, let s := { imaged with reqs := [asked k] }
    s.reqs.find? (fun x => x.id == (asked k).id) = some (asked k) ∧ s.reqDue (asked k) = true ∧ s.memsWf = true := by decide +kernel

theorem test_wit_kv_clauses : let s := imaged
    ∃ x y z, s.seq 5 = some x ∧ s.seq 8 = some y ∧ s.seq 9 = some z ∧ s.seq 10 = none ∧ x.asid = 0 ∧ y.asid = 0 ∧
    (kvKey 0x300000005).pos = 3 ∧ (kvKey 5).pos = 0 ∧ ¬ (x.wm.getD 0 0 ≤ 0) ∧ x.page 0 0 = some 7 ∧ s.isOff 7 = false ∧ s.pageCount 7 = 4 ∧
    ({ s with seqs := [(5, some x)] }).pageCount 7 = 1 ∧
    y.lc = 0 ∧ (∀ w ∈ y.wm, w = 0) ∧ y.refs = [] ∧ y.spare = 0 ∧ y.page 0 0 = none ∧ y.g = none ∧ x.lc = 3 ∧ x.nl = y.nl ∧ x.np = y.np ∧
    z.drafter = some (3, 0x4000) ∧ 3 < s.threads.length ∧ (s.thread 3).exited = false ∧ (∀ o ∈ s.ops, o.tagged 9 0 = false) :=
  ⟨_, _, _, rfl, rfl, rfl, by decide +kernel⟩

/-- A copy that carries a draft tag of sequence 5 runs, and one is parked. -/
theorem test_wit_tagged : ∀ p ∈ [false, true], let o : EngOp := { (default : EngOp) with id := 4, tag := 0x8000000000020005, parked := p, kind := .copy default }
    let s := { imaged with ops := [o] }
    (∃ o ∈ s.ops, o.tagged 5 1 = true ∧ o.tagged 5 3 = false ∧ o.parked = p) ∧ (s.cluster (s.team 0).cluster).out = false := by decide +kernel

/-- What a request of thread 0 reads of the image: the header, the mask of state 1, and the transitions of tokens 5, 6 and 7. -/
theorem test_wit_image : let s := imaged
    let r := asked (.gradv 0x50005 ⟨40, 2⟩ 0 0)
    let g := { gctx1 with img := 0x10000 }
    let good (u : State) : Bool := u.memsWf && (u.seq 5).bind (·.g) == some g
    (match s.imgHdr r 0x10008 with | (.error (.stLog _ _), _) => true | _ => false) = true ∧
    (match s.gMask r g with | (.ok bs, u) => bs.length == 32 && bs.headD 0 == 0xFF && good u | _ => false) = true ∧
    (match s.imgHdr r 0x10000 with
      | (.ok h, u) => h.voc == 256 && h.ns == 2 && good u &&
        (match u.gFind r h g.cur 5 with | (.ok (some e), w) => e.push && !e.pop && good w && w.gnodes.isEmpty && decide (0 < w.nodesFree) | _ => false) &&
        (match u.gFind r h g.cur 6 with | (.ok (some e), _) => !e.push | _ => false) &&
        (match u.gFind r h g.cur 7 with | (.ok none, _) => true | _ => false)
      | _ => false) = true := by decide +kernel

/-- GRMASK of sequence 5, whose operation has its lock, and the first entry read beside the bitmap. -/
theorem test_wit_grmask_served : let o : EngOp := { (default : EngOp) with id := 4, first := true, st := .run, kind := .mask 9 }
    let r := asked (.grmask 5 0x1000 4)
    let s := { imaged with ops := [o], reqs := [r] }
    let g := { gctx1 with img := 0x10000 }
    s.reqs.find? (fun x => x.id == r.id) = some r ∧ s.reqDue r = true ∧ s.memsWf = true ∧ (s.seq 5).bind (·.g) = some g ∧
    (match s.gMask r g with
      | (.ok bs, u) => bs.length == 32 && u.memsWf && u.opOf 4 == some o && decide (o.team < u.teams.length) &&
        (List.range u.threads.length).all fun k => decide ((u.thread k).wait ≠ .op 4 ∧ (u.thread k).wait ≠ .lock 4)
      | _ => false) = true := by decide +kernel

/-- The state with a held launch of k dependences. -/
def heldWith (k : Nat) : State :=
  { imaged with grids := imaged.grids.map fun g => { g with held := true, deps := List.replicate k (8, 1, false) } }

theorem test_wit_launches : lrReason (leNat goodRecord) = 0 ∧ (lrOf (leNat goodRecord)).deps = 0 ∧ (lrOf (leNat goodRecord)).tooBig = false ∧
    (lrOf (leNat goodRecord)).asid = 0 ∧ imaged.tableFull = false ∧ lrReason 0 ≠ 0 ∧ imaged.launchOf 0x400 = some 0 ∧ imaged.launchOf 0x800 = none ∧
    0 < imaged.grids.length ∧ imaged.teamsEnded 0 < 2 ^ 20 ∧ (imaged.grid 0).nextCl * (imaged.grid 0).lr.tpc.toNat < 2 ^ 20 ∧
    (imaged.grid 0).held = false ∧ (∀ k < 17, ((heldWith k).grid 0).held = true ∧ ((heldWith k).grid 0).deps.length = k) ∧ State.tableFull { imaged with lNext := 1024, lFreed := [] } = true := by decide +kernel

/-- An accepted operation on no token, and one on a token with a poisoned block. -/
def attnOp (pz : Bool) : AttnOp :=
  { desc := 0x100, out := 0x2000, key := 5, n := 1, mode := 0, kh := 0, thr := 0, scale := 0x3F800000, q := List.replicate 128 0, pend := 0,
    pages := if pz then [7] else [],
    toks := if pz then [List.replicate 8 { page := 7, row := 0, blk := 0, word := 0, sign := 0, planes := [], pz := [true] }] else [],
    accepted := true }

/-- The state with that operation under way. -/
def attending (pz : Bool) : State :=
  let o : EngOp := { (default : EngOp) with id := 4, thread := 0, lanes := 1, st := .run, kind := .attn (attnOp pz) }
  { bed 0 with ops := [o], kvTotal := 100 }

theorem test_wit_attnComplete : ∀ pz ∈ [false, true], let s := attending pz
    let o := s.ops.headD default
    s.opOf 4 = some o ∧ o.kind = .attn (attnOp pz) ∧ (attnOp pz).accepted = true ∧ s.memsWf = true ∧
    (∀ p ∈ (attnOp pz).pages, s.isOff p = false) ∧ o.team < s.teams.length ∧ overlap (attnOp pz).out 520 (attnOp pz).desc 64 = false ∧
    (match attnResult (attnOp pz) with | .inl (ws, _) => !pz && ws.length == 130 | .inr _ => pz) = true := by decide +kernel

theorem test_wit_squashEventTaken : ∀ e ∈ [0, 0x4000], let s := onAll (fun th => { th with ev := some (5, BitVec.ofNat 64 e) }) (bed 0)
    s.takesEvent 3 = true ∧ (s.thread 3).ev = some (5, BitVec.ofNat 64 e) ∧ (s.group (s.thread 3).grp).tset = 0 ∧ (s.recOf (s.thread 3).grp).trapv ≠ 0 ∧
    (s.thread 3).grp < s.groups.length ∧ (s.group (s.thread 3).grp).t0 + (s.thread 3).lane = 3 ∧ (s.thread 3).lane < 64 := by
  decide +kernel

/-! ## The strike queue (R387–R391) -/

theorem test_wit_strikePropose : let s := { bed 0 with kvTotal := 100, seqs := [(5, some (newSeq 0 1 1 4 2 0))], mregs := [(0x303, BitVec.ofNat 64 (200 * 2 ^ 48 + 2 * 2 ^ 44 + 101 * 2 ^ 22))] }
    s.strikeWants = true := by decide +kernel

/-- A strike entry. -/
def strike (action st : Nat) (due : Bool) : Strike := { entry := 63, dl := 200, seq := 5, page := 7, h := 2, action, st, due, gone := false }

theorem test_wit_strikeActionRun : ∀ a ∈ [1, 2, 3], ∀ x ∈ [(1, true), (2, false)], let e := strike a x.1 x.2
    let s := { tabled with strikes := [strike 1 1 false, e] }
    (∀ x ∈ s.strikes, x.st ≠ 3) ∧ s.strikes.find? (fun x => x.st == 2 || x.due) = some e ∧ s.strikeAlive e = true ∧
    (∃ y ∈ s.strikes, y.entry = (63 : BitVec 6).toNat ∧ (y.st = 1 ∨ y.st = 2)) := by decide +kernel

theorem test_wit_strikeActionEffect : ∀ a ∈ [1, 2, 3], ∀ g ∈ [false, true], let e := { strike a 3 false with gone := g }
    let s := { tabled with strikes := [strike 1 1 false, e], regs := { tabled.regs with kvbCnt := 1 } }
    s.strikes.find? (fun x => x.st == 3) = some e ∧ s.strikeAlive e = !g ∧ s.memsWf = true ∧ (s.seq e.seq).isSome = true ∧
    s.kvSlot = some 0 ∧ s.regs.kvbAddr % 32 = 0 := by
  simp only [List.mem_cons, List.not_mem_nil, or_false, forall_eq_or_imp, forall_eq]
  have k : ∀ s : State, s.regs.kvbCnt = 1 → s.kvOff = [] → s.kvSlot = some 0 := by
    intro s h1 h2
    simp [State.kvSlot, h1, h2, Nat.mod_one]
  refine ⟨⟨?_, ?_⟩, ⟨?_, ?_⟩, ?_, ?_⟩ <;> refine ⟨by decide +kernel, by decide +kernel, by decide +kernel, by decide +kernel, k _ rfl rfl, rfl⟩

/-- The demotion of a page meets a poisoned exponent unit, and an exponent word without planes, and nothing in a block of two planes. -/
theorem test_wit_demotion_poison : let u := kvAddr 7 / 32
    let s := { tabled with hbm := { tabled.hbm with pz := [(u, true)] } }
    let good := { tabled with hbm := { tabled.hbm with bytes := tabled.hbm.bytes ++ [(kvAddr 7 + 1, 2)] } }
    (s.snapBlk 7 0 0).rounded 2 = .inr (0, kvAddr 7) ∧ (tabled.snapBlk 7 0 0).rounded 2 = .inr (1, kvAddr 7) ∧
    (good.snapBlk 7 0 0).rounded 2 = .inl none := by decide +kernel

theorem test_wit_kvPageRestore : let y : OffPage := { page := 7, slot := 0, addr := 0 }
    let s := { tabled with kvOff := [y] }
    s.kvOff.find? (fun x => x.page == y.page) = some y ∧ 0 < s.kvFree ∧ s.memsWf = true ∧ y.addr % 32 = 0 ∧
    ∀ x ∈ s.fbuf, ∀ e, x.2 = some e → e.page ≠ kvAddr y.page / 65536 := by
  refine ⟨by decide +kernel, by decide +kernel, by decide +kernel, rfl, fun x h => ?_⟩
  have : tabled.fbuf = [] := by decide +kernel
  rw [show ({ tabled with kvOff := [{ page := 7, slot := 0, addr := 0 }] } : State).fbuf = [] from this] at h
  cases h

/-! ## The scheduler (R417–R430, R447–R457) -/

/-- A record of one team of one 8-lane group, with an entry point of a value, as it lies in HBM4 (Table 17.1). -/
def recordAt (a entry : Nat) : Memory :=
  [(a, BitVec.ofNat 8 entry), (a + 1, 0x10), (a + 0x10, 1), (a + 0x12, 1), (a + 0x13, 0x11), (a + 0x14, 1), (a + 0x18, 32)]

/-- A host queue of two records, the first well-formed, whose tail is n, at head 0 or 1. -/
def queueing (head n : Nat) : State :=
  { bed 0 with
    hbm := { bytes := recordAt 0x10000 8 ++ recordAt 0x10100 9, pz := [] }
    hqs := [(3, { (default : HostQ) with base := 0x10000, en := true, logn := 1, head := BitVec.ofNat 32 head, tail := BitVec.ofNat 32 n })] }

theorem test_wit_hostQueueConsume : ∀ x ∈ [(0, 1, 0), (1, 3, 2), (0, 3, 0)], let s := queueing x.1 x.2.1
    let h := s.hq 3
    let v := leNat (s.physRead (h.base + 256 * (h.head.toNat % 2 ^ h.logn)) 256)
    s.regs.bootState = 2 ∧ h.en = true ∧ h.head ≠ h.tail ∧ h.wait = none ∧ lrReason v = x.2.2 ∧ (lrOf v).deps = 0 ∧ (lrOf v).tooBig = false ∧
    (lrOf v).asid.toNat = h.asid ∧ s.lNext < 1024 ∧ ((h.tail - h.head).toNat ≤ 2 ^ h.logn ↔ x.2.1 ≠ 3 ∨ x.1 ≠ 0) := by decide +kernel

/-- A launch that waits to start, with a priority. -/
def fresh (prio : BitVec 2) : Grid := newGrid { bedLaunch 0 with ncl := 2, prio } 0x400 0 0 0 []

theorem test_wit_launchReady : let s := { bed 0 with grids := [{ fresh 0 with deps := [(0x8000, 1, true)] }] }
    (s.grid 0).ended = false ∧ (s.grid 0).stop = none ∧ (s.grid 0).fatal = none ∧ (s.grid 0).held = false ∧ (s.grid 0).ready = false ∧
    ∀ d ∈ (s.grid 0).deps, d.2.2 = true := by decide +kernel

theorem test_wit_priorityRecompute : let g := fresh 0
    let s := { bed 0 with grids := [{ g with lr := { g.lr with crec := 0x8000 } }, { fresh 3 with deps := [(0x8000, 1, false)] }] }
    (s.grid 1).dependsOn (s.grid 0) = true := by decide +kernel

/-- The launch running, and another that waits at its priority. -/
def waitingTo (prio : BitVec 2) (resv : Option (Nat × Nat)) : State :=
  { bed 0 with grids := [{ newGrid (bedLaunch 0) 0x400 0 0 0 [] with ready := true, nextCl := 1 }, { fresh prio with ready := true, resv }] }

theorem test_wit_placeageExpiry : let s := waitingTo 1 none
    1 < s.grids.length ∧ (s.grid 1).waiting = true ∧ (s.grid 1).resv = none ∧ (s.bestRect 1).isSome = true := by decide +kernel

theorem test_wit_placeevictExpiry : ∀ p ∈ [0, 1], let s := waitingTo (BitVec.ofNat 2 p) (some (0, 0))
    1 < s.grids.length ∧ (s.grid 1).waiting = true ∧ (s.grid 1).resv.isSome = true ∧ (s.grid 1).evict = false ∧
    s.clusterEnded 0 = false ∧ s.teamEnded 0 = false ∧ (s.team 0).cluster = 0 ∧ 0 ∈ s.resident 0 ∧ 0 ∈ (s.grid 1).reserved ∧
    (s.grid (s.cluster 0).grid).eff = 0 ∧ (s.grid 1).eff = p := by decide +kernel

/-- A launch of clusters of 12 × 1 cores, which fit few rectangles. -/
theorem test_wit_teamPlace : let g := fresh 0
    let s := { bed 0 with grids := [{ newGrid (bedLaunch 0) 0x400 0 0 0 [] with ready := true, nextCl := 1 },
      { g with ready := true, lr := { g.lr with w := 12, h := 1, tpc := 12 } }] }
    s.nextPlaced.any (fun x => x.1 == (1, none) && x.2 != []) = true := by decide +kernel

/-- Every thread of the launch has exited. -/
def finished (f : Grid → Grid) : State :=
  let s := onAll (fun th => { th with exited := true }) (bed 0)
  { s with grids := [f { newGrid (bedLaunch 0) 0x400 0 0 0 [] with ready := true, nextCl := 1 }] }

theorem test_wit_launchComplete : ∀ a ∈ [0, 0x8040], let s := finished fun g => { g with lr := { g.lr with crec := BitVec.ofNat 64 a } }
    0 < s.grids.length ∧ s.completes 0 = true ∧ s.recs = [] ∧ (s.grid 0).lr.crec.toNat = a ∧ a % 32 = 0 ∧ (s.grid 0).reason = 0 ∧
    s.windowHit (s.grid 0).lr.asid.toNat a 32 = none ∧ s.memsWf = true ∧ (s.xlate 0 0x8040).1 = .ok 0x208040 true true true ∧
    s.hbm.pzIn 0x208040 32 = false ∧ (∀ y ∈ s.accs, y.st ≠ .watch) ∧
    (∀ y ∈ s.grids, y.ended = true ∨ y.ready = true ∨ y.deps = [] ∨ y.lr.asid ≠ (s.grid 0).lr.asid) ∧ (s.grid 0).stop.getD 0 < 256 := by decide +kernel

theorem test_wit_gridFatalTrap : ∀ n ∈ [0, 16], let f : FatalTrap := ⟨0x0B, 0x1000, 5, 0, 0⟩
    let s := { bed 0 with grids := [{ newGrid (bedLaunch 0) 0x400 0 0 0 [] with fatal := some f, nextCl := 1 }], ctxs := List.replicate n default }
    0 < s.grids.length ∧ (s.grid 0).fatal = some f ∧ (s.grid 0).ended = false ∧ (s.grid 0).stop = none ∧ s.ctxs.length = n := by decide +kernel

theorem test_wit_schedcmd : let s := { bed 0 with ltab := [(0, { gen := 1, grid := some 0 })] }
    s.launchOf 0x400 = some 0 ∧ 0 < s.grids.length ∧ s.regs.bootState ≠ 3 ∧ (s.grid 0).stop = none ∧ (s.cluster 0).grid = 0 ∧
    (s.cluster 0).out = false ∧ s.clusterEnded 0 = false := by decide +kernel

/-- The launch suspended, its cluster as `f` makes it. -/
def suspended (f : Cluster → Cluster) : State :=
  { bed 0 with grids := (bed 0).grids.map fun g => { g with susp := true }, clusters := (bed 0).clusters.map f }

theorem test_wit_swapDecision : let s := suspended id
    s.swapCause 0 = true ∧ s.clusterEnded (s.team 0).cluster = false ∧ (s.team 0).cluster < s.clusters.length := by decide +kernel

theorem test_wit_swapwaitExpiry : let c := suspended fun c => { c with swapping := true }
    (let a : Acc := { (default : Acc) with id := 9, thread := 3, st := .faulted 2 }
     let s := { c with accs := [a] }
     s.accs.find? (fun a => a.id == 9) = some a ∧ s.ops = [] ∧ s.swappingTeam (s.teamOf a.thread) = true) ∧
    let o : EngOp := { (default : EngOp) with id := 9, st := .refused, kind := .wbload default }
    let s := { c with ops := [o] }
    (∀ a ∈ s.accs, a.id ≠ 9) ∧ s.opOf 9 = some o ∧ s.swappingTeam o.team = true ∧ o.parked = false := by decide +kernel

/-- A cluster about to be swapped out, with a window and a matrix unit. -/
theorem test_wit_swapOut : let s := { suspended (fun c => { c with swapping := true }) with
        wins := [(5, { (default : Win) with st := .opened, team := 0 })], mxus := [(1, Mxu.fresh 0)] }
    s.swapReady 0 = true ∧ 0 < s.clusters.length ∧ s.memsWf = true ∧ s.teamEnded 0 = false ∧ (s.win 5).team = 0 ∧ (s.win 5).st = .opened ∧
    (s.mxu 1).claim = some 0 := by decide +kernel

theorem test_wit_swapIn : let s := { bed 0 with clusters := (bed 0).clusters.map fun (c : Cluster) => { c with out := true } }
    s.nextPlaced.any (fun x => x.1 == (0, some 0) && x.2 != []) = true ∧ (∀ o ∈ s.ops, o.can = false) ∧ 0 < s.clusters.length ∧
    (s.cluster 0).t0 + (s.cluster 0).nt ≤ s.teams.length := by decide +kernel

/-! ## The host, the links and the module (19) -/

theorem test_wit_host_registers : (bed 0).regs.bootState ≠ 3 ∧
    (∀ m ∈ [(0xFFFFFFFF00 : Nat), 0xCFFF000F, 0x80000000FFFFFFFF, 0x80000FFF000003FF, 0xFFFFFFFFC0000000, 0x800000FFFFFFF000, 0xE0000000000F00FF],
      outside (BitVec.ofNat 64 m) m = false ∧ outside 0 m = false) ∧ (0xCFFF000C : Word).toNat % 16 ≤ 12 := by decide +kernel

theorem test_wit_translation_commands : let s := { bed 0 with fbuf := [(4095, some default)], regs := { (bed 0).regs with xlArg := 0xBFFFFF0000 } }
    let v : Word := 0x80000FFF
    s.regs.bootState ≠ 3 ∧ s.regs.xlCmd = none ∧ v.toNat / 2 ^ 12 % 2 ^ 19 = 0 ∧ (s.regs.xlArg.toNat % 4096 = 0 ∧ s.regs.xlArg.toNat < hbmSize) ∧
    (v.toNat / 2 ^ 31 % 2 ^ 16 ≠ 0 ∧ s.regs.xlArg.toNat % 65536 = 0) ∧ (assocGet none s.fbuf (v.toNat % 4096)).isSome = true ∧
    ¬ (assocGet none s.fbuf ((0x1000 : Word).toNat % 4096)).isSome = true := by decide +kernel

theorem test_wit_xlcmdCommandDone : ∀ n ∈ [1, 2, 3], let c : XlCmd := { op := n, asid := 0, count := 1, entry := 7, arg := 0 }
    { (bed 0).regs with xlCmd := some c }.xlCmd = some c ∧ c.op = n := by decide +kernel

/-- A port with one receive epoch. -/
def port1 : Port := { trained := true, send := none, seq := 0, recv := [(2, 77, some 5)] }

/-- Without an epoch a block is dropped, and so is one whose SEQ does not rise; one with its tag is accepted, whoever sent it. -/
theorem test_wit_link_blocks (acc port : Nat) : (default : Port).accepts acc port 0 [] [] = none ∧
    port1.accepts acc port 0x0000000502000000 [] [] = none ∧
    port1.accepts acc port 0x0000000602010004 [] (linkTag 77 acc port 0x0000000602010004 []) = some 0 := by
  refine ⟨rfl, ?_, ?_⟩ <;> simp [Port.accepts, port1]

theorem test_wit_module_events : ({ (bed 0).regs with bootState := 3 } : Regs).bootState = 3 ∧ (bed 0).regs.att = none ∧
    (bed 0).regs.hot.length = 4 ∧ (bed 0).regs.clk.length = 4 ∧ (bed 0).regs.hot.getD 3 false = false ∧ (bed 0).memsWf = true ∧
    0x1000 + 4096 ≤ hbmSize ∧ { (bed 0).regs with bootState := 2, att := some 0x1000 }.bootState = 2 ∧
    ∀ k < 32, (bed 0).aliased (0x1000 + k) = false := by decide +kernel

theorem test_wit_bar2 : let bs : List Byte := [1, 2, 3, 4, 5, 6, 7, 8]
    let off := 2 ^ 30 - 8
    let r := (bed 0).regs
    let a := r.bar2 / r.bar2Size * r.bar2Size + off
    off + bs.length ≤ r.bar2Size ∧ a + bs.length ≤ hbmSize ∧
    ∀ k < bs.length, (bed 0).ctxByte (a + k) = none ∧ (bed 0).hbm.unitPz ((a + k) / 32) = false ∧ (bed 0).aliased (a + k) = false := by decide +kernel

/-! ## Traps and system registers (18 R441–R467) -/

/-- A fault of a lane. -/
def laneFault (l c : Nat) : LaneFault := { stage := 6, lane := l, cause := c, info := 0, word := 0 }

/-- Faults of two classes, and a trap set. -/
def faulting (fs : List LaneFault) (tset : Word) : State :=
  { bed 0 with issue := { baseIssue with faults := fs }, groups := [{ newGroup (bedLaunch 0) 0 0 0 0 with tset }] }

theorem test_wit_trap_entry : let s := faulting [laneFault 2 0x11, laneFault 5 0x12, laneFault 7 0x11] 0
    s.issue.stalls = [] ∧ s.issue.faults ≠ [] ∧ s.issue.grp < s.groups.length ∧ s.ig.tset = 0 ∧ s.ir.trapv ≠ 0 ∧
    (∀ f ∈ s.issue.faults, fatalCause f.cause = false ∧ f.cause < 0x100 ∧ s.ig.t0 + f.lane < s.threads.length) ∧
    (s.issue.faults.map (·.lane)).Nodup := by decide +kernel

theorem test_wit_trap_deferral : let s := faulting [laneFault 2 0x11] 1
    s.issue.stalls = [] ∧ s.ig.tset ≠ 0 ∧ s.ir.trapv ≠ 0 ∧
    ∀ f ∈ s.issue.faults, fatalCause f.cause = false ∧ laneIn s.ig.tset f.lane = false ∧ s.ig.t0 + f.lane < s.threads.length := by decide +kernel

theorem test_wit_trap_fatal : ∀ s ∈ [faulting [laneFault 2 0x02, laneFault 3 0x11] 0, faulting [laneFault 0 0x11] 1],
    s.issue.stalls = [] ∧ s.gridOfGroup s.issue.grp < s.grids.length ∧
    ∃ f ∈ s.issue.faults, fatalCause f.cause = true ∨ s.ir.trapv = 0 ∨ laneIn s.ig.tset f.lane = true := by decide +kernel

theorem test_wit_trap_words : ∀ i ∈ [Instr.trap .always 0x3FFF, .bkpt .always 0x3FFF],
    (bed 0).canRun i = true ∧ (bed 0).issue.collect = false ∧ (bed 0).ig.tset = 0 ∧ (bed 0).ir.trapv ≠ 0 ∧ (bed 0).actors i ≠ 0 := by decide +kernel

theorem test_wit_trap_return : ∀ i ∈ [Instr.tret .always, .tretSkip .always], let s := faulting [] 0xFF
    s.canRun i = true ∧ ∀ l ∈ s.issue.lanes, s.guardHolds l i.guard = true → laneIn s.ig.tset l = true := by decide +kernel

theorem test_wit_system_registers : (∀ r ∈ [0, 0x26, 0x100, 0x106, 0x201, 0x210, 0x21F], sysFault r false = none) ∧
    (∀ r ∈ [1, 2, 6, 0x10, 0x19, 0x25, 0x103, 0x106, 0x210, 0x21F], sysFault r true = none ∧
      (bed 0).canRun (.syswr .always (v 0 .w64) (BitVec.ofNat 10 r)) = true ∧ ∀ l ∈ (bed 0).issue.lanes, (bed 0).sysRefuses r 0 = false) ∧
    (bed 0).begun = true ∧ sysKnown 0x300 = true ∧ sysReadOnly 0x300 = false ∧ sysReadOnly 0x3FF = true := by decide +kernel

/-! ## Words, steps, memories -/

theorem test_wit_round_trip : (Instr.iadd .always (v 0 .w32) (vx 8 .w32) (v 16 .w32)).wf = true ∧
    (encode (.iadd .always (v 0 .w32) (vx 8 .w32) (v 16 .w32)) true false).isSome = true := by decide +kernel

/-- What the state after reset with a word in place issues. -/
def placed : State := State.reset.withFetchWord 64 0x040002800AF86800

theorem test_wit_step_issues : let r := (placed.chose.pick 0 0).getD default
    placed.regs.stopped = false ∧ placed.chosen = some (.issue 0 0) ∧ placed.chose.pick 0 0 = some r ∧ r.chain.words = [0x040002800AF86800] ∧
    (decode 0x040002800AF86800).isSome = true ∧
    let s1 := (placed.chose.touchLine 0 (placed.chose.recOf r.grp).asid.toNat (r.chain.pc / 128)).age 0 0 r
    placed.chose.parts 0 0 r = [r] ∧ s1.staticFault r = none ∧ s1.plain r [(decode 0x040002800AF86800).getD default] = true ∧
    s1.decideAt r [(decode 0x040002800AF86800).getD default] = none ∧
    ∀ l ∈ r.lanes, (placed.chose.group r.grp).t0 + l < placed.threads.length := by decide +kernel

/-- An FRCP of zero while FMODE.TDZ is set: no lane has entered a handler when the word has issued, and every lane does at its decision
(R150, R442). -/
theorem test_wit_step_decides_later :
    let i := Instr.frcp .always (v 0 .w32) (v 8 .w32)
    let w := ((encode i false false).getD 0).toNat
    let s := State.reset.withFetchWord 64 w
    let s := { s with groups := s.groups.map fun (g : Group) => { g with fmode := 0x200 } }
    let r := (s.chose.pick 0 0).getD default
    let t := s.chose.issueChain 0 0 r
    let d := (t.decs.head?).getD default
    s.regs.stopped = false ∧ s.chosen = some (.issue 0 0) ∧ s.chose.staticFault r = none ∧ s.chose.plain r [i] = true ∧
    s.chose.decideAt r [i] = some 12 ∧ (t.group 0).tset = 0 ∧ t.decs.length = 1 ∧ t.decidable d = true ∧ t.pick 0 0 = none ∧
    ((t.decideLater d).group 0).tset = 0xFF ∧ ((t.decideLater d).group 0).tcause = 0x0D ∧ (t.decideLater d).decs = [] := by decide +kernel

/-- A state in which only one event, or one input, comes next. -/
def idle (f : Thread → Thread) (inputs : List Instr) : State :=
  { onAll (fun th => f { th with exited := true }) placed with inputs, grids := placed.grids.map fun g => { g with ended := true } }

theorem test_wit_step_events : let s := idle (fun th => if th.lane = 0 then { th with wait := .yield 1 } else th) []
    s.regs.stopped = false ∧ s.acts.length = 1 ∧ s.acts.head? = some (.event (.yieldDelayEnd 0)) ∧ s.chosen = some (.event (.yieldDelayEnd 0)) := by
  decide +kernel

theorem test_wit_step_inputs : let s := idle id [.thermalShutdown]
    s.regs.stopped = false ∧ s.chosen = some (.input .thermalShutdown) ∧ isExternal .thermalShutdown = true := by decide +kernel

theorem test_wit_step_invariants : placed.memsWf = true ∧ placed.masksWf = true ∧ placed.groups.length = 1 ∧ (match step placed with | .next _ => true | _ => false) = true := by decide +kernel

end Tests
end Sys2Proof
end

/-! Loop levels, frames and index registers: LOOP, ENDLOOP, FRAMEADJ, IXSET and IXSTEP (03 R90–R94). -/

namespace Sys2Proof
namespace Machine

/-! ## What a lane reads beside its own thread -/

theorem ThreadsOnly.target {s t : State} (h : ThreadsOnly s t) (off : Int) : t.target off = s.target off := by
  simp only [State.target, h.issue]

theorem ThreadsOnly.fbMax {s t : State} (h : ThreadsOnly s t) : t.fbMax = s.fbMax := by
  simp only [State.fbMax, h.ir]

/-! ## Loop levels and index registers -/

/-- A pop succeeds where it leaves FB at 0 or above (R91). -/
theorem Thread.popLevel_of_le {th : Thread} (h : 8 * (th.lc.getD (th.lvl.toNat - 1) default).step.toNat ≤ th.fb.toNat) :
    th.popLevel = some
      (let k := th.lvl.toNat - 1
       let c := th.lc.getD k default
       { th with fb := BitVec.ofNat 10 (th.fb.toNat - 8 * c.step.toNat), lc := th.lc.set k { c with count := 0 }, lvl := th.lvl - 1 }) :=
  if_neg (Nat.not_lt.2 h)

/-- ENDLOOP leaves a count of 0 only from a count of 1: a count of 0 wraps (R91). -/
theorem count_sub_one_eq_zero (c : W32) : c - 1 = 0 ↔ c = 1 := by bv_omega

/-- An index computed over the integers, modulo 2^16, is a sum of 16-bit words (R94). -/
theorem ofInt_src_add (v : Word) (i : Int) : BitVec.ofInt 16 (v.toNat + i) = v.setWidth 16 + BitVec.ofInt 16 i := by
  rw [BitVec.ofInt_add, BitVec.ofInt_natCast, BitVec.ofNat_toNat]

theorem ofInt_idx_add (idx : BitVec 16) (v : Word) (i : Int) :
    BitVec.ofInt 16 (idx.toNat + v.toNat + i) = idx + v.setWidth 16 + BitVec.ofInt 16 i := by
  rw [Int.add_assoc, BitVec.ofInt_add, BitVec.ofInt_natCast, BitVec.ofNat_toNat, BitVec.setWidth_eq, ofInt_src_add, BitVec.add_assoc]

/-- The index that a step of register n reads from the register file is that of the register it changes, if there is one. -/
theorem modify_idx_getD (xs : List IndexReg) (n : Nat) (f : BitVec 16 → BitVec 16) :
    (xs.modify n fun r => { r with idx := f (xs.getD n default).idx }) = xs.modify n fun r => { r with idx := f r.idx } := by
  refine List.ext_getElem? fun k => ?_
  by_cases e : n = k
  · subst e
    cases h : xs[n]? <;> simp [h]
  · simp [e]

/-! ## The words -/

/-- LOOP, ENDLOOP, ENDLOOP.BRK and FRAMEADJ each change their lane's own thread (R90–R92). -/
theorem loopsAndFrames_holds : loopsAndFrames := by
  refine ⟨fun step a off => movesLanes_of (fun _ => rfl) fun s s' l ht hl hok => ?loop,
    movesLanes_of (fun _ => rfl) fun s s' l ht hl hok => ?endloop,
    fun m1 off => movesLanes_of (fun _ => rfl) fun s s' l ht hl hok => ?brk,
    fun delta => movesLanes_of (fun _ => rfl) fun s s' l ht hl hok => ?frameadj⟩
  all_goals
    simp only [decide_eq_true_eq] at hok
    simp only [hl, ht.target, ht.fbMax, ht.issue, State.src_congr ht hl, if_true]
  case loop =>
    by_cases hn : s.src l a 32 = 0
    · refine ⟨_, ?_, if_pos hn⟩
      exact (if_pos hn).symm
    · obtain ⟨hlvl, hfb⟩ := hok.resolve_left hn
      refine ⟨_, ?_, (if_neg hn).trans ((if_neg (Nat.not_le.2 hlvl)).trans (if_neg (Nat.not_lt.2 hfb)))⟩
      exact (if_neg hn).symm
  case endloop =>
    obtain ⟨hlvl, hpop⟩ := hok
    simp only [if_neg hlvl, count_sub_one_eq_zero]
    by_cases hc : ((s.lt l).lc.getD ((s.lt l).lvl.toNat - 1) default).count = 1
    · simp only [if_pos hc, Thread.popLevel_of_le (hpop hc)]
      refine ⟨_, ?_, rfl⟩
      rfl
    · refine ⟨_, ?_, if_neg hc⟩
      exact (if_neg hc).symm
  case brk =>
    obtain ⟨hlvl, hsome⟩ := hok
    obtain ⟨th, hth⟩ := Option.isSome_iff_exists.1 hsome
    simp only [if_neg (Nat.not_lt.2 hlvl), hth, Option.getD_some]
    refine ⟨_, ?_, rfl⟩
    rfl
  case frameadj =>
    refine ⟨_, ?_, if_neg (not_or.2 ⟨Int.not_lt.2 hok.1, Int.not_lt.2 hok.2⟩)⟩
    rfl

/-- IXSET writes and IXSTEP steps an index register of the lane's own thread (R93, R94). -/
theorem indexRegisters_holds : indexRegisters := by
  refine ⟨fun g d x count => movesLanes_of (fun _ => rfl) fun s s' l ht hl hok => ?ixset,
    fun g x a imm => movesLanes_of (fun _ => rfl) fun s s' l ht hl _ => ?add,
    fun g x a imm => movesLanes_of (fun _ => rfl) fun s s' l ht hl _ => ?set⟩
  all_goals simp only [hl, ht.gs, ht.ir, State.src_congr ht hl, State.setIdx, ofInt_idx_add, ofInt_src_add, if_true]
  case ixset =>
    refine ⟨_, ?_, if_neg (Nat.not_lt.2 (of_decide_eq_true hok))⟩
    rfl
  case add =>
    refine ⟨_, ?_, rfl⟩
    exact congrArg (fun xs => { s.lt l with x := xs }) (modify_idx_getD _ _ fun i => i + _ + _)
  case set =>
    refine ⟨_, ?_, rfl⟩
    rfl

/-- Settles O6: in a lane that meets no fault, each word's meaning is its clause's change of the lane's own thread. -/
theorem loopsFramesAndIndexes : Obligations.LoopsFramesAndIndexes := ⟨loopsAndFrames_holds, indexRegisters_holds⟩

end Machine
end Sys2Proof

/-! Class B arithmetic, logic, shifts and rotation: words that compute D's value from their sources (04 R97–R108). -/

namespace Sys2Proof
namespace Machine

/-! ## Values at a width -/

/-- A source read at a width has no bit at or above it (R67). -/
theorem State.src_getLsbD_of_ge (s : State) (l : Nat) (o : Operand) {w k : Nat} (hk : w ≤ k) : (s.src l o w).getLsbD k = false := by
  rw [State.src, truncW_getLsbD, decide_eq_false (Nat.not_lt.2 hk), Bool.false_and]

/-- A word agrees at a width with the word given bit by bit below it. -/
theorem truncW_eq_wordBits {w : Nat} {x : Word} {f : Nat → Bool} (h : ∀ k < w, k < 64 → x.getLsbD k = f k) :
    truncW w x = truncW w (wordBits w f) :=
  truncW_eq_of_bits fun k hw hk => by rw [wordBits_getLsbD w f k hk, decide_eq_true hw, Bool.true_and, h k hw hk]

theorem State.amount_congr {s t : State} {l : Nat} (ht : ThreadsOnly s t) (h : t.lt l = s.lt l) (n : Amount) :
    t.amount l n = s.amount l n := by
  cases n with
  | imm k => rfl
  | op sel => exact congrArg BitVec.toNat (State.src_congr ht h _ _)

/-! ## What the words compute -/

/-- Saturation clamps to the range whose ends R102 gives: they are in order at every width. -/
theorem saturate_eq_clamp (a : Operand) (w : Nat) (e : Int) : saturate a.x w e = min (max e (satLow a w)) (satHigh a w) := by
  have clamp : ∀ lo hi : Int, lo ≤ hi → (if e < lo then lo else if hi < e then hi else e) = min (max e lo) hi := by
    intro lo hi _
    split
    · omega
    · split <;> omega
  have half : (0 : Int) < 2 ^ (w - 1) := by positivity
  have full : (0 : Int) < 2 ^ w := by positivity
  refine clamp (satLow a w) (satHigh a w) ?_
  unfold satLow satHigh
  split <;> omega

/-- A left shift multiplies by a power of two, modulo 2^64. -/
theorem shiftLeft_eq_ofNat_mul (x : Word) (n : Nat) : x <<< n = BitVec.ofNat 64 (x.toNat * 2 ^ n) := by
  rw [← Nat.shiftLeft_eq]
  exact BitVec.eq_of_toNat_eq (BitVec.toNat_shiftLeft.trans (BitVec.toNat_ofNat _ _).symm)

/-- A right shift divides by a power of two. -/
theorem ushiftRight_eq_ofNat_div (x : Word) (n : Nat) : x >>> n = BitVec.ofNat 64 (x.toNat / 2 ^ n) := by
  rw [← Nat.shiftRight_eq_div_pow, ← BitVec.toNat_ushiftRight, BitVec.ofNat_toNat, BitVec.setWidth_eq]

/-- Bit k of a rotated value is the bit from which the rotation brings it (R107). -/
theorem rotate_getLsbD {w k : Nat} {v : Word} (hv : ∀ j, w ≤ j → v.getLsbD j = false) (hw : k < w) (hk : k < 64) (n : Nat) :
    (v <<< (n % w) ||| v >>> (w - n % w)).getLsbD k = v.getLsbD ((k + w - n % w) % w) := by
  have hm : n % w < w := Nat.mod_lt n (by omega)
  rw [BitVec.getLsbD_or, BitVec.getLsbD_shiftLeft, BitVec.getLsbD_ushiftRight, decide_eq_true hk, Bool.true_and]
  by_cases h : k < n % w
  · have from_top : (k + w - n % w) % w = w - n % w + k := by rw [Nat.mod_eq_of_lt (by omega)]; omega
    rw [from_top, decide_eq_true h, Bool.not_true, Bool.false_and, Bool.false_or]
  · have from_below : (k + w - n % w) % w = k - n % w := by
      rw [show k + w - n % w = k - n % w + w by omega, Nat.add_mod_right, Nat.mod_eq_of_lt (by omega)]
    rw [from_below, decide_eq_false h, hv (w - n % w + k) (by omega), Bool.not_false, Bool.true_and, Bool.or_false]

/-- Bit k of a reversed value is bit w − 1 − k (R108). -/
theorem bitReverse_getLsbD {w k : Nat} (hk : k < 64) (v : Word) :
    (bitReverse w v).getLsbD k = (decide (k < w) && v.getLsbD (w - 1 - k)) := by
  induction w generalizing v with
  | zero => simp [bitReverse]
  | succ w ih =>
    have top : (if v.getLsbD 0 then 1#64 <<< w else 0).getLsbD k = (decide (k = w) && v.getLsbD 0) := by
      cases v.getLsbD 0
      · simp
      · rw [if_pos rfl, ← BitVec.twoPow_eq, BitVec.getLsbD_twoPow, Bool.and_true, ← Bool.decide_and]
        exact decide_eq_decide.2 (by omega)
    rw [bitReverse, BitVec.getLsbD_or, ih, top, BitVec.getLsbD_ushiftRight]
    rcases Nat.lt_trichotomy k w with h | h | h
    · simp [h, Nat.ne_of_lt h, Nat.lt_succ_of_lt h, show 1 + (w - 1 - k) = w - k by omega]
    · simp [h]
    · simp [Nat.not_lt.2 h.le, Nat.ne_of_gt h, show ¬ k < w + 1 by omega]

/-! ## Words of one shape -/

section

variable {i : Instr} {d a b : Operand} {u : Use} {us : List Use} {v : State → Nat → Word}

/-- A word computed on the exact integers of A and B (R98). -/
theorem writesD_intOp (f : Int → Int → Int) (he : ∀ s, exec i s = s.intOp i d a b f) (hu : i.uses = u :: us) (hd : u.o = d)
    (hr : u.rule = .dst) (hv : ∀ s l, wordOf (f (s.val l a d.w.bits) (s.val l b d.w.bits)) = v s l) : writesD i d v :=
  writesD_of he hu hd hr (fun s s' l ht h => by simp only [State.val_congr ht h]) fun s l => congrArg _ (hv s l)

/-- A word computed from A alone. -/
theorem writesD_srcOp (f : Word → Word) (he : ∀ s, exec i s = .next (s.lanesVal i d fun s l => f (s.src l a d.w.bits)))
    (hu : i.uses = u :: us) (hd : u.o = d) (hr : u.rule = .dst)
    (hv : ∀ s l, truncW d.w.bits (f (s.src l a d.w.bits)) = truncW d.w.bits (v s l)) : writesD i d v :=
  writesD_of he hu hd hr (fun s s' l ht h => by simp only [State.src_congr ht h]) hv

/-- A word computed bitwise from A and B, whose bits are those of c (R106). -/
theorem writesD_bitOp (f : Word → Word → Word) {c : State → Nat → Nat → Bool} (he : ∀ s, exec i s = s.bitOp i d a b f)
    (hu : i.uses = u :: us) (hd : u.o = d) (hr : u.rule = .dst)
    (hc : ∀ s l k, k < 64 → (f (s.src l a d.w.bits) (s.src l b d.w.bits)).getLsbD k = c s l k) :
    writesD i d fun s l => wordBits d.w.bits (c s l) :=
  writesD_of he hu hd hr (fun s s' l ht h => by simp only [State.src_congr ht h]) fun s l =>
    truncW_eq_wordBits fun k _ hk => hc s l k hk

/-- A word computed from A and an amount (R107). -/
theorem writesD_amountOp {n : Amount} (f : Word → Nat → Word)
    (he : ∀ s, exec i s = .next (s.lanesVal i d fun s l => f (s.src l a d.w.bits) (s.amount l n)))
    (hu : i.uses = u :: us) (hd : u.o = d) (hr : u.rule = .dst)
    (hv : ∀ s l, truncW d.w.bits (f (s.src l a d.w.bits) (s.amount l n)) = truncW d.w.bits (v s l)) : writesD i d v :=
  writesD_of he hu hd hr (fun s s' l ht h => by simp only [State.src_congr ht h, State.amount_congr ht h]) hv

end

/-! ## Arithmetic -/

/-- Sums, differences, products, absolute values and negations are the exact integers' (R101, R105). -/
theorem integerSumsWrap_holds : integerSumsWrap := by
  refine ⟨fun g d a b => ?iadd, fun g d a b => ?isub, fun g d a b => ?imul, fun g d a b => ?imad, fun g d a => ?iabs,
    fun g d a => ?ineg⟩
  case iadd => exact writesD_intOp (· + ·) (fun _ => rfl) rfl rfl rfl fun _ _ => rfl
  case isub => exact writesD_intOp (· - ·) (fun _ => rfl) rfl rfl rfl fun _ _ => rfl
  case imul => exact writesD_intOp (· * ·) (fun _ => rfl) rfl rfl rfl fun _ _ => rfl
  case imad =>
    exact writesD_of (fun _ => rfl) rfl rfl rfl (fun _ _ _ ht h => by simp only [State.dstVal_congr ht h, State.val_congr ht h])
      fun _ _ => rfl
  case iabs => exact writesD_srcOp (fun x => wordOf (sval d.w.bits x).natAbs) (fun _ => rfl) rfl rfl rfl fun _ _ => rfl
  case ineg => exact writesD_srcOp (fun x => wordOf (-sval d.w.bits x)) (fun _ => rfl) rfl rfl rfl fun _ _ => rfl

/-- Saturating words clamp, IMULH halves, and IMIN and IMAX choose one of the exact integers (R102–R104). -/
theorem integerExactResults_holds : integerExactResults := by
  refine ⟨fun g d a b => ?iadds, fun g d a b => ?isubs, fun g d a b => ?imulh, fun g d a b => ?imin, fun g d a b => ?imax⟩
  case iadds =>
    exact writesD_intOp (fun x y => saturate a.x d.w.bits (x + y)) (fun _ => rfl) rfl rfl rfl fun _ _ =>
      congrArg wordOf (saturate_eq_clamp a _ _)
  case isubs =>
    exact writesD_intOp (fun x y => saturate a.x d.w.bits (x - y)) (fun _ => rfl) rfl rfl rfl fun _ _ =>
      congrArg wordOf (saturate_eq_clamp a _ _)
  case imulh => exact writesD_intOp (fun x y => x * y / 2 ^ d.w.bits) (fun _ => rfl) rfl rfl rfl fun _ _ => rfl
  case imin =>
    exact writesD_intOp (fun x y => if y < x then y else x) (fun _ => rfl) rfl rfl rfl fun _ _ =>
      congrArg wordOf ((min_def_lt _ _).symm.trans (min_comm _ _))
  case imax =>
    exact writesD_intOp (fun x y => if x < y then y else x) (fun _ => rfl) rfl rfl rfl fun _ _ =>
      congrArg wordOf (max_def_lt _ _).symm

/-- Settles O1: each word computes on the exact values of its sources, and saturation is a clamp. -/
theorem integerArithmetic : Obligations.IntegerArithmetic := ⟨integerSumsWrap_holds, integerExactResults_holds⟩

/-! ## Logic, shifts and rotation -/

/-- Logic works bit by bit, and BREV reverses the bits (R106, R108). -/
theorem logicIsBitwise_holds : logicIsBitwise := by
  refine ⟨fun g d a b => ?and, fun g d a b => ?or, fun g d a b => ?xor, fun g d a b => ?andn, fun g d a => ?not, fun g d a b => ?sel,
    fun g d a => ?brev⟩
  case and => exact writesD_bitOp (· &&& ·) (fun _ => rfl) rfl rfl rfl fun _ _ _ _ => BitVec.getLsbD_and
  case or => exact writesD_bitOp (· ||| ·) (fun _ => rfl) rfl rfl rfl fun _ _ _ _ => BitVec.getLsbD_or
  case xor => exact writesD_bitOp (· ^^^ ·) (fun _ => rfl) rfl rfl rfl fun _ _ _ _ => BitVec.getLsbD_xor
  case andn =>
    exact writesD_bitOp (fun x y => x &&& ~~~y) (fun _ => rfl) rfl rfl rfl fun _ _ _ hk => by
      rw [BitVec.getLsbD_and, BitVec.getLsbD_not, decide_eq_true hk, Bool.true_and]
  case not =>
    exact writesD_srcOp (~~~ ·) (fun _ => rfl) rfl rfl rfl fun _ _ => truncW_eq_wordBits fun _ _ hk => by
      rw [BitVec.getLsbD_not, decide_eq_true hk, Bool.true_and]
  case sel =>
    refine writesD_of (fun _ => rfl) rfl rfl rfl (fun _ _ _ ht h => by simp only [State.src_congr ht h, State.dstVal_congr ht h])
      fun s l => truncW_eq_wordBits fun k _ hk => ?_
    rw [BitVec.getLsbD_or, BitVec.getLsbD_and, BitVec.getLsbD_and, BitVec.getLsbD_not, decide_eq_true hk, Bool.true_and]
    cases (s.src l b d.w.bits).getLsbD k <;> simp
  case brev =>
    exact writesD_srcOp (bitReverse d.w.bits) (fun _ => rfl) rfl rfl rfl fun _ _ => truncW_eq_wordBits fun _ hw hk => by
      rw [bitReverse_getLsbD hk, decide_eq_true hw, Bool.true_and]

/-- Shifts multiply and divide by a power of two, whatever the amount, and ROT turns the w bits (R107). -/
theorem shiftsAndRotation_holds : shiftsAndRotation := by
  refine ⟨fun g d a n => ?shl, fun g d a n => ?shr, fun g d a n => ?sar, fun g d a n => ?rot⟩
  case shl =>
    exact writesD_amountOp (· <<< ·) (fun _ => rfl) rfl rfl rfl fun _ _ => congrArg _ (shiftLeft_eq_ofNat_mul _ _)
  case shr =>
    exact writesD_amountOp (· >>> ·) (fun _ => rfl) rfl rfl rfl fun _ _ => congrArg _ (ushiftRight_eq_ofNat_div _ _)
  case sar => exact writesD_amountOp (fun x m => wordOf (sval d.w.bits x / 2 ^ m)) (fun _ => rfl) rfl rfl rfl fun _ _ => rfl
  case rot =>
    exact writesD_amountOp (fun x m => x <<< (m % d.w.bits) ||| x >>> (d.w.bits - m % d.w.bits)) (fun _ => rfl) rfl rfl rfl fun s l =>
      truncW_eq_wordBits fun k hw hk => rotate_getLsbD (fun _ => s.src_getLsbD_of_ge l a) hw hk _

/-- Settles O2: D's bits agree below its width; a rotation reads a source that has no bit at or above that width. -/
theorem logicAndShifts : Obligations.LogicAndShifts := ⟨logicIsBitwise_holds, shiftsAndRotation_holds⟩

end Machine
end Sys2Proof

/-! Classes A, C and E: moves, mask and affine reads, slice ranges and stash reads (03 R87–R89, R96; 04 R120, R121; 07 R190). -/

namespace Sys2Proof

/-- Does an operand name slices: of the view, or by an index register? -/
def Operand.namesSlices (o : Operand) : Prop := (∃ v, o.sel = .slice v) ∨ (∃ k, o.sel = .index k)

namespace Machine

/-! ## Moves, mask reads and affine reads -/

/-- A zero-extended immediate shifted left is the immediate times a power of two (R87). -/
theorem setWidth_shiftLeft_eq_ofNat_mul (imm : BitVec 28) (n : Nat) :
    imm.setWidth 64 <<< n = BitVec.ofNat 64 (imm.toNat * 2 ^ n) := by
  rw [shiftLeft_eq_ofNat_mul, BitVec.toNat_setWidth_of_le (by omega)]

/-- MOV, MOVI, MOVHI, MGET, AGET and ALEA each write one value to D, read from what no lane of the word changes. -/
theorem movesAndReadsWriteD_holds : movesAndReadsWriteD := by
  refine ⟨fun g d a => ?mov, fun g d imm => ?movi, fun g d imm => ?movhi, fun g d arr n => ?mget, fun g d a q => ?aget,
    fun g d a n sc => ?alea⟩
  case mov => exact writesD_srcOp id (fun _ => rfl) rfl rfl rfl fun _ _ => rfl
  case movi => exact writesD_of (fun _ => rfl) rfl rfl rfl (fun _ _ _ _ _ => rfl) fun _ _ => rfl
  case movhi =>
    exact writesD_of (fun _ => rfl) rfl rfl rfl (fun _ _ _ _ _ => rfl) fun _ _ => congrArg _ (setWidth_shiftLeft_eq_ofNat_mul imm _)
  case mget =>
    refine writesD_of (fun _ => rfl) rfl rfl rfl (fun s s' l ht _ => by simp only [ht.ig]) fun s l => ?_
    cases arr <;> rfl
  case aget =>
    refine writesD_of (fun _ => rfl) rfl rfl rfl (fun s s' l ht _ => by simp only [ht.ig]) fun s l => ?_
    cases q <;> cases s.ig.affReg l (affNum a) <;> rfl
  case alea =>
    exact writesD_of (fun _ => rfl) rfl rfl rfl (fun s s' l ht h => by simp only [State.affVal, ht.ig, State.val_congr ht h])
      fun _ _ => rfl

/-! ## Words that write a range of slices -/

/-- An operand that a slice range or a memory-pipe destination allows names slices, and its X bit is clear (R46, R88). -/
theorem OpRule.range_slices {r : OpRule} {o : Operand} (hr : r = .place ∨ r = .dstMem) (h : r.allows o = true) :
    o.namesSlices ∧ o.x = false := by
  have x_clear : ∀ {x : Bool}, (!x) = true → x = false := fun hx => by simpa using hx
  rcases o with ⟨w, x, sel⟩
  rcases hr with rfl | rfl <;> cases sel
  case inl.slice v | inr.slice v => exact ⟨.inl ⟨v, rfl⟩, x_clear h⟩
  case inl.index k | inr.index k => exact ⟨.inr ⟨k, rfl⟩, x_clear h⟩
  all_goals exact (Bool.false_ne_true h).elim

/-- Such an operand of a well-formed word. -/
theorem Instr.wf_range {i : Instr} (h : i.wf = true) {u : Use} (hu : u ∈ i.uses) (hr : u.rule = .place ∨ u.rule = .dstMem) :
    u.o.namesSlices ∧ u.o.x = false :=
  OpRule.range_slices hr (Instr.wf_use h hu)

/-- Without a no-write-back bit a value goes to the slices that D covers (R67). -/
theorem State.dst_of_not_x (s : State) (l : Nat) {d : Operand} (v : Word) (hx : d.x = false) :
    s.dst l d v = s.writeSlices l ((s.lt l).locate s.gs d d.w.slices) (sliceVals d.w.slices v) :=
  if_neg (Bool.eq_false_iff.1 hx)

/-- Writing an operand's range makes its lane's thread read the new values there, and changes nothing else of it. -/
theorem State.writeSlices_wrote (s : State) (l : Nat) {d : Operand} {n : Nat} {vs : List Slice}
    (h : s.ig.t0 + l < s.threads.length) (hd : d.namesSlices) (hv : vs.length = n) :
    let ps := (s.lt l).locate s.gs d n
    (s.lt l).Wrote ((s.writeSlices l ps vs).lt l) (s.lt l) ps vs := by
  intro ps
  rw [State.writeSlices_lt _ _ _ _ h]
  exact (s.lt l).addPend_wrote _ (Thread.locate_nodup _ _ _ _) (by rw [hv, Thread.locate_length _ _ _ _ hd])

/-- A lane of a word that writes n slices from D's start with values that rest on the lane's own thread; on an arithmetic pipe it
leaves zero at width 4 in its latch, as does a lane whose guard is false, which writes nothing (R39, R88, R89, R96). -/
def rangeLane (s : State) (i : Instr) (latch : Bool) (d : Operand) (n : Nat) (vs : Nat → Thread → List Slice) (l : Nat)
    (a b : Thread) : Prop :=
  let c := if latch then a.latched s.issue.latch 0 .w4 else a
  if s.guardHolds l i.guard then a.Wrote b c (a.locate s.gs d n) (vs s.gs a) else b = c

/-- The state after a lane of such a word: its slices written, and its latch. -/
def State.writeLaneRange (s : State) (latch : Bool) (d : Operand) (n : Nat) (vs : Nat → Thread → List Slice) (l : Nat) : State :=
  let u := s.writeSlices l ((s.lt l).locate s.gs d n) (vs s.gs (s.lt l))
  if latch then offNone u l else u

/-- What writing a range does to its lane, and that it does nothing to the others. -/
theorem State.writeLaneRange_lane (s : State) {latch : Bool} {d : Operand} {n : Nat} {vs : Nat → Thread → List Slice} {l : Nat}
    (h : s.ig.t0 + l < s.threads.length) (hd : d.namesSlices)
    (hv : ∀ g a, (vs g a).length = n) :
    LaneOnly s l (s.writeLaneRange latch d n vs l) ∧
      (s.lt l).Wrote ((s.writeLaneRange latch d n vs l).lt l) (if latch then (s.lt l).latched s.issue.latch 0 .w4 else s.lt l)
        ((s.lt l).locate s.gs d n) (vs s.gs (s.lt l)) := by
  have hw := s.writeSlices_wrote l h hd (hv s.gs (s.lt l))
  have ho := LaneOnly.writeSlices s l ((s.lt l).locate s.gs d n) (vs s.gs (s.lt l))
  cases latch
  · exact ⟨ho, hw⟩
  · refine ⟨ho.trans (.setLatch _ l 0 .w4), ?_⟩
    have e := State.setLatch_lt _ l 0 .w4 (by rw [ho.threads.ig, ho.threads.2]; exact h)
    rw [ho.threads.issue] at e
    exact e ▸ hw.latched _ _ _

/-- A word whose meaning is that each executing lane writes a range. -/
theorem rangeLanes_of {i : Instr} {latch : Bool} {d : Operand} {n : Nat} {vs : Nat → Thread → List Slice}
    (hd : i.wf = true → d.namesSlices) (hv : i.wf = true → ∀ g a, (vs g a).length = n)
    (he : i.wf = true → ∀ s, exec i s =
      .next (s.lanesOk i (if latch then offNone else offMem) fun s l => s.writeLaneRange latch d n vs l)) :
    ∀ s : State, s.canRun i = true → runsTo i s fun t => LanesDo s t (rangeLane s i latch d n vs) := by
  intro s hs
  have hw := State.canRun_wf hs
  refine ⟨_, he hw s, State.lanesOk_do hs fun s' l _ ht h hb => ?_⟩
  unfold rangeLane
  by_cases hg : s.guardHolds l i.guard = true
  · simp only [if_pos hg]
    have := s'.writeLaneRange_lane (latch := latch) hb (hd hw) (hv hw)
    rwa [h, ht.gs, ht.issue] at this
  · simp only [if_neg hg]
    cases latch
    · exact ⟨.refl s' l, h⟩
    · refine ⟨.setLatch s' l 0 .w4, (State.setLatch_lt s' l 0 .w4 hb).trans ?_⟩
      rw [h, ht.issue]
      rfl

/-! ## SMOVE, SSET and STASHQ -/

/-- STASHQ's value, by query: the free chunks saturated to the width, STP, STL and STB (R96). -/
theorem stashqVal_eq (th : Thread) (q : BitVec 2) (w : Nat) :
    stashqVal th q w =
      if q = 1 then th.stp else if q = 2 then th.stl else if q = 3 then th.stb
      else BitVec.ofNat 64 (min ((th.stl.toNat - th.stp.toNat) / 32) (2 ^ w - 1)) := by
  have queries : q = 0 ∨ q = 1 ∨ q = 2 ∨ q = 3 := by bv_omega
  rcases queries with rfl | rfl | rfl | rfl <;> rfl

/-- SMOVE, SSET and STASHQ each write a range of slices of their own lane's thread. -/
theorem sliceRangesAndStash_holds : sliceRangesAndStash := by
  refine ⟨fun g d a n => ?smove, fun g d v n1 => ?sset, fun g d q => ?stashq⟩
  case smove =>
    exact rangeLanes_of (latch := true) (vs := fun G x => (x.locate G a n.toNat).map x.slice)
      (fun hw => (Instr.wf_range hw List.mem_cons_self (.inl rfl)).1)
      (fun hw G x => by
        have ha : a.namesSlices := (Instr.wf_range hw (List.mem_cons_of_mem _ List.mem_cons_self) (.inl rfl)).1
        rw [List.length_map, Thread.locate_length _ _ _ _ ha])
      fun _ _ => rfl
  case sset =>
    exact rangeLanes_of (latch := true) (vs := fun _ _ => List.replicate (n1.toNat + 1) { v, poison := false })
      (fun hw => (Instr.wf_range hw List.mem_cons_self (.inl rfl)).1) (fun _ _ _ => List.length_replicate) fun _ _ => rfl
  case stashq =>
    have hd (hw : (Instr.stashq g d q).wf = true) : d.namesSlices ∧ d.x = false :=
      Instr.wf_range hw List.mem_cons_self (.inr rfl)
    simp only [← stashqVal_eq]
    refine rangeLanes_of (latch := false) (vs := fun _ x => sliceVals d.w.slices (stashqVal x q d.w.bits))
      (fun hw => (hd hw).1) (fun _ _ _ => sliceVals_length _ _) fun hw s => ?_
    exact congrArg (fun f => Host.Outcome.next (s.lanesOk (.stashq g d q) offMem f))
      (funext fun s' => funext fun l => s'.dst_of_not_x l _ (hd hw).2)

/-- Settles O5: each word writes what it has read from its own lane's thread and the group, as if all reads came first. -/
theorem movesAndSliceRanges : Obligations.MovesAndSliceRanges := ⟨movesAndReadsWriteD_holds, sliceRangesAndStash_holds⟩

end Machine
end Sys2Proof

/-! Bit counts, bit fields and the counter-based hash: words that write a number of bits, a run of bits or a mix of them
(04 R108, R109; 16 R416). -/

namespace Sys2Proof
namespace Machine

/-! ## Counts of bits -/

/-- The population count is the number of bit positions below the width that hold a 1 (R108). -/
theorem popCount_eq_countP (w : Nat) (v : Word) : popCount w v = (List.range w).countP fun k => v.getLsbD k := by
  induction w with
  | zero => rfl
  | succ w ih => rw [popCount, ih, List.range_succ, List.countP_append, List.countP_singleton]

/-- A value with no bit at or above a width is less than that power of two. -/
theorem toNat_lt_of_getLsbD_of_ge {w : Nat} {v : Word} (hv : ∀ k, w ≤ k → v.getLsbD k = false) : v.toNat < 2 ^ w :=
  Nat.lt_pow_two_of_testBit _ fun k hk => (BitVec.testBit_toNat v).trans (hv k hk)

/-- Above the highest 1, whose position is the logarithm, all bits of the width are leading zeros; of zero, all are (R108). -/
theorem leadZeros_eq {w : Nat} {v : Word} (hv : ∀ k, w ≤ k → v.getLsbD k = false) :
    leadZeros w v = if v = 0 then w else w - 1 - Nat.log2 v.toNat := by
  induction w with
  | zero => split <;> simp [leadZeros]
  | succ w ih =>
    rw [leadZeros]
    cases top : v.getLsbD w with
    | true =>
      have h0 : v ≠ 0 := fun h => by simp [h] at top
      have highest : Nat.log2 v.toNat = w :=
        (Nat.log2_eq_iff (BitVec.toNat_ne.1 h0)).2 ⟨Nat.ge_two_pow_of_testBit top, toNat_lt_of_getLsbD_of_ge hv⟩
      rw [if_pos rfl, if_neg h0, highest, Nat.add_sub_cancel, Nat.sub_self]
    | false =>
      have below : ∀ k, w ≤ k → v.getLsbD k = false := fun k hk =>
        (Nat.eq_or_lt_of_le hk).elim (fun e => e ▸ top) (hv k)
      rw [if_neg Bool.false_ne_true, ih below]
      by_cases h0 : v = 0
      · rw [if_pos h0, if_pos h0]
      · have highest : Nat.log2 v.toNat < w := (Nat.log2_lt (BitVec.toNat_ne.1 h0)).2 (toNat_lt_of_getLsbD_of_ge below)
        rw [if_neg h0, if_neg h0]
        omega

/-! ## Bit fields -/

/-- A two's complement value at a width is the integer of the bit vector cut to that width. -/
theorem sval_succ_eq_toInt (n : Nat) (v : Word) : sval (n + 1) v = (v.setWidth (n + 1)).toInt := by
  rw [BitVec.toInt_eq_toNat_cond, BitVec.toNat_setWidth, sval, uval, Nat.add_sub_cancel]
  have half : 2 * (v.toNat % 2 ^ (n + 1)) < 2 ^ (n + 1) ↔ v.toNat % 2 ^ (n + 1) < 2 ^ n := by
    rw [Nat.pow_succ 2 n]
    omega
  simp only [half, Nat.cast_pow, Nat.cast_ofNat]

/-- A sign-extended field repeats its highest bit above it (R109). -/
theorem extendW_true_getLsbD {n k : Nat} (hk : k < 64) (v : Word) :
    (extendW true (n + 1) v).getLsbD k = v.getLsbD (min k n) := by
  have extended : extendW true (n + 1) v = (v.setWidth (n + 1)).signExtend 64 := congrArg wordOf (sval_succ_eq_toInt n v)
  rw [extended, BitVec.getLsbD_signExtend, decide_eq_true hk, Bool.true_and, BitVec.msb_eq_getLsbD_last]
  by_cases h : k < n + 1
  · rw [if_pos h, BitVec.getLsbD_setWidth, decide_eq_true h, Bool.true_and, Nat.min_eq_left (by omega)]
  · rw [if_neg h, BitVec.getLsbD_setWidth, Nat.add_sub_cancel, decide_eq_true n.lt_succ_self, Bool.true_and,
      Nat.min_eq_right (by omega)]

/-- A word is the one given bit by bit. -/
theorem eq_wordBits {x : Word} {f : Nat → Bool} (h : ∀ k < 64, x.getLsbD k = f k) : x = wordBits 64 f :=
  BitVec.eq_of_getLsbD_eq fun k hk => by rw [wordBits_getLsbD 64 f k hk, decide_eq_true hk, Bool.true_and, h k hk]

/-- Bit k of a value into which n bits of x are put at p is x's inside the field and the value's own outside (R109). -/
theorem insertField_getLsbD {k : Nat} (hk : k < 64) (old x : Word) (n p : Nat) :
    (old &&& ~~~(truncW n (BitVec.allOnes 64) <<< p) ||| (x <<< p) &&& (truncW n (BitVec.allOnes 64) <<< p)).getLsbD k =
      if p ≤ k ∧ k < p + n then x.getLsbD (k - p) else old.getLsbD k := by
  have mask : (truncW n (BitVec.allOnes 64) <<< p).getLsbD k = decide (p ≤ k ∧ k < p + n) := by
    rw [BitVec.getLsbD_shiftLeft, truncW_getLsbD, BitVec.getLsbD_allOnes, Bool.eq_iff_iff]
    simp only [Bool.and_eq_true, Bool.not_eq_true', decide_eq_true_eq, decide_eq_false_iff_not]
    omega
  rw [BitVec.getLsbD_or, BitVec.getLsbD_and, BitVec.getLsbD_and, BitVec.getLsbD_not, mask, BitVec.getLsbD_shiftLeft,
    decide_eq_true hk]
  by_cases inside : p ≤ k ∧ k < p + n
  · simp [inside, Nat.not_lt.2 inside.1]
  · simp [inside]

/-! ## The hash -/

/-- The upper half of a word is its quotient by 2^32. -/
theorem upperHalf_eq_ofNat_div (a : Word) : (a >>> 32).setWidth 32 = BitVec.ofNat 32 (a.toNat / 2 ^ 32) := by
  rw [← BitVec.ofNat_toNat, BitVec.toNat_ushiftRight, Nat.shiftRight_eq_div_pow]

/-! ## The words -/

/-- Settles O3: counts go over the source's own width, fields agree with the source bit by bit, and the hash's steps are R416's. -/
theorem bitCountsAndFields : Obligations.BitCountsAndFields := by
  refine ⟨fun g d a => ?popc, fun g d a => ?clz, fun g d a len1 pos => ?bfx, fun g d a len1 pos => ?bfxS,
    fun g d a len1 pos => ?bfi, fun g d a b => ?rng⟩
  case bfi =>
    refine writesD_of (fun _ => rfl) rfl rfl rfl (fun _ _ _ ht h => by simp only [State.src_congr ht h, State.dstVal_congr ht h])
      fun s l => truncW_eq_wordBits fun k _ hk => ?_
    exact insertField_getLsbD hk _ _ _ _
  all_goals
    refine writesD_of (fun _ => rfl) rfl rfl rfl (fun _ _ _ ht h => by simp only [State.src_congr ht h]) fun s l => congrArg _ ?_
  case popc => exact congrArg _ (popCount_eq_countP _ _)
  case clz => exact congrArg _ (leadZeros_eq fun _ => s.src_getLsbD_of_ge l a)
  case bfx =>
    refine eq_wordBits fun k _ => ?_
    exact (truncW_getLsbD _ _ _).trans (congrArg _ (BitVec.getLsbD_ushiftRight _ _ _))
  case bfxS =>
    refine eq_wordBits fun k hk => ?_
    rw [extendW_true_getLsbD hk, BitVec.getLsbD_ushiftRight]
  case rng => rw [rngHash, upperHalf_eq_ofNat_div]

end Machine
end Sys2Proof

/-! Class P: SYSRD, SYSWR and the FMODE words (18 R448, R449, R464, R467). -/

namespace Sys2Proof
namespace Machine

/-! ## Registers that all lanes share -/

/-- The groups differ at most in the registers that SYSWR and FMODE write: TINFO, FMODE, AUDCTL and AUDCNT. -/
def Group.ControlOnly (g h : Group) : Prop :=
  h = { g with tinfo := h.tinfo, fmode := h.fmode, audctl := h.audctl, audcnt := h.audcnt }

/-- The states differ at most in such registers of the issuing group and in send counters: no operand and no guard reads these. -/
structure ControlOnly (s t : State) : Prop where
  issue : t.issue = s.issue
  threads : t.threads = s.threads
  grids : t.grids = s.grids
  clusters : t.clusters = s.clusters
  group : s.ig.ControlOnly t.ig
  team : ∀ n, t.team n = { s.team n with sndc := (t.team n).sndc }

theorem ControlOnly.refl (s : State) : ControlOnly s s := ⟨rfl, rfl, rfl, rfl, rfl, fun _ => rfl⟩

theorem Group.ControlOnly.trans {a b c : Group} (h : a.ControlOnly b) (k : b.ControlOnly c) : a.ControlOnly c := by
  unfold Group.ControlOnly at h k ⊢
  rw [k, h]

theorem ControlOnly.trans {s t u : State} (h : ControlOnly s t) (k : ControlOnly t u) : ControlOnly s u where
  issue := k.issue.trans h.issue
  threads := k.threads.trans h.threads
  grids := k.grids.trans h.grids
  clusters := k.clusters.trans h.clusters
  group := h.group.trans k.group
  team n := by rw [k.team, h.team]

section

variable {s t : State} (h : ControlOnly s t)
include h

theorem ControlOnly.lt (l : Nat) : t.lt l = s.lt l := by
  rw [State.lt, State.thread, h.threads, h.group]
  rfl

/-- A field of the issuing group that is not one of these registers reads the same. -/
theorem ControlOnly.field {α : Type} (p : Group → α) (hp : ∀ (g : Group) (info : Word) (mode : BitVec 11) (ctl cnt : Word),
      p { g with tinfo := info, fmode := mode, audctl := ctl, audcnt := cnt } = p g) :
    p t.ig = p s.ig := by
  rw [h.group, hp]

theorem ControlOnly.ir : t.ir = s.ir := by
  have team : (t.group t.issue.grp).team = (s.group s.issue.grp).team := h.field Group.team fun _ _ _ _ _ => rfl
  have cluster (n : Nat) : (t.team n).cluster = (s.team n).cluster := by rw [h.team]
  simp only [State.ir, State.recOf, State.gridOfGroup, State.grid, State.cluster, team, cluster, h.grids, h.clusters]

theorem ControlOnly.gs : t.gs = s.gs := congrArg (fun r : LaunchRec => r.g.toNat) h.ir

theorem ControlOnly.affReg (l n : Nat) : t.ig.affReg l n = s.ig.affReg l n :=
  h.field (·.affReg l n) fun _ _ _ _ _ => rfl

theorem ControlOnly.guardHolds (l : Nat) (g : Guard) : t.guardHolds l g = s.guardHolds l g := State.guardHolds_congr (h.lt l) g

theorem ControlOnly.operandFault (l : Nat) (i : Instr) (us : List Use) : t.operandFault l i us = s.operandFault l i us := by
  simp only [State.operandFault, State.indexFault, State.markReads, State.lowestMark, h.lt, h.gs]

theorem ControlOnly.src (l : Nat) (o : Operand) (w : Nat) : t.src l o w = s.src l o w := by
  have gi : t.ig.gi = s.ig.gi := h.field Group.gi fun _ _ _ _ _ => rfl
  have ti : (t.team t.ig.team).ti = (s.team s.ig.team).ti := by
    rw [h.team, h.field Group.team fun _ _ _ _ _ => rfl]
  simp only [State.src, State.opRaw, h.lt, h.gs, h.affReg, gi, ti]

theorem ControlOnly.sysRefuses (r : Nat) (v : Word) : t.sysRefuses r v = s.sysRefuses r v := by simp only [State.sysRefuses, h.ir]

end

/-! ## Changes of the issuing group and of a team -/

theorem State.onIg_ig (s : State) (f : Group → Group) (h : s.issue.grp < s.groups.length) : (s.onIg f).ig = f s.ig := by
  simp [State.ig, State.group, State.onIg, State.onGroup, List.getD_eq_getElem?_getD, h]

theorem State.onIg_group (s : State) (f : Group → Group) {k : Nat} (h : k ≠ s.issue.grp) : (s.onIg f).group k = s.group k := by
  simp [State.group, State.onIg, State.onGroup, List.getD_eq_getElem?_getD, Ne.symm h]

/-- A team's place that no team has reads as the default, which the change keeps. -/
theorem State.onTeam_team (s : State) (n m : Nat) {f : Team → Team} (hf : f default = default) :
    (s.onTeam n f).team m = if m = n then f (s.team n) else s.team m := by
  simp only [State.team, State.onTeam, List.getD_eq_getElem?_getD, List.getElem?_modify]
  by_cases e : m = n
  · subst e
    cases hm : s.teams[m]? <;> simp [hf]
  · simp [e, Ne.symm e]

theorem ControlOnly.onIg (s : State) {f : Group → Group} (hf : ∀ g : Group, g.ControlOnly (f g)) : ControlOnly s (s.onIg f) where
  issue := rfl
  threads := rfl
  grids := rfl
  clusters := rfl
  team _ := rfl
  group := by
    by_cases h : s.issue.grp < s.groups.length
    · exact (s.onIg_ig f h).symm ▸ hf s.ig
    · have same : s.groups.modify s.issue.grp f = s.groups := List.modify_eq_self (Nat.le_of_not_lt h)
      unfold State.onIg State.onGroup
      rw [same]
      rfl

theorem ControlOnly.onTeam (s : State) (n : Nat) {f : Team → Team} (hd : f default = default)
    (hf : ∀ m : Team, f m = { m with sndc := (f m).sndc }) : ControlOnly s (s.onTeam n f) where
  issue := rfl
  threads := rfl
  grids := rfl
  clusters := rfl
  group := rfl
  team m := by
    rw [State.onTeam_team s n m hd]
    split
    · next e => exact e ▸ hf (s.team n)
    · rfl

theorem State.onIg_id (s : State) : (s.onIg fun g => g) = s := by
  change { s with groups := s.groups.modify s.issue.grp id } = s
  rw [List.modify_id]

theorem State.onIg_onIg (s : State) (f f' : Group → Group) : (s.onIg f).onIg f' = s.onIg fun g => f' (f g) := by
  change { s with groups := (s.groups.modify s.issue.grp f).modify s.issue.grp f' } = _
  rw [List.modify_modify_eq]
  rfl

theorem State.onTeam_id (s : State) (n : Nat) : (s.onTeam n fun m => m) = s := by
  change { s with teams := s.teams.modify n id } = s
  rw [List.modify_id]

theorem State.onTeam_onTeam (s : State) (n : Nat) (f f' : Team → Team) :
    (s.onTeam n f).onTeam n f' = s.onTeam n fun m => f' (f m) := by
  change { s with teams := (s.teams.modify n f).modify n f' } = _
  rw [List.modify_modify_eq]
  rfl

/-- Changes of the issuing group made one after another are one change. -/
theorem State.foldl_onIg (s : State) (f : Nat → Group → Group) (ls : List Nat) :
    ls.foldl (fun s l => s.onIg (f l)) s = s.onIg fun g => ls.foldl (fun g l => f l g) g := by
  induction ls generalizing s with
  | nil => exact s.onIg_id.symm
  | cons l ls ih => exact (ih (s.onIg (f l))).trans (s.onIg_onIg (f l) _)

/-- Changes of the issuing group's team made one after another are one change. -/
theorem State.foldl_onTeam (s : State) (f : Nat → Team → Team) (ls : List Nat) :
    ls.foldl (fun s l => s.onTeam s.ig.team (f l)) s = s.onTeam s.ig.team fun m => ls.foldl (fun m l => f l m) m := by
  induction ls generalizing s with
  | nil => exact (s.onTeam_id s.ig.team).symm
  | cons l ls ih => exact (ih (s.onTeam s.ig.team (f l))).trans (s.onTeam_onTeam s.ig.team (f l) _)

/-! ## Words of the memory pipe whose lanes change shared registers -/

/-- A lane of such a word that may run: a lane whose guard is false changes nothing. -/
theorem State.lane_eq_of_controlOnly {s s' : State} {i : Instr} {l : Nat} (hr : s.canRun i = true) (hl : l ∈ s.issue.lanes)
    (h : ControlOnly s s') {f : State → Nat → LaneRes} {u : State} (hf : s.guardHolds l i.guard = true → f s' l = .ok u) :
    s'.lane i i.uses offMem f l = if s.guardHolds l i.guard then u else s' := by
  unfold State.lane
  rw [State.lowestMark_congr (h.lt l), State.canRun_guard hr hl]
  simp only [h.guardHolds]
  split
  · next hg => rw [h.operandFault, State.canRun_operands hr hl hg, hf hg]
  · rfl

/-- The lanes that execute act one after another, each on what the ones before it left. -/
theorem State.foldl_lane_of_controlOnly {s : State} {i : Instr} {f : State → Nat → LaneRes} {step : State → Nat → State}
    (hr : s.canRun i = true)
    (hf : ∀ s' l, l ∈ s.issue.lanes → s.guardHolds l i.guard = true → ControlOnly s s' →
      f s' l = .ok (step s' l) ∧ ControlOnly s' (step s' l)) :
    let t := (s.issue.lanes.filter fun l => s.guardHolds l i.guard).foldl step s
    s.issue.lanes.foldl (fun s l => s.lane i i.uses offMem f l) s = t ∧ ControlOnly s t := by
  suffices H : ∀ (ls : List Nat) (s' : State), (∀ l ∈ ls, l ∈ s.issue.lanes) → ControlOnly s s' →
      let t := (ls.filter fun l => s.guardHolds l i.guard).foldl step s'
      ls.foldl (fun s l => s.lane i i.uses offMem f l) s' = t ∧ ControlOnly s t from
    H s.issue.lanes s (fun _ hl => hl) (.refl s)
  intro ls
  induction ls with
  | nil => exact fun s' _ h => ⟨rfl, h⟩
  | cons l ls ih =>
    intro s' hls h
    have hl : l ∈ s.issue.lanes := hls l List.mem_cons_self
    have hls' : ∀ k ∈ ls, k ∈ s.issue.lanes := fun k hk => hls k (List.mem_cons_of_mem l hk)
    rw [List.foldl_cons, State.lane_eq_of_controlOnly hr hl h (fun hg => (hf s' l hl hg h).1)]
    by_cases hg : s.guardHolds l i.guard = true
    · rw [if_pos hg, List.filter_cons_of_pos (p := fun l => s.guardHolds l i.guard) hg]
      exact ih _ hls' (h.trans (hf s' l hl hg h).2)
    · rw [if_neg hg, List.filter_cons_of_neg (p := fun l => s.guardHolds l i.guard) hg]
      exact ih _ hls' h

/-- A state that differs from the beginning of a meaning in shared registers alone holds no fault to decide. -/
theorem ControlOnly.finish {s t : State} (h : ControlOnly s t) (hb : s.begun = true) : t.finish = t :=
  State.finish_eq (by rw [h.issue]; exact (State.begun_faults hb).1) (by rw [h.issue]; exact (State.begun_faults hb).2)

theorem State.begun_group {s : State} (h : s.begun = true) : s.issue.grp < s.groups.length := by
  simp only [State.begun, Bool.and_eq_true, decide_eq_true_eq] at h
  exact h.1.1.1.2

/-! ## What register accesses do -/

/-- A known register of the privileged numbers, if the access is not a write of a read-only one, raises 0x08 (R449). -/
theorem sysFault_privileged {r : Nat} {write : Bool} (hr : 0x300 ≤ r) (hk : sysKnown r = true)
    (hw : write = true → sysReadOnly r = false) : sysFault r write = some (0x08, permInfo 6 r) := by
  have legal : (!sysKnown r || (write && sysReadOnly r)) = false := by
    cases write
    · simp [hk]
    · simp [hk, hw]
  rw [sysFault, legal, if_neg Bool.false_ne_true, if_pos hr]

/-- What a lane reads of a register rests on no other lane's thread. -/
theorem State.sysRead_congr {s t : State} {l : Nat} (ht : ThreadsOnly s t) (h : t.lt l = s.lt l) (r : Nat) :
    t.sysRead l r = s.sysRead l r := by
  have tid : t.tid l = s.tid l := by rw [ht.1]; rfl
  have grid (g : Nat) : t.grid (t.gridOfGroup g) = s.grid (s.gridOfGroup g) := by rw [ht.1]; rfl
  have modReg : t.modReg r = s.modReg r := by rw [ht.1]; rfl
  simp only [State.sysRead, h, ht.issue, ht.ig, ht.team, tid, grid, modReg]

/-- The value that a lane of SYSWR writes: its source, extended as its X bit says (R464). -/
def State.sysSource (s : State) (a : Operand) (l : Nat) : Word := extendW a.x a.w.bits (s.src l a a.w.bits)

/-- What a lane of SYSWR does: the value is refused or written (R5, R464). -/
def State.sysWriteLane (a : Operand) (r : Nat) (s : State) (l : Nat) : LaneRes :=
  if s.sysRefuses r (s.sysSource a l) then .fault 0x02 0 else .ok (s.sysWrite l r (s.sysSource a l))

theorem exec_sysrd_of_fault {r : BitVec 10} {c : Nat} {info : Word} (h : sysFault r.toNat false = some (c, info)) (g : Guard)
    (d : Operand) (s : State) : exec (.sysrd g d r) s = .next (s.faultAll 6 c info).finish := by
  change execSysrd g d r s = _
  rw [execSysrd, h]

theorem exec_sysrd_of_none {r : BitVec 10} (h : sysFault r.toNat false = none) (g : Guard) (d : Operand) (s : State) :
    exec (.sysrd g d r) s = .next (s.lanesOk (.sysrd g d r) offMem fun s l => s.dst l d (s.sysRead l r.toNat)) := by
  change execSysrd g d r s = _
  rw [execSysrd, h]

theorem exec_syswr_of_fault {r : BitVec 10} {c : Nat} {info : Word} (h : sysFault r.toNat true = some (c, info)) (g : Guard)
    (a : Operand) (s : State) : exec (.syswr g a r) s = .next (s.faultAll 6 c info).finish := by
  change execSyswr g a r s = _
  rw [execSyswr, h]

theorem exec_syswr_of_none {r : BitVec 10} (h : sysFault r.toNat true = none) (g : Guard) (a : Operand) (s : State) :
    exec (.syswr g a r) s = .next (s.lanes (.syswr g a r) offMem (State.sysWriteLane a r.toNat)) := by
  change execSyswr g a r s = _
  rw [execSyswr, h]
  rfl

/-- SYSRD writes the value read to D in each lane that executes, and changes no other lane. -/
theorem State.sysrd_lanesDo {g : Guard} {d : Operand} {r : BitVec 10} (s : State) (hs : s.canRun (.sysrd g d r) = true) :
    LanesDo s (s.lanesOk (.sysrd g d r) offMem fun s l => s.dst l d (s.sysRead l r.toNat)) fun l x y =>
      if s.guardHolds l g then x.Wrote y x (x.locate s.gs d d.w.slices) (sliceVals d.w.slices (s.sysRead l r.toNat)) else y = x := by
  obtain ⟨hd, hx⟩ : d.namesSlices ∧ d.x = false := Instr.wf_range (State.canRun_wf hs) List.mem_cons_self (.inr rfl)
  have guard : (Instr.sysrd g d r).guard = g := rfl
  refine State.lanesOk_do hs fun s' l _ ht h hb => ?_
  by_cases hg : s.guardHolds l g = true
  · have wrote := s'.writeSlices_wrote l hb hd (sliceVals_length d.w.slices (s'.sysRead l r.toNat))
    simp only [guard, if_pos hg, s'.dst_of_not_x l _ hx]
    rw [h, ht.gs, State.sysRead_congr ht h] at wrote ⊢
    exact ⟨.writeSlices s' l _ _, wrote⟩
  · simp only [guard, if_neg hg]
    exact ⟨.refl s' l, h⟩

/-! ## SYSWR by scope -/

theorem Group.sysWrite_controlOnly (g : Group) (r : Nat) (v : Word) : g.ControlOnly (g.sysWrite r v) := by
  unfold Group.sysWrite Group.ControlOnly
  split_ifs <;> rfl

/-- A team whose send counter n has been written: NEWREF clears by writing 1 (Table 14.3). -/
def Team.clearNewref (n : Nat) (m : Team) (v : Word) : Team :=
  { m with sndc := m.sndc.modify n fun c => c &&& ~~~(v &&& 0x8000000000000000) }

theorem Team.clearNewref_sndcOnly (n : Nat) (m : Team) (v : Word) :
    Team.clearNewref n m v = { m with sndc := (Team.clearNewref n m v).sndc } := rfl

theorem Team.clearNewref_default (n : Nat) (v : Word) : Team.clearNewref n default v = default := by
  have none : (default : Team).sndc = [] := rfl
  simp only [Team.clearNewref, none, List.modify_nil]
  rfl

/-- NEWREF is bit 63 (Table 14.3). -/
theorem and_not_newref (c v : Word) :
    c &&& ~~~(v &&& 0x8000000000000000) = if v.getLsbD 63 then c &&& 0x7FFFFFFFFFFFFFFF else c := by
  have bit : v &&& 0x8000000000000000 = if v.getLsbD 63 then 0x8000000000000000 else 0 := BitVec.and_twoPow v 63
  rw [bit]
  split
  · rfl
  · change c &&& ~~~0#64 = c
    rw [BitVec.not_zero, BitVec.and_allOnes]

theorem Team.clearNewref_sndc (n k : Nat) (m : Team) (v : Word) : (Team.clearNewref n m v).sndc.getD k 0 =
    if k = n ∧ v.getLsbD 63 = true then m.sndc.getD k 0 &&& 0x7FFFFFFFFFFFFFFF else m.sndc.getD k 0 := by
  simp only [Team.clearNewref, List.getD_eq_getElem?_getD, List.getElem?_modify, and_not_newref]
  by_cases e : k = n
  · subst e
    cases m.sndc[k]? <;> simp
  · simp [e, Ne.symm e]

/-- Writes of a send counter by several lanes clear NEWREF if one of them does. -/
theorem Team.foldl_clearNewref (n : Nat) (v : Nat → Word) (ls : List Nat) (m : Team) :
    let m' := ls.foldl (fun m l => Team.clearNewref n m (v l)) m
    m' = { m with sndc := m'.sndc } ∧ ∀ k, m'.sndc.getD k 0 =
      if k = n ∧ ls.any (fun l => (v l).getLsbD 63) = true then m.sndc.getD k 0 &&& 0x7FFFFFFFFFFFFFFF else m.sndc.getD k 0 := by
  induction ls generalizing m with
  | nil => exact ⟨rfl, fun k => by simp⟩
  | cons l ls ih =>
    obtain ⟨rest, counters⟩ := ih (Team.clearNewref n m (v l))
    refine ⟨by rw [List.foldl_cons, rest]; rfl, fun k => ?_⟩
    rw [List.foldl_cons, counters, Team.clearNewref_sndc, List.any_cons]
    by_cases e : k = n
    · cases (v l).getLsbD 63 <;> simp [e, BitVec.and_assoc]
    · simp [e]

/-- The team after such writes, and that no other team changes. -/
theorem State.onTeam_clearNewref (s : State) (n : Nat) (v : Nat → Word) (ls : List Nat) :
    let t := s.onTeam s.ig.team fun m => ls.foldl (fun m l => Team.clearNewref n m (v l)) m
    let m := s.team s.ig.team
    let m' := t.team s.ig.team
    (∀ k, k ≠ s.ig.team → t.team k = s.team k) ∧ m' = { m with sndc := m'.sndc } ∧ ∀ k, m'.sndc.getD k 0 =
      if k = n ∧ ls.any (fun l => (v l).getLsbD 63) = true then m.sndc.getD k 0 &&& 0x7FFFFFFFFFFFFFFF else m.sndc.getD k 0 := by
  intro t m m'
  have absent : ls.foldl (fun m l => Team.clearNewref n m (v l)) default = default :=
    List.foldl_fixed' (fun l => Team.clearNewref_default n (v l)) ls
  have team (k : Nat) : t.team k = if k = s.ig.team then ls.foldl (fun m l => Team.clearNewref n m (v l)) m else s.team k :=
    s.onTeam_team s.ig.team k absent
  have issuing : m' = ls.foldl (fun m l => Team.clearNewref n m (v l)) m := (team s.ig.team).trans (if_pos rfl)
  rw [issuing]
  exact ⟨fun k hk => (team k).trans (if_neg hk), Team.foldl_clearNewref n v ls m⟩

theorem State.sysWrite_thread {r : Nat} (hr : r < 0x100) (s : State) (l : Nat) (v : Word) :
    s.sysWrite l r v = s.onLane l (·.sysWrite r v) := if_pos hr

theorem State.sysWrite_group {r : Nat} (h1 : ¬ r < 0x100) (h2 : r < 0x200) (s : State) (l : Nat) (v : Word) :
    s.sysWrite l r v = s.onIg (·.sysWrite r v) := (if_neg h1).trans (if_pos h2)

theorem State.sysWrite_team {r : Nat} (h1 : ¬ r < 0x100) (h2 : ¬ r < 0x200) (s : State) (l : Nat) (v : Word) :
    s.sysWrite l r v = s.onTeam s.ig.team (Team.clearNewref (r - 0x210) · v) := (if_neg h1).trans (if_neg h2)

/-- A write of a register that the group or the team holds changes what no operand and no guard reads. -/
theorem ControlOnly.sysWrite {r : Nat} (h1 : ¬ r < 0x100) (s : State) (l : Nat) (v : Word) : ControlOnly s (s.sysWrite l r v) := by
  by_cases h2 : r < 0x200
  · rw [State.sysWrite_group h1 h2]
    exact .onIg s fun g => g.sysWrite_controlOnly r v
  · rw [State.sysWrite_team h1 h2]
    exact .onTeam s s.ig.team (Team.clearNewref_default _ v) fun m => Team.clearNewref_sndcOnly _ m v

/-- A value that is not refused is written. -/
theorem State.sysWriteLane_of_not_refused {s : State} {a : Operand} {r l : Nat} (h : s.sysRefuses r (s.sysSource a l) = false) :
    State.sysWriteLane a r s l = .ok (s.sysWrite l r (s.sysSource a l)) := by
  rw [State.sysWriteLane, h, if_neg Bool.false_ne_true]

section

variable {g : Guard} {a : Operand} {r : BitVec 10} (hf : sysFault r.toNat true = none)
include hf

/-- SYSWR of a thread register writes it in each lane that executes. -/
theorem syswr_thread (hr : r.toNat < 0x100) : movesLanes (.syswr g a r) false
    (fun s l => !s.sysRefuses r.toNat (s.sysSource a l)) (fun s l th => th.sysWrite r.toNat (s.sysSource a l)) := by
  refine movesLanes_of (exec_syswr_of_none hf g a) fun s s' l ht h hok => ?_
  have source : s'.sysSource a l = s.sysSource a l := congrArg (extendW a.x a.w.bits) (State.src_congr ht h a a.w.bits)
  have kept : s'.sysRefuses r.toNat (s'.sysSource a l) = false := by
    rw [source]
    simpa only [State.sysRefuses, ht.ir, Bool.not_eq_true'] using hok
  refine ⟨(·.sysWrite r.toNat (s.sysSource a l)), rfl, ?_⟩
  rw [State.sysWriteLane_of_not_refused kept, source, State.sysWrite_thread hr]
  rfl

/-- SYSWR of a register that the group or the team holds makes the writes of the lanes that execute, in order. -/
theorem exec_syswr_shared (hr : ¬ r.toNat < 0x100) {s : State} (hs : s.canRun (.syswr g a r) = true)
    (hok : ∀ l ∈ s.issue.lanes, s.guardHolds l g = true → s.sysRefuses r.toNat (s.sysSource a l) = false) :
    exec (.syswr g a r) s = .next
      ((s.issue.lanes.filter fun l => s.guardHolds l g).foldl (fun t l => t.sysWrite l r.toNat (s.sysSource a l)) s) := by
  obtain ⟨fold, control⟩ := State.foldl_lane_of_controlOnly (f := State.sysWriteLane a r.toNat)
    (step := fun t l => t.sysWrite l r.toNat (s.sysSource a l)) hs fun t l hl hg ht => by
      have source : t.sysSource a l = s.sysSource a l := congrArg (extendW a.x a.w.bits) (ht.src l a a.w.bits)
      refine ⟨?_, .sysWrite hr t l _⟩
      rw [State.sysWriteLane_of_not_refused (by rw [source, ht.sysRefuses]; exact hok l hl hg), source]
  rw [exec_syswr_of_none hf, State.lanes, State.lanesThen, fold, control.finish (State.canRun_begun hs)]
  rfl

end

/-! ## FMODE -/

/-- Where no lane faults on its guard or operands, the lanes that execute are those whose guard holds. -/
theorem State.executing_eq_filter {s : State} {i : Instr} (hr : s.canRun i = true) :
    s.executing i = s.issue.lanes.filter fun l => s.guardHolds l i.guard :=
  List.filter_congr fun l hl => by
    rw [State.canRun_guard hr hl]
    by_cases hg : s.guardHolds l i.guard = true
    · simp [hg, State.canRun_operands hr hl hg]
    · simp [hg]

/-- No lane acts exactly where the set of the lanes that do is empty. -/
theorem State.actors_eq_zero_iff {s : State} {i : Instr} (hb : s.begun = true) :
    s.actors i = 0 ↔ (s.issue.lanes.filter fun l => s.guardHolds l i.guard) = [] := by
  refine ⟨fun h => List.eq_nil_iff_forall_not_mem.2 fun l hl => ?_, fun h => congrArg laneSet h⟩
  have bit : (s.actors i).getLsbD l = true :=
    (laneSet_getLsbD _ l (State.begun_lane hb (List.mem_of_mem_filter hl))).trans (List.contains_iff_mem.2 hl)
  rw [h] at bit
  exact Bool.false_ne_true (BitVec.getLsbD_zero.symm.trans bit)

/-- A word of FMODE changes it once, if a lane executes (R467). -/
theorem State.fmodeWord_eq {s : State} {i : Instr} (f : BitVec 11 → BitVec 11) (hr : s.canRun i = true) :
    s.fmodeWord i f = if s.actors i = 0 then s else s.onIg fun g => { g with fmode := f g.fmode } := by
  have hb := State.canRun_begun hr
  obtain ⟨fold, -⟩ := State.foldl_lane_of_controlOnly (f := fun s _ => .ok s) (step := fun s _ => s) hr
    fun t _ _ _ _ => ⟨rfl, .refl t⟩
  rw [List.foldl_fixed] at fold
  simp only [State.fmodeWord, State.lanesThen, fold, State.executing_eq_filter hr, State.actors_eq_zero_iff hb, bne_iff_ne, ne_eq,
    ite_not]
  split
  · exact (ControlOnly.refl s).finish hb
  · have control : ControlOnly s (s.onIg fun g => { g with fmode := f g.fmode }) := .onIg s fun _ => rfl
    exact control.finish hb

/-! ## The words -/

/-- SYSRD writes the value that each lane reads; SYSWR writes by scope; the privileged numbers fault for the whole issue set. -/
theorem systemRegisters_holds : systemRegisters := by
  refine ⟨fun g d r s hs hf => ⟨_, exec_sysrd_of_none hf g d s, s.sysrd_lanesDo hs⟩, fun g a r s hs hf => ?write,
    fun g d a r s _ hr hk => ⟨⟨_, exec_sysrd_of_fault (sysFault_privileged hr hk (by simp)) g d s, rfl⟩,
      fun hw => ⟨_, exec_syswr_of_fault (sysFault_privileged hr hk fun _ => hw) g a s, rfl⟩⟩⟩
  case write =>
    change (∀ l ∈ s.issue.lanes, s.guardHolds l g = true → s.sysRefuses r.toNat (s.sysSource a l) = false) → _
    intro hok
    by_cases h1 : r.toNat < 0x100
    · simp only [if_pos h1]
      exact syswr_thread hf h1 s hs fun l hl hg => by simpa using hok l hl hg
    · refine ⟨_, exec_syswr_shared hf h1 hs hok, ?_⟩
      by_cases h2 : r.toNat < 0x200
      · simp only [if_neg h1, if_pos h2, State.sysWrite_group h1 h2, State.foldl_onIg]
        exact ⟨rfl, s.onIg_ig _ (State.begun_group (State.canRun_begun hs)), fun k hk => s.onIg_group _ hk⟩
      · simp only [if_neg h1, if_neg h2, State.sysWrite_team h1 h2, State.foldl_onTeam]
        exact ⟨rfl, s.onTeam_clearNewref (r.toNat - 0x210) (s.sysSource a) _⟩

/-- FMODE's words set, clear or replace its bits, once for the issue set. -/
theorem fmodeWords_holds : fmodeWords := by
  intro g v i f hi s hs
  have meaning : exec i s = .next (s.fmodeWord i f) := by
    rcases hi with ⟨rfl, rfl⟩ | ⟨rfl, rfl⟩ | ⟨rfl, rfl⟩ <;> rfl
  refine ⟨_, meaning, ?_⟩
  rw [State.fmodeWord_eq f hs]
  split
  · exact ⟨rfl, rfl, fun _ _ => rfl⟩
  · exact ⟨rfl, s.onIg_ig _ (State.begun_group (State.canRun_begun hs)), fun k hk => s.onIg_group _ hk⟩

/-- Settles O54: what a lane writes is its own thread's or is read by no operand and no guard, so no lane's access disturbs another's. -/
theorem systemRegisterWords : Obligations.SystemRegisterWords := ⟨systemRegisters_holds, fmodeWords_holds⟩

end Machine
end Sys2Proof
